-- ==== Sys2Proof/Word.lean ====
section
/-! DEFINITION. Sys2Proof/Word.lean: the words of the machine and nothing else. Registers and immediates are bit
vectors; addresses used as keys of memory are natural numbers. -/

namespace Sys2Proof

/-- A byte of memory. -/
abbrev Byte := BitVec 8

/-- A scalar register or control register. -/
abbrev W64 := BitVec 64

/-- The contents of a vector register: 32 lanes of 32 bits in the widest view (R205). -/
abbrev VReg := BitVec 1024

/-- The lane bits of a predicate register (R205). -/
abbrev PReg := BitVec 32

end Sys2Proof
end

