-- ==== Sys2Proof/Machine/SparseMap.lean ====
section
/-! DEFINITION. Sys2Proof/Machine/SparseMap.lean: finite maps keyed by numbers, as lists of pairs whose keys strictly rise.
Memory, register banks and the tables of units are held in this one form. -/

namespace Sys2Proof.Machine

/-- A finite map: pairs with strictly rising keys (`SMap.wf`). -/
abbrev SMap (α : Type) := List (Nat × α)

/-- The value at a key. -/
def SMap.find? {α : Type} : SMap α → Nat → Option α
  | [], _ => none
  | (k, v) :: m, a => if a = k then some v else if a < k then none else SMap.find? m a

/-- The value at a key, or what an unlisted key holds. -/
def SMap.getD {α : Type} (m : SMap α) (a : Nat) (d : α) : α := (m.find? a).getD d

/-- Sets the value at a key. -/
def SMap.insert {α : Type} : SMap α → Nat → α → SMap α
  | [], a, x => [(a, x)]
  | (k, v) :: m, a, x =>
    if a = k then (a, x) :: m else if a < k then (a, x) :: (k, v) :: m else (k, v) :: SMap.insert m a x

/-- Removes a key. -/
def SMap.erase {α : Type} : SMap α → Nat → SMap α
  | [], _ => []
  | (k, v) :: m, a => if a = k then m else if a < k then (k, v) :: m else (k, v) :: SMap.erase m a

/-- Sets the value at a key; the value `d` of unlisted keys is never listed, so that equal maps are equal lists. -/
def SMap.put {α : Type} [DecidableEq α] (m : SMap α) (d : α) (a : Nat) (x : α) : SMap α :=
  if x = d then m.erase a else m.insert a x

/-- Every key of the map is above `lo`, when there is a bound, and the keys strictly rise. -/
def SMap.above {α : Type} : Option Nat → SMap α → Bool
  | _, [] => true
  | lo, (k, _) :: m => (match lo with | none => true | some l => decide (l < k)) && SMap.above (some k) m

/-- The canonical order of a map. -/
def SMap.wf {α : Type} (m : SMap α) : Bool := SMap.above none m

/-- No entry equals what an unlisted key holds. -/
def SMap.noDefault {α : Type} [DecidableEq α] (d : α) (m : SMap α) : Bool := m.all fun e => e.2 != d

/-- A finite set of numbers, as a strictly rising list. -/
abbrev NSet := List Nat

/-- Membership. -/
def NSet.has : NSet → Nat → Bool
  | [], _ => false
  | k :: m, a => if a = k then true else if a < k then false else NSet.has m a

/-- Adds a number. -/
def NSet.add : NSet → Nat → NSet
  | [], a => [a]
  | k :: m, a => if a = k then k :: m else if a < k then a :: k :: m else k :: NSet.add m a

/-- Removes a number. -/
def NSet.del : NSet → Nat → NSet
  | [], _ => []
  | k :: m, a => if a = k then m else if a < k then k :: m else k :: NSet.del m a

/-- Changes the element at a place of a list. -/
def modNth {α : Type} (i : Nat) (f : α → α) : List α → List α
  | [] => []
  | x :: l => match i with
    | 0 => f x :: l
    | n + 1 => x :: modNth n f l

end Sys2Proof.Machine
end

