-- ==== Sys2Proof/Syntax.lean ====
section
/-! DEFINITION. Sys2Proof/Syntax.lean: the instructions of the ZD-160, one constructor of `Instr` per row of
spec/opcode_table.json. The encoded instructions stand first, in the table's order; the rows without an encoding
(what a unit, a timer, a link or the host does) follow as event constructors, whose arguments are what comes from
outside the machine. -/

namespace Sys2Proof

/-- The size code of the A and M formats (R224). -/
inductive Sz where
  | b | h | w | d | bs | hs | ws
  deriving DecidableEq, Repr

/-- The operation of `shi` (R233). -/
inductive ShiftOp where
  | sll | srl | sra | rol
  deriving DecidableEq, Repr

/-- The condition of a branch (R226). -/
inductive Cc where
  | eq | ne | lt | ge | ltu | geu | full | empty
  deriving DecidableEq, Repr

/-- A synchronisation scope (R111). -/
inductive Scope where
  | core | polder | stack | package | pod | host
  deriving DecidableEq, Repr

/-- The combine of `sol` (R229). -/
inductive Comb where
  | addI64 | maxI64 | minI64 | orI64 | addF32 | maxF32 | count
  deriving DecidableEq, Repr

/-- The kind of register a continuation names in `mkcont` (R235). -/
inductive RegKind where
  | scalar | vector
  deriving DecidableEq, Repr

/-- The element type of `vint` (R236). -/
inductive IntTy where
  | i32 | i16 | i8
  deriving DecidableEq, Repr

/-- The width a `gang` binds (R202). -/
inductive GangWidth where
  | x2 | x4
  deriving DecidableEq, Repr

/-- A level of work above the task (R216, R237). -/
inductive Level where
  | launch | graph | phase | job
  deriving DecidableEq, Repr

/-- A rounding code (R228). -/
inductive Rnd where
  | rne | rz | sr | rna
  deriving DecidableEq, Repr

/-- A format byte (R227): binary8 with precision, signedness and infinities, or one of the fixed formats. -/
inductive Fmt where
  | b8 (p : Nat) (signed inf : Bool)
  | f32 | bf16 | f16 | i8 | i16 | i32
  deriving DecidableEq, Repr

/-- Word 2 of `vcvt` (R236): the scale register when there is one, companding, saturation, rounding, formats. -/
structure CvtWord where
  scale : Option Nat
  cmp : Bool
  sat : Bool
  rnd : Rnd
  dst : Fmt
  src : Fmt
  deriving DecidableEq, Repr

/-- Whose request a slice, a stack SRAM bank or the host port serves: a thread's next load, its core's next store, or transfer
`i` of the put engine, with whether its local read has timed out, the bytes the host supplied for it and whether they came in error. -/
inductive Requester where
  | load | store
  | engine (i : Nat) (late : Bool) (data : List Byte) (bad : Bool)
  deriving DecidableEq, Repr

/-- What a management write of R33 stores: bytes of BAR0 or of control space, or a setting whose register the spec does not place: the
trust list (R152: key identifier, public key, revoked), an image for the stack code cache (R186), a channel's scrub interval
(R175), the page-request allocation (R38), a phase opened or closed (R216), the time root (R90), a MACsec key of an Ethernet port (R102). -/
inductive MgmtWrite where
  | bar0 (off : Nat) (data : List Byte)
  | control (off : Nat) (data : List Byte)
  | trust (list : List (Nat × Nat × Bool))
  | codeCache (digest tag : Nat) (transl : Bool) (data : List Byte)
  | scrub (chan hours : Nat) (on : Bool)
  | priAllocation (n : Nat)
  | phase (dike phase : Nat) (close : Bool)
  | timeRoot (on : Bool)
  | macsec (port key : Nat)
  deriving DecidableEq, Repr

/-- A transfer over a vertical bus: a byte of the line that it moves, the agent of R176 and the endpoint that it serves, and whether it
writes the channel. -/
structure Transfer where
  pa : Nat
  agent : Nat
  ep : Nat
  write : Bool
  deriving DecidableEq, Repr

/-- The arrived packet whose bytes are to be written, and whether their write has timed out (R92). -/
structure Landing where
  i : Nat
  late : Bool
  deriving DecidableEq, Repr

/-- Whose install waits: the loader's of a digest (R163), or the `cinst` of a system thread (R396). -/
inductive Installer where
  | loader (digest : Nat)
  | system (thr : Nat)
  deriving DecidableEq, Repr

/-- Where a sluice's packet comes from: an input and class of the router at an edge of its stack, or the verified bytes of one of its
Enrik ports. -/
inductive SluiceSource where
  | mesh (edge input cls : Nat)
  | link (port : Nat)
  deriving DecidableEq, Repr

/-- The instructions: the encoded ones, then the events. -/
inductive Instr where
  /-- Adds two registers modulo 2^W. (R284) -/
  | add (d a b : Nat) (sz : Sz)
  /-- Subtracts modulo 2^W. (R284) -/
  | sub (d a b : Nat) (sz : Sz)
  /-- Low W bits of the product. (R284) -/
  | mul (d a b : Nat) (sz : Sz)
  /-- High W bits of the signed product. (R284) -/
  | mulh (d a b : Nat) (sz : Sz)
  /-- High W bits of the unsigned product. (R284) -/
  | mulhu (d a b : Nat) (sz : Sz)
  /-- Signed division on the shared divider, as a long-latency result. (R285) -/
  | div (d a b : Nat) (sz : Sz)
  /-- Unsigned division. (R285) -/
  | divu (d a b : Nat) (sz : Sz)
  /-- Signed remainder. (R285) -/
  | rem (d a b : Nat) (sz : Sz)
  /-- Unsigned remainder. (R285) -/
  | remu (d a b : Nat) (sz : Sz)
  /-- 64-bit bitwise AND. (R284) -/
  | and (d a b : Nat)
  /-- 64-bit bitwise OR. (R284) -/
  | or (d a b : Nat)
  /-- 64-bit bitwise XOR. (R284) -/
  | xor (d a b : Nat)
  /-- 64-bit AND with the complement of b. (R284) -/
  | andn (d a b : Nat)
  /-- Shift left logical. (R284) -/
  | sll (d a b : Nat) (sz : Sz)
  /-- Shift right logical. (R284) -/
  | srl (d a b : Nat) (sz : Sz)
  /-- Shift right arithmetic. (R284) -/
  | sra (d a b : Nat) (sz : Sz)
  /-- Rotate left. (R284) -/
  | rol (d a b : Nat) (sz : Sz)
  /-- Rotate right. (R284) -/
  | ror (d a b : Nat) (sz : Sz)
  /-- Signed minimum. (R284) -/
  | min (d a b : Nat) (sz : Sz)
  /-- Signed maximum. (R284) -/
  | max (d a b : Nat) (sz : Sz)
  /-- Unsigned minimum. (R284) -/
  | minu (d a b : Nat) (sz : Sz)
  /-- Unsigned maximum. (R284) -/
  | maxu (d a b : Nat) (sz : Sz)
  /-- 1 if a < b signed. (R284) -/
  | slt (d a b : Nat) (sz : Sz)
  /-- 1 if a < b unsigned. (R284) -/
  | sltu (d a b : Nat) (sz : Sz)
  /-- 1 if a == b. (R284) -/
  | seq (d a b : Nat) (sz : Sz)
  /-- Count leading zeros. (R284) -/
  | clz (d a : Nat) (sz : Sz)
  /-- Count trailing zeros. (R284) -/
  | ctz (d a : Nat) (sz : Sz)
  /-- Population count. (R284) -/
  | popc (d a : Nat) (sz : Sz)
  /-- Sign-extends the low S bits. (R284) -/
  | sext (d a : Nat) (sz : Sz)
  /-- Zero-extends the low S bits. (R284) -/
  | zext (d a : Nat) (sz : Sz)
  /-- d = a + (b << sz). (R284) -/
  | ixa (d a b : Nat) (sz : Sz)
  /-- Extracts a bit field. (R286) -/
  | bfx (d a b : Nat) (sz : Sz)
  /-- Inserts a bit field into d. (R286) -/
  | bfi (d a b : Nat) (sz : Sz)
  /-- Adds a sign-extended immediate. (R287) -/
  | addi (d a : Nat) (imm : BitVec 16)
  /-- AND with a zero-extended immediate. (R287) -/
  | andi (d a : Nat) (imm : BitVec 16)
  /-- OR with a zero-extended immediate. (R287) -/
  | ori (d a : Nat) (imm : BitVec 16)
  /-- XOR with a zero-extended immediate. (R287) -/
  | xori (d a : Nat) (imm : BitVec 16)
  /-- Signed compare with an immediate. (R287) -/
  | slti (d a : Nat) (imm : BitVec 16)
  /-- Unsigned compare with a sign-extended immediate. (R287) -/
  | sltiu (d a : Nat) (imm : BitVec 16)
  /-- Shift or rotate by an immediate amount, the operation chosen by imm[15:14]. (R287) -/
  | shi (d a : Nat) (op : ShiftOp) (n : Nat)
  /-- d = SignExtend(imm << 16). (R287) -/
  | lih (d : Nat) (imm : BitVec 16)
  /-- Adds a sign-extended immediate shifted left by 16. (R287) -/
  | addih (d a : Nat) (imm : BitVec 16)
  /-- Multiplies by a sign-extended immediate. (R287) -/
  | muli (d a : Nat) (imm : BitVec 16)
  /-- Loads a sign-extended 32-bit immediate. (R288) -/
  | limm (d : Nat) (k : BitVec 32)
  /-- Sets the high 32 bits of d from a 32-bit immediate. (R288) -/
  | limmh (d : Nat) (k : BitVec 32)
  /-- Adds a sign-extended 32-bit immediate to d. (R288) -/
  | addl (d : Nat) (k : BitVec 32)
  /-- Conditional branch on a comparison or a register state selected by cc. (R289) -/
  | br (cc : Cc) (a b : Nat) (disp : BitVec 12)
  /-- Unconditional jump. (R290) -/
  | jmp (disp : BitVec 26)
  /-- Jumps to the offset in a register. (R291) -/
  | jr (a : Nat)
  /-- Returns through the frame record at fp, or ends the task. (R296) -/
  | ret
  /-- Calls the function whose digest is in memory at sP. (R294) -/
  | callm (p n : Nat)
  /-- Tail-calls the function whose digest is in memory. (R295) -/
  | tailm (p n : Nat)
  /-- Writes its own code offset to d. (R291) -/
  | here (d : Nat)
  /-- Calls an imported digest and writes a frame record. (R294) -/
  | call (site imp : Nat)
  /-- Tail-calls an imported digest. (R295) -/
  | tail (site imp : Nat)
  /-- Captures a vector block and hands its replays to the sequencer. (R299) -/
  | rpt (len a str : Nat)
  /-- Raises SOFTWARE with the immediate in c.addr. (R304) -/
  | trap (imm : BitVec 16)
  /-- Plain scalar load. (R308) -/
  | ld (d a : Nat) (sz : Sz) (off : BitVec 11)
  /-- Acquire load that holds younger loads until performed. (R308) -/
  | ldAcq (d a : Nat) (sz : Sz) (off : BitVec 11)
  /-- Load that waits for a full word. (R308) -/
  | ldSync (d a : Nat) (sz : Sz) (off : BitVec 11)
  /-- Load that waits for a full word and empties it. (R308) -/
  | ldTake (d a : Nat) (sz : Sz) (off : BitVec 11)
  /-- Plain store into the store buffer. (R309) -/
  | st (d a : Nat) (sz : Sz) (off : BitVec 11)
  /-- Release store. (R309) -/
  | stRel (d a : Nat) (sz : Sz) (off : BitVec 11)
  /-- Store that sets the word full. (R309) -/
  | stFill (d a : Nat) (sz : Sz) (off : BitVec 11)
  /-- Release store that sets the word full. (R309) -/
  | stRelfill (d a : Nat) (sz : Sz) (off : BitVec 11)
  /-- Unit-stride vector load. (R311) -/
  | vld (vd a pr : Nat) (off : BitVec 12)
  /-- Vector load broadcasting a 32-bit element. (R311) -/
  | vldBc32 (vd a pr : Nat) (off : BitVec 12)
  /-- Vector load broadcasting a 16-bit element. (R311) -/
  | vldBc16 (vd a pr : Nat) (off : BitVec 12)
  /-- Vector load broadcasting an 8-bit element. (R311) -/
  | vldBc8 (vd a pr : Nat) (off : BitVec 12)
  /-- Vector store of the active lanes as one store. (R311) -/
  | vst (vd a pr : Nat) (off : BitVec 12)
  /-- Loads one 32-bit element per active lane. (R313) -/
  | gather (vd va b sc pr : Nat)
  /-- Stores one 32-bit element per active lane. (R313) -/
  | scatter (vd va b sc pr : Nat)
  /-- Atomic add at the serving memory. (R315) -/
  | amoAdd (d a b : Nat) (sz : Sz)
  /-- Atomic AND. (R315) -/
  | amoAnd (d a b : Nat) (sz : Sz)
  /-- Atomic OR. (R315) -/
  | amoOr (d a b : Nat) (sz : Sz)
  /-- Atomic XOR. (R315) -/
  | amoXor (d a b : Nat) (sz : Sz)
  /-- Atomic signed minimum. (R315) -/
  | amoMin (d a b : Nat) (sz : Sz)
  /-- Atomic signed maximum. (R315) -/
  | amoMax (d a b : Nat) (sz : Sz)
  /-- Atomic unsigned minimum. (R315) -/
  | amoMinu (d a b : Nat) (sz : Sz)
  /-- Atomic unsigned maximum. (R315) -/
  | amoMaxu (d a b : Nat) (sz : Sz)
  /-- Atomic swap. (R315) -/
  | amoSwap (d a b : Nat) (sz : Sz)
  /-- Atomic compare-and-swap with the new value in b+1. (R315) -/
  | amoCas (d a b : Nat) (sz : Sz)
  /-- Atomic FP32 add. (R315) -/
  | amoFadd (d a b : Nat)
  /-- Atomic FP32 maximum. (R315) -/
  | amoFmax (d a b : Nat)
  /-- Holds younger accesses until the scope's condition of R116 holds. (R317) -/
  | fence (scope : Scope)
  /-- Prefetches a line near the core, unordered and fault-free. (R318) -/
  | pf (a : Nat)
  /-- Writes back a line's dirty words. (R319) -/
  | clean (a : Nat)
  /-- Drops the stack's non-coherent copies of a line. (R319) -/
  | inval (a : Nat)
  /-- Writes zeros to a 64-byte line. (R320) -/
  | zero (a : Nat)
  /-- Forms a continuation and makes the named register owed to it. (R322) -/
  | mkcont (d a : Nat) (kind : RegKind)
  /-- Sends a 64-bit fill to a continuation through the store buffer. (R323) -/
  | send (a b : Nat)
  /-- Configures the core's upstream and downstream channel ends. (R325) -/
  | qcfg (a b : Nat)
  /-- Reads channel status. (R326) -/
  | qstat (d : Nat)
  /-- FP32 add. (R331) -/
  | vf32Add (vd va vb pr : Nat)
  /-- FP32 subtract. (R331) -/
  | vf32Sub (vd va vb pr : Nat)
  /-- FP32 multiply. (R331) -/
  | vf32Mul (vd va vb pr : Nat)
  /-- FP32 fused multiply-add. (R331) -/
  | vf32Fma (vd va vb vc pr : Nat)
  /-- FP32 fused multiply-subtract. (R331) -/
  | vf32Fms (vd va vb vc pr : Nat)
  /-- FP32 negated fused multiply-add. (R331) -/
  | vf32Fnma (vd va vb vc pr : Nat)
  /-- FP32 minimum. (R331) -/
  | vf32Min (vd va vb pr : Nat)
  /-- FP32 maximum. (R331) -/
  | vf32Max (vd va vb pr : Nat)
  /-- FP32 absolute value. (R331) -/
  | vf32Abs (vd va pr : Nat)
  /-- FP32 negation. (R331) -/
  | vf32Neg (vd va pr : Nat)
  /-- FP32 equality compare into a predicate. (R331) -/
  | vf32Cmpeq (vd va vb pr : Nat)
  /-- FP32 less-than compare. (R331) -/
  | vf32Cmplt (vd va vb pr : Nat)
  /-- FP32 less-or-equal compare. (R331) -/
  | vf32Cmple (vd va vb pr : Nat)
  /-- FP32 reciprocal within 1 ulp. (R332) -/
  | vf32Rcp (vd va pr : Nat)
  /-- FP32 reciprocal square root. (R332) -/
  | vf32Rsqrt (vd va pr : Nat)
  /-- Correctly rounded FP32 square root. (R332) -/
  | vf32Sqrt (vd va pr : Nat)
  /-- FP32 base-2 exponential. (R332) -/
  | vf32Exp2 (vd va pr : Nat)
  /-- FP32 base-2 logarithm. (R332) -/
  | vf32Log2 (vd va pr : Nat)
  /-- FP32 hyperbolic tangent. (R332) -/
  | vf32Tanh (vd va pr : Nat)
  /-- FP32 logistic sigmoid. (R332) -/
  | vf32Sig (vd va pr : Nat)
  /-- BF16 add. (R331) -/
  | vbf16Add (vd va vb pr : Nat)
  /-- BF16 subtract. (R331) -/
  | vbf16Sub (vd va vb pr : Nat)
  /-- BF16 multiply. (R331) -/
  | vbf16Mul (vd va vb pr : Nat)
  /-- BF16 fused multiply-add. (R331) -/
  | vbf16Fma (vd va vb vc pr : Nat)
  /-- BF16 fused multiply-subtract. (R331) -/
  | vbf16Fms (vd va vb vc pr : Nat)
  /-- BF16 negated fused multiply-add. (R331) -/
  | vbf16Fnma (vd va vb vc pr : Nat)
  /-- BF16 minimum. (R331) -/
  | vbf16Min (vd va vb pr : Nat)
  /-- BF16 maximum. (R331) -/
  | vbf16Max (vd va vb pr : Nat)
  /-- BF16 absolute value. (R331) -/
  | vbf16Abs (vd va pr : Nat)
  /-- BF16 negation. (R331) -/
  | vbf16Neg (vd va pr : Nat)
  /-- BF16 equality compare into a predicate. (R331) -/
  | vbf16Cmpeq (vd va vb pr : Nat)
  /-- BF16 less-than compare. (R331) -/
  | vbf16Cmplt (vd va vb pr : Nat)
  /-- BF16 less-or-equal compare. (R331) -/
  | vbf16Cmple (vd va vb pr : Nat)
  /-- FP16 add. (R331) -/
  | vf16Add (vd va vb pr : Nat)
  /-- FP16 subtract. (R331) -/
  | vf16Sub (vd va vb pr : Nat)
  /-- FP16 multiply. (R331) -/
  | vf16Mul (vd va vb pr : Nat)
  /-- FP16 fused multiply-add. (R331) -/
  | vf16Fma (vd va vb vc pr : Nat)
  /-- FP16 fused multiply-subtract. (R331) -/
  | vf16Fms (vd va vb vc pr : Nat)
  /-- FP16 negated fused multiply-add. (R331) -/
  | vf16Fnma (vd va vb vc pr : Nat)
  /-- FP16 minimum. (R331) -/
  | vf16Min (vd va vb pr : Nat)
  /-- FP16 maximum. (R331) -/
  | vf16Max (vd va vb pr : Nat)
  /-- FP16 absolute value. (R331) -/
  | vf16Abs (vd va pr : Nat)
  /-- FP16 negation. (R331) -/
  | vf16Neg (vd va pr : Nat)
  /-- FP16 equality compare into a predicate. (R331) -/
  | vf16Cmpeq (vd va vb pr : Nat)
  /-- FP16 less-than compare. (R331) -/
  | vf16Cmplt (vd va vb pr : Nat)
  /-- FP16 less-or-equal compare. (R331) -/
  | vf16Cmple (vd va vb pr : Nat)
  /-- Integer vector add. (R333) -/
  | vintAdd (vd va vb pr : Nat) (ty : IntTy)
  /-- Integer vector subtract. (R333) -/
  | vintSub (vd va vb pr : Nat) (ty : IntTy)
  /-- Integer vector multiply, low bits. (R333) -/
  | vintMul (vd va vb pr : Nat) (ty : IntTy)
  /-- Integer vector multiply-add. (R333) -/
  | vintMad (vd va vb vc pr : Nat) (ty : IntTy)
  /-- Signed vector minimum. (R333) -/
  | vintMin (vd va vb pr : Nat) (ty : IntTy)
  /-- Signed vector maximum. (R333) -/
  | vintMax (vd va vb pr : Nat) (ty : IntTy)
  /-- Unsigned vector minimum. (R333) -/
  | vintMinu (vd va vb pr : Nat) (ty : IntTy)
  /-- Unsigned vector maximum. (R333) -/
  | vintMaxu (vd va vb pr : Nat) (ty : IntTy)
  /-- Vector bitwise AND. (R333) -/
  | vintAnd (vd va vb pr : Nat) (ty : IntTy)
  /-- Vector bitwise OR. (R333) -/
  | vintOr (vd va vb pr : Nat) (ty : IntTy)
  /-- Vector bitwise XOR. (R333) -/
  | vintXor (vd va vb pr : Nat) (ty : IntTy)
  /-- Vector shift left. (R333) -/
  | vintSll (vd va vb pr : Nat) (ty : IntTy)
  /-- Vector logical shift right. (R333) -/
  | vintSrl (vd va vb pr : Nat) (ty : IntTy)
  /-- Vector arithmetic shift right. (R333) -/
  | vintSra (vd va vb pr : Nat) (ty : IntTy)
  /-- Vector integer equality compare into a predicate. (R333) -/
  | vintCmpeq (vd va vb pr : Nat) (ty : IntTy)
  /-- Vector signed less-than compare. (R333) -/
  | vintCmplt (vd va vb pr : Nat) (ty : IntTy)
  /-- Vector unsigned less-than compare. (R333) -/
  | vintCmpltu (vd va vb pr : Nat) (ty : IntTy)
  /-- Vector integer absolute value. (R333) -/
  | vintAbs (vd va pr : Nat) (ty : IntTy)
  /-- Broadcasts a scalar into every active lane. (R334) -/
  | bcast (vd sa pr : Nat)
  /-- Inserts a scalar into lane c. (R334) -/
  | ins (vd sa lane : Nat)
  /-- Extracts lane c into a scalar register. (R334) -/
  | ext (sd va lane : Nat)
  /-- Permutes lanes by an index vector. (R334) -/
  | perm (vd va vb pr : Nat)
  /-- Rotates lanes by c. (R334) -/
  | rot (vd va n pr : Nat)
  /-- Interleaves two vectors. (R334) -/
  | zip (vd va vb pr : Nat)
  /-- De-interleaves two vectors. (R334) -/
  | unzip (vd va vb pr : Nat)
  /-- Packs the active lanes to the bottom. (R334) -/
  | compress (vd va pr : Nat)
  /-- Spreads low lanes into the active lanes. (R334) -/
  | expand (vd va pr : Nat)
  /-- FP32 tree sum of the active lanes. (R335) -/
  | vredSumF32 (vd va pr : Nat)
  /-- FP32 maximum reduction. (R335) -/
  | vredMaxF32 (vd va pr : Nat)
  /-- FP32 minimum reduction. (R335) -/
  | vredMinF32 (vd va pr : Nat)
  /-- i32 sum reduction. (R335) -/
  | vredSumI32 (vd va pr : Nat)
  /-- i32 maximum reduction. (R335) -/
  | vredMaxI32 (vd va pr : Nat)
  /-- i32 minimum reduction. (R335) -/
  | vredMinI32 (vd va pr : Nat)
  /-- Bitwise AND reduction. (R335) -/
  | vredAnd (vd va pr : Nat)
  /-- Bitwise OR reduction. (R335) -/
  | vredOr (vd va pr : Nat)
  /-- Converts elements between formats with one rounding. (R338) -/
  | cvt (vd va pr : Nat) (w : CvtWord)
  /-- Quantises with block scale and optional companding. (R338) -/
  | qnt (vd va pr : Nat) (w : CvtWord)
  /-- Dequantises to FP32 with block scale and optional inversion. (R338) -/
  | dqnt (vd va pr : Nat) (w : CvtWord)
  /-- Computes a block scale byte from the active lanes. (R340) -/
  | vscl (vd va pr : Nat)
  /-- Posts a contribution to the polder maximum exchange and parks. (R343) -/
  | vmaxx (vd va : Nat)
  /-- Applies the block scale and companding to FP32 lanes. (R341) -/
  | comp (vd va vb pr : Nat)
  /-- Inverts companding and applies the block scale. (R341) -/
  | dcomp (vd va vb pr : Nat)
  /-- Selects lanes from two vectors by a predicate. (R336) -/
  | vsel (vd va vb pr : Nat)
  /-- Predicate AND. (R336) -/
  | pand (pd pa pb : Nat)
  /-- Predicate OR. (R336) -/
  | por (pd pa pb : Nat)
  /-- Predicate XOR. (R336) -/
  | pxor (pd pa pb : Nat)
  /-- Predicate NOT. (R336) -/
  | pnot (pd pa : Nat)
  /-- Counts the set predicate bits into a scalar register. (R336) -/
  | pcnt (sd pa : Nat)
  /-- Index of the lowest set predicate bit. (R336) -/
  | pfirst (sd pa : Nat)
  /-- Sets a predicate from scalar bits. (R336) -/
  | pset (pd sa : Nat)
  /-- Leaves the long view, keeping the low 256 bits. (R345) -/
  | vmodeShort
  /-- Enters the long view on a gang leader. (R345) -/
  | vmodeLong
  /-- Binds donor slabs to the leader for gang2 or gang4. (R345) -/
  | gang (width : GangWidth)
  /-- Releases the gang and returns the donors. (R345) -/
  | gangrel
  /-- Zeroes a vector register and makes it full. (R345) -/
  | vclr (d : Nat)
  /-- Loads the core's matrix format context and companding table. (R350) -/
  | mcfg (a : Nat)
  /-- Checks two operand records and queues a tile multiply-accumulate. (R357) -/
  | mmul (n a b : Nat)
  /-- Queues a clear of an accumulator tile. (R357) -/
  | mzero (n : Nat)
  /-- Queues a store of an accumulator tile to memory. (R357) -/
  | mst (n a : Nat)
  /-- Queues a load of an accumulator tile from memory. (R357) -/
  | mld (n a : Nat)
  /-- Waits for a tile's earlier commands and returns its status. (R360) -/
  | mwait (d n : Nat)
  /-- Runs the child at once and pushes the parent's continuation on the deque. (R364) -/
  | spawn (site imp : Nat)
  /-- Parks until the frame's join word counts no children. (R366) -/
  | join
  /-- Allocates a TCB from an image with a dependence counter. (R367) -/
  | tnew (d a b : Nat)
  /-- Adds a dependence edge between two tasks. (R367) -/
  | tdep (a b : Nat)
  /-- Decrements a task's counter and readies it at zero. (R367) -/
  | trel (a : Nat)
  /-- Ends the task, hands its successor list to the release unit and frees the slot. (R368) -/
  | tdone
  /-- Atomically claims a chunk of an index range. (R369) -/
  | range (d a : Nat)
  /-- Saves the task and returns it to the ready queue. (R368) -/
  | yield
  /-- Marks an enclosing level as cancelled. (R370) -/
  | tcancel (lev : Level)
  /-- Reports whether an enclosing level is cancelled. (R370) -/
  | tlev (d : Nat) (lev : Level)
  /-- Claims a census slot and broadcasts a solicit for a key. (R375) -/
  | sol (d a b imp : Nat) (scope : Scope) (comb : Comb)
  /-- Contributes a value to the census and ends the responder. (R376) -/
  | reply (a : Nat)
  /-- Inserts a keyed tile into the polder's directory. (R374) -/
  | kput (a b len : Nat)
  /-- Removes a keyed tile entry. (R374) -/
  | kdel (a b : Nat)
  /-- Moves a keyed-tile entry to another polder's directory under census holds. (R378) -/
  | kmove (a b : Nat)
  /-- Finds the tile address of the lowest entry with a key. (R374) -/
  | kfind (d a : Nat)
  /-- Initialises a barrier's expected counts. (R380) -/
  | barinit (a b : Nat)
  /-- Adds an arrival as a release and returns the old phase. (R380) -/
  | arrive (d a : Nat)
  /-- Parks until the barrier phase flips, then acts as an acquire. (R380) -/
  | await (a b : Nat)
  /-- Adds bytes to a barrier as a release. (R380) -/
  | barbytes (a b : Nat)
  /-- Takes a copy record and hands a copy to the polder's engine on a tag. (R383) -/
  | cpy (d a b bar tag : Nat) (trap : Bool)
  /-- Reissues the unperformed sectors of a stopped or killed copy. (R385) -/
  | cpyrep (a bar tag : Nat) (trap : Bool)
  /-- Returns a tag's ready, stop, count and stopped-record status. (R386) -/
  | cpystat (d tag : Nat)
  /-- Stops every running copy of a tag and frees its stopped records. (R385) -/
  | cpykill (tag : Nat)
  /-- Starts a remote put described by a descriptor. (R389) -/
  | put (a : Nat)
  /-- Starts a remote get. (R389) -/
  | get (a : Nat)
  /-- Posts a disabled work request with a match key. (R389) -/
  | wpost (a b : Nat)
  /-- Frees a posted, still disabled work request. (R389) -/
  | wkill (a : Nat)
  /-- Parks until any tag of the mask is ready. (R390) -/
  | waitany (d a : Nat)
  /-- Parks until every tag of the mask is ready. (R390) -/
  | waitall (a : Nat)
  /-- Returns the lowest ready tag of the mask. (R390) -/
  | ffr (d a : Nat)
  /-- Frees the stopped records and clears the stop flags of idle tags. (R390) -/
  | tagclr (a : Nat)
  /-- Reads a control register. (R392) -/
  | getc (d n : Nat)
  /-- Writes a control register within its limits. (R392) -/
  | setc (n a : Nat)
  /-- Performs a built-in service or places a request in the polder inbox. (R393) -/
  | sysc (d a n : Nat)
  /-- Returns from a trap handler through its trap record and delivers deferred fills. (R422) -/
  | eret
  /-- Ends the double-trap window of a handler. (R394) -/
  | eack
  /-- Holds the thread at an endpoint. (R395) -/
  | park (a : Nat)
  /-- Ends a hold, a halt or a core's gating. (R395) -/
  | wake (a : Nat)
  /-- Stops slot 7 until a wake or an inbox entry. (R395) -/
  | halt
  /-- Installs an image into the issuing polder from a descriptor. (R396) -/
  | cinst (a : Nat)
  /-- Removes a code-store entry once its users count is 0. (R396) -/
  | cdrop (a : Nat)
  /-- Invalidates a range or all translations of the dike. (R397) -/
  | tlbi (a b : Nat) (whole : Bool)
  /-- Reads and rewrites DRAM sectors as the patrol scrubber does. (R397) -/
  | scrub (a b : Nat)
  /-- Every 1 µs the stack governor samples matrix and vector activity and withholds issue slots in proportion to the excess until the next sample. (R4) -/
  | powerGovernorSample (stk : Nat)
  /-- A cold reset starts a wipe of every memory of the stack. (R184) -/
  | coldReset (stk : Nat)
  /-- The SRAM step of a wipe completes and the stack enters stage-one service. (R186) -/
  | sramWipeDone (stk : Nat)
  /-- The DRAM step of a wipe completes, leaving every DRAM sector zero with valid check codes. (R184) -/
  | dramWipeDone (stk : Nat)
  /-- A signed management command changes the life-cycle state: keys are destroyed, a wipe runs and a new attestation key is derived, or the command is refused and logged. (R185) -/
  | lifeCycleCommand (stk dst : Nat) (signed service : Bool)
  /-- DRAM and link training complete: the clock steps to 2.7 GHz at a rotation boundary, held launches are released and service becomes full. (R186) -/
  | trainingComplete (stk : Nat) (failed : List Nat)
  /-- A write to a BAR0 or control-space register that has no row of its own stores the value. (R33) -/
  | managementRegisterWrite (stk : Nat) (w : MgmtWrite)
  /-- System software rewrites flags[0] of a dike record with 1, and dispatch to the dike in that stack resumes. (R15) -/
  | dikeRecordRevalidate (stk dike : Nat)
  /-- A 64-byte Deferred Memory Write to a work-queue append window is completed with success, retry, abort or unsupported request, and on success the record is written and tail advances. (R400) -/
  | hostAppend (stk q off : Nat) (data : List Byte)
  /-- A host write into BAR2 that is not a Deferred Memory Write receives Unsupported Request. (R33) -/
  | bar2PlainWrite (stk : Nat)
  /-- The stack controller reads the next launch record and either refuses it or creates the launch and its root task. (R401) -/
  | launchRecordRead (stk q : Nat)
  /-- Once the completion ring has room, the controller writes the completion record, advances ctail and signals the vector. (R403) -/
  | completionRecordWrite (stk q : Nat)
  /-- An ATS Translation Completion arrives: the entry is installed and joined accesses proceed, a page request follows, or joined accesses end in HOST_PAGE. (R36) -/
  | translationCompletion (stk i status ta size : Nat) (r w n u : Bool)
  /-- A PRG Response arrives: a new Translation Request is sent, joined accesses end in HOST_PAGE, or PRI is stopped. (R39) -/
  | prgResponse (stk prgi code : Nat)
  /-- A page request has had no response within 1 s and is treated as Invalid Request. (R39) -/
  | prgResponseTimeout (stk prgi : Nat)
  /-- The host driver clears PRI Stopped and page requests resume on the port. (R39) -/
  | priStoppedClear (stk : Nat)
  /-- A host read completion arrives; one in error writes poisoned data to the destination or to the far line. (R41) -/
  | hostReadCompletion (stk i : Nat) (data : List Byte) (bad : Bool)
  /-- An ATS Invalidate Request removes overlapping ATC entries, flips the host epoch and writes back or drops affected far lines. (R43) -/
  | atsInvalidateRequest (stk itag pasid ua size : Nat)
  /-- The count of host accesses under the old epoch reaches zero and the port sends the Invalidate Completion with the ITag. (R43) -/
  | invalidateCompletion (stk : Nat)
  /-- A host write to a dike's doorbell makes the controller consume every done entry of the code queue and free it. (R158) -/
  | codeQueueDoorbell (stk dike : Nat)
  /-- A walker becomes free and takes the oldest slice-TLB miss waiting in the FIFO. (R27) -/
  | walkerStart (stk : Nat)
  /-- A page walk completes and every joined miss is served from its result, or the walk is discarded and repeated after an invalidation. (R27) -/
  | walkComplete (stk i : Nat)
  /-- An invalidation reaches a polder: matching entries are removed and the translation epoch flips. (R30) -/
  | polderInvalidation (pol : Nat)
  /-- The count of accesses under the old epoch reaches zero and the polder reports completion of the invalidation. (R30) -/
  | epochDrained (pol : Nat)
  /-- An L2 slice serves a load, store, atomic or engine request in arrival order for its slot, allocating, filling, evicting or updating signature slots as needed. (R62) -/
  | sliceRequest (ep : Nat) (who : Requester)
  /-- Every replica invalidation of a home line is acknowledged and the waiting write performs at the home and clears dir. (R58) -/
  | replicaInvalidationDone (core : Nat)
  /-- A line read from DRAM or a remote home is merged into the words whose wv is 0. (R60) -/
  | mergingFill (ep : Nat)
  /-- A TCM or scratchpad bank serves one request in a cycle under round-robin arbitration. (R54) -/
  | bankAccess (ep : Nat) (store : Bool)
  /-- One rotation after a full wait table refused a request, the core resends it. (R67) -/
  | waitTableResend (ep : Nat)
  /-- The head store of the store buffer is sent once no older load of its slot is unperformed. (R65) -/
  | storeBufferSend (core : Nat)
  /-- A store is acknowledged as performed and its entry leaves the buffer. (R65) -/
  | storeAck (core : Nat)
  /-- A long-latency result arrives, fills its register and readies a parked thread within one rotation. (R192) -/
  | longLatencyFill (ep k : Nat)
  /-- A slice sweeps its far lines and drops those stamped 8 ms or older, writing back dirty words. (R71) -/
  | farLineSweep (sl : Nat)
  /-- After 256 µs, or when 512 signature bits are set, the stack opens a new release signature. (R72) -/
  | accumulatorRenewal (stk : Nat)
  /-- Every far writeback of the old signature is acknowledged: T is set and the old signature is discarded. (R72) -/
  | accumulatorRenewalDone (stk : Nat)
  /-- A pod-scope or host-scope release has every dirty far line written back and sends its store with the signature. (R74) -/
  | releaseWritebackDone (core : Nat)
  /-- A slice receives an acquire's invalidation and drops far lines that match the signature or the stamp. (R75) -/
  | acquireSliceInvalidate (stk i sl : Nat)
  /-- All 160 slices have acknowledged and the acquire's destination is made full. (R75) -/
  | acquireComplete (stk i : Nat)
  /-- A sluice converts a link packet and forwards it, or discards a malformed one and logs a link error. (R80) -/
  | sluicePacketReceive (stk : Nat) (src : SluiceSource)
  /-- An Enrik flit is received: accepted in sequence, or a nak is sent and later flits discarded. (R85) -/
  | enrikFlitReceive (pkg port : Nat) (flit : List Byte)
  /-- On a nak, the sender resends every held flit from the named number, go-back-N. (R85) -/
  | enrikNakReceive (pkg port seq : Nat)
  /-- No acknowledgement advances for 2 µs and the sender resends from the oldest held flit. (R85) -/
  | enrikAckTimeout (pkg port : Nat)
  /-- A run waits 64 cycles without data and is completed with pad flits. (R86) -/
  | runPadTimeout (pkg port : Nat)
  /-- A link finishes retraining and resending restarts from the oldest held flit. (R88) -/
  | retrainComplete (pkg port : Nat)
  /-- Retraining has not succeeded within 10 ms: the port is failed and its queued packets are discarded. (R88) -/
  | retrainTimeout (pkg port : Nat)
  /-- Management writes a key into a link key register. (R89) -/
  | linkKeyInstall (pkg port index key : Nat) (sends : Bool)
  /-- Every flit under the old key index is acknowledged and the sender sends a key-retire notice. (R89) -/
  | keyRetireSend (pkg port : Nat)
  /-- On a key-retire notice, the receiver erases the old key and acknowledges. (R89) -/
  | keyRetireReceive (pkg port : Nat)
  /-- The run counter reaches 2^40 without a new key, and the port stops sending runs and raises a link error. (R89) -/
  | runCounterExhausted (pkg port : Nat)
  /-- Every 10 µs the time root sends a beacon on every Enrik port. (R90) -/
  | timeBeaconSend (pkg : Nat)
  /-- A package steers its pod-time counter toward beacon time plus link delay, or records a time fault. (R90) -/
  | timeBeaconReceive (pkg port time : Nat)
  /-- Every 1 ms each link measures its delay by a round trip. (R90) -/
  | linkDelayMeasure (pkg port delay : Nat)
  /-- A far request without a reply for 2 ms fills a failed mark, or raises FAR_TIMEOUT at the next issue. (R92) -/
  | farRequestTimeout (ep : Nat) (store : Bool)
  /-- A router grants the lowest free guest slot 6 of the dike, or refuses the reservation. (R94) -/
  | guestReservation (ep : Nat)
  /-- A grant makes the thread stop and drain before moving; a refusal lets the load proceed in fetch mode. (R95) -/
  | reservationReply (ep : Nat)
  /-- A granted guest slot whose context has not arrived within 10 µs is freed. (R94) -/
  | reservationExpiry (core : Nat)
  /-- The migrating slot's stores and older loads have performed, and the core sends the context packet. (R95) -/
  | migrationDrainDone (ep : Nat)
  /-- The guest core writes the context into slot 6, frees the origin slot and reissues the load. (R96) -/
  | contextPacketArrival (ep : Nat)
  /-- A census packet merges into a matching combine entry, takes a free one, or passes uncombined. (R100) -/
  | censusPacketCombine (sl : Nat)
  /-- A combine entry is forwarded 32 cycles after it was taken. (R100) -/
  | combineEntryForward (sl : Nat)
  /-- The receiver checks a put data packet's age and sequence and writes it, acknowledges a duplicate, or answers not-ready. (R106) -/
  | putDataPacket (stk i : Nat)
  /-- A final flagged write is performed as a release once every data packet of the put has performed. (R108) -/
  | putFinalWrite (stk i : Nat)
  /-- A get request arrives and the remote engine reads the bytes and returns get data packets. (R102) -/
  | getRequestPacket (stk i : Nat) (data : List Byte) (bad : Bool)
  /-- Get data arrives and is written to local memory. (R389) -/
  | getDataPacket (stk : Nat) (x : Landing)
  /-- An acknowledgement arrives for a remote-access packet and the backoff returns to 2 µs. (R104) -/
  | remoteAck (stk i : Nat)
  /-- A not-ready reply starts a backoff before resending. (R104) -/
  | notReadyReply (stk i : Nat)
  /-- A backoff expires and the sender resends the packet with its original sequence number and time. (R104) -/
  | resendBackoffExpiry (stk j k : Nat)
  /-- A put or get without acknowledgement at 5 ms stops and writes a kind-3 record with FAR_TIMEOUT. (R107) -/
  | remoteAgeStop (stk j : Nat)
  /-- An evicted channel record is refilled and the packets pooled for it are processed in arrival order. (R104) -/
  | channelRecordRefill (stk c : Nat)
  /-- A code source answers a fetch and the loader checks its offerings under R153. (R155) -/
  | loaderSourceAnswer (pol digest : Nat)
  /-- A source does not answer within its wait; a reason-10 record is written and the next source is asked. (R155) -/
  | sourceWaitTimeout (pol digest : Nat)
  /-- The signature unit finishes verifying a record, which is accepted or logged as rejected. (R154) -/
  | signatureVerified (pol digest : Nat)
  /-- A users count reaches zero and a parked install tries again to evict and fit. (R163) -/
  | installRetry (pol digest : Nat)
  /-- An install waits 1 ms without fitting, writes a reason-9 record, and the thread traps with CODE_UNRESOLVED. (R163) -/
  | installWaitTimeout (pol : Nat) (who : Installer)
  /-- A thread waiting 1 ms for an entry under another tag to lose its users traps with CODE_UNRESOLVED. (R167) -/
  | tagReplaceTimeout (pol digest : Nat)
  /-- A transfer fails parity, so a lane check runs and the transfer is retried, or the transfer becomes uncorrectable. (R172) -/
  | vbusParityFailure (x : Transfer) (fails : List (Option Nat))
  /-- A lane swap or half-width change completes and held requests resume. (R172) -/
  | laneSwapDone (sl : Nat)
  /-- The scrubber reads a sector, corrects it or writes the poison pattern. (R175) -/
  | patrolScrub (sl : Nat)
  /-- A gated core's hold count expires and the core enters the next sleep depth. (R194) -/
  | sleepDepthTimer (core : Nat)
  /-- The wake latency ends after a waking event and the core resumes issuing. (R193) -/
  | coreWake (core : Nat)
  /-- The shared divider finishes a division, fills the destination and starts the next queued division. (R285) -/
  | dividerComplete (core : Nat)
  /-- The slab sequencer starts the next instruction of a captured block once its sources are full and the slab is free. (R300) -/
  | sequencerReplayStart (core : Nat)
  /-- The bond grid finishes binding the donor slabs 64 cycles after gang. (R345) -/
  | gangBindDone (ep : Nat)
  /-- The arbiter gives a turn to the next core with queued commands and starts up to its weight of commands. (R359) -/
  | matrixCommandStart (pol : Nat)
  /-- A matrix command finishes changing its tile or writing memory, and its pins are released. (R357) -/
  | matrixCommandDone (core : Nat)
  /-- A copy sector performs: its bit and byte counts advance, the barrier grows, and the copy completes when every sector is done. (R383) -/
  | copySectorPerformed (core i j : Nat) (late : Bool) (data : List Byte) (bad : Bool)
  /-- A directory processes a census: it sets tested bits, spawns responders for matching entries and reports. (R375) -/
  | censusDirectoryProcess (pol c : Nat)
  /-- The census unit adds a report or reply and completes the census when all counts agree and there are no holds. (R377) -/
  | censusReport (stk : Nat)
  /-- A directory receives a completion broadcast, clears bit c in its entries and open set, and acknowledges. (R377) -/
  | censusCompletionBroadcast (pol c : Nat)
  /-- Every acknowledgement of a completion broadcast has arrived and the census slot becomes free. (R377) -/
  | censusSlotFree (dike c : Nat)
  /-- Every open census has acknowledged a move's hold, and the tile is copied. (R378) -/
  | kmoveHoldAck (pol i : Nat)
  /-- No source responder is running; the move commits, spawns late responders and removes its holds. (R378) -/
  | kmoveCommit (pol i : Nat)
  /-- An empty job slot takes a responder, a ready task or a steal, or stays empty. (R410) -/
  | slotDispatch (ep first : Nat)
  /-- A steal searches victims level by level and takes a top deque entry, or a split. (R411) -/
  | stealRequest (ep first : Nat)
  /-- Every 10 µs a core with empty slots retries stealing from the polder level. (R411) -/
  | stealRetryTimer (core first : Nat)
  /-- A package holding the load-summary token removes its own request, serves requests and appends its own. (R413) -/
  | loadTokenVisit (dike : Nat)
  /-- A package has held the token for 1 µs and passes it on. (R413) -/
  | tokenHoldExpiry (dike : Nat)
  /-- A release unit walks a successor list, decrements each successor counter, readies those at zero and frees the blocks. (R406) -/
  | releaseUnitWalk (sl : Nat)
  /-- The controller finds an image of a newly ready task's entry digest and learns its attributes, or fails the task. (R456) -/
  | entryAttributeLookup (stk dike task : Nat)
  /-- A TCB frees and the oldest pending responder of a polder is created. (R414) -/
  | pendingResponderCreate (pol : Nat)
  /-- A held responder has waited 100 µs in the ready queue and any core of its slice may take it. (R414) -/
  | responderWiden (stk : Nat)
  /-- After 20 µs of draining, the controller pre-empts the donors' remaining threads. (R415) -/
  | gangDrainTimeout (pol : Nat)
  /-- Every donor is empty and the gang task starts on the leader. (R415) -/
  | gangDrainDone (pol : Nat)
  /-- The stack controller switches a polder to another dike, saving and restoring its state. (R416) -/
  | jobSwitch (pol dike : Nat) (handlers : List (Bool × List Byte))
  /-- A write to the kill register kills the named thread. (R432) -/
  | polderKillWrite (pol ep cause : Nat)
  /-- A write to the swap register pre-empts a thread into the thread-context cache. (R425) -/
  | polderSwapWrite (pol ep : Nat)
  /-- A write to the resume register restores a context into a slot and reissues its instruction. (R427) -/
  | polderResumeWrite (pol ep idx : Nat)
  /-- A read of the inbox register pops the oldest entry's address, or returns 0. (R423) -/
  | inboxPop (pol : Nat)
  /-- An entry enters the polder inbox or the overflow ring, or is discarded and counted, and slot 7 leaves halt. (R428) -/
  | inboxEntryArrival (pol : Nat)
  /-- Space frees and the polder writes its pending escalation or kill entries. (R428) -/
  | pendingInboxWrite (pol : Nat)
  /-- A register fill arrives at its polder and fills an owed register or goes to the inbox. (R324) -/
  | sendFillArrival (pol : Nat)
  /-- Every 1,024 cycles the polder samples channel cycles and traps a set deadlocked for 64 samples. (R431) -/
  | channelDeadlockSample (pol : Nat)
  /-- Every 8,192 instructions a twin pair compares register-write signatures. (R434) -/
  | twinSignatureCheck (ep : Nat) (mismatch : Bool)
  deriving DecidableEq, Repr

/-- Whether a row of the table is an event, which no word encodes. -/
def Instr.isEvent : Instr → Bool
  | .add _ _ _ _ => false
  | .sub _ _ _ _ => false
  | .mul _ _ _ _ => false
  | .mulh _ _ _ _ => false
  | .mulhu _ _ _ _ => false
  | .div _ _ _ _ => false
  | .divu _ _ _ _ => false
  | .rem _ _ _ _ => false
  | .remu _ _ _ _ => false
  | .and _ _ _ => false
  | .or _ _ _ => false
  | .xor _ _ _ => false
  | .andn _ _ _ => false
  | .sll _ _ _ _ => false
  | .srl _ _ _ _ => false
  | .sra _ _ _ _ => false
  | .rol _ _ _ _ => false
  | .ror _ _ _ _ => false
  | .min _ _ _ _ => false
  | .max _ _ _ _ => false
  | .minu _ _ _ _ => false
  | .maxu _ _ _ _ => false
  | .slt _ _ _ _ => false
  | .sltu _ _ _ _ => false
  | .seq _ _ _ _ => false
  | .clz _ _ _ => false
  | .ctz _ _ _ => false
  | .popc _ _ _ => false
  | .sext _ _ _ => false
  | .zext _ _ _ => false
  | .ixa _ _ _ _ => false
  | .bfx _ _ _ _ => false
  | .bfi _ _ _ _ => false
  | .addi _ _ _ => false
  | .andi _ _ _ => false
  | .ori _ _ _ => false
  | .xori _ _ _ => false
  | .slti _ _ _ => false
  | .sltiu _ _ _ => false
  | .shi _ _ _ _ => false
  | .lih _ _ => false
  | .addih _ _ _ => false
  | .muli _ _ _ => false
  | .limm _ _ => false
  | .limmh _ _ => false
  | .addl _ _ => false
  | .br _ _ _ _ => false
  | .jmp _ => false
  | .jr _ => false
  | .ret => false
  | .callm _ _ => false
  | .tailm _ _ => false
  | .here _ => false
  | .call _ _ => false
  | .tail _ _ => false
  | .rpt _ _ _ => false
  | .trap _ => false
  | .ld _ _ _ _ => false
  | .ldAcq _ _ _ _ => false
  | .ldSync _ _ _ _ => false
  | .ldTake _ _ _ _ => false
  | .st _ _ _ _ => false
  | .stRel _ _ _ _ => false
  | .stFill _ _ _ _ => false
  | .stRelfill _ _ _ _ => false
  | .vld _ _ _ _ => false
  | .vldBc32 _ _ _ _ => false
  | .vldBc16 _ _ _ _ => false
  | .vldBc8 _ _ _ _ => false
  | .vst _ _ _ _ => false
  | .gather _ _ _ _ _ => false
  | .scatter _ _ _ _ _ => false
  | .amoAdd _ _ _ _ => false
  | .amoAnd _ _ _ _ => false
  | .amoOr _ _ _ _ => false
  | .amoXor _ _ _ _ => false
  | .amoMin _ _ _ _ => false
  | .amoMax _ _ _ _ => false
  | .amoMinu _ _ _ _ => false
  | .amoMaxu _ _ _ _ => false
  | .amoSwap _ _ _ _ => false
  | .amoCas _ _ _ _ => false
  | .amoFadd _ _ _ => false
  | .amoFmax _ _ _ => false
  | .fence _ => false
  | .pf _ => false
  | .clean _ => false
  | .inval _ => false
  | .zero _ => false
  | .mkcont _ _ _ => false
  | .send _ _ => false
  | .qcfg _ _ => false
  | .qstat _ => false
  | .vf32Add _ _ _ _ => false
  | .vf32Sub _ _ _ _ => false
  | .vf32Mul _ _ _ _ => false
  | .vf32Fma _ _ _ _ _ => false
  | .vf32Fms _ _ _ _ _ => false
  | .vf32Fnma _ _ _ _ _ => false
  | .vf32Min _ _ _ _ => false
  | .vf32Max _ _ _ _ => false
  | .vf32Abs _ _ _ => false
  | .vf32Neg _ _ _ => false
  | .vf32Cmpeq _ _ _ _ => false
  | .vf32Cmplt _ _ _ _ => false
  | .vf32Cmple _ _ _ _ => false
  | .vf32Rcp _ _ _ => false
  | .vf32Rsqrt _ _ _ => false
  | .vf32Sqrt _ _ _ => false
  | .vf32Exp2 _ _ _ => false
  | .vf32Log2 _ _ _ => false
  | .vf32Tanh _ _ _ => false
  | .vf32Sig _ _ _ => false
  | .vbf16Add _ _ _ _ => false
  | .vbf16Sub _ _ _ _ => false
  | .vbf16Mul _ _ _ _ => false
  | .vbf16Fma _ _ _ _ _ => false
  | .vbf16Fms _ _ _ _ _ => false
  | .vbf16Fnma _ _ _ _ _ => false
  | .vbf16Min _ _ _ _ => false
  | .vbf16Max _ _ _ _ => false
  | .vbf16Abs _ _ _ => false
  | .vbf16Neg _ _ _ => false
  | .vbf16Cmpeq _ _ _ _ => false
  | .vbf16Cmplt _ _ _ _ => false
  | .vbf16Cmple _ _ _ _ => false
  | .vf16Add _ _ _ _ => false
  | .vf16Sub _ _ _ _ => false
  | .vf16Mul _ _ _ _ => false
  | .vf16Fma _ _ _ _ _ => false
  | .vf16Fms _ _ _ _ _ => false
  | .vf16Fnma _ _ _ _ _ => false
  | .vf16Min _ _ _ _ => false
  | .vf16Max _ _ _ _ => false
  | .vf16Abs _ _ _ => false
  | .vf16Neg _ _ _ => false
  | .vf16Cmpeq _ _ _ _ => false
  | .vf16Cmplt _ _ _ _ => false
  | .vf16Cmple _ _ _ _ => false
  | .vintAdd _ _ _ _ _ => false
  | .vintSub _ _ _ _ _ => false
  | .vintMul _ _ _ _ _ => false
  | .vintMad _ _ _ _ _ _ => false
  | .vintMin _ _ _ _ _ => false
  | .vintMax _ _ _ _ _ => false
  | .vintMinu _ _ _ _ _ => false
  | .vintMaxu _ _ _ _ _ => false
  | .vintAnd _ _ _ _ _ => false
  | .vintOr _ _ _ _ _ => false
  | .vintXor _ _ _ _ _ => false
  | .vintSll _ _ _ _ _ => false
  | .vintSrl _ _ _ _ _ => false
  | .vintSra _ _ _ _ _ => false
  | .vintCmpeq _ _ _ _ _ => false
  | .vintCmplt _ _ _ _ _ => false
  | .vintCmpltu _ _ _ _ _ => false
  | .vintAbs _ _ _ _ => false
  | .bcast _ _ _ => false
  | .ins _ _ _ => false
  | .ext _ _ _ => false
  | .perm _ _ _ _ => false
  | .rot _ _ _ _ => false
  | .zip _ _ _ _ => false
  | .unzip _ _ _ _ => false
  | .compress _ _ _ => false
  | .expand _ _ _ => false
  | .vredSumF32 _ _ _ => false
  | .vredMaxF32 _ _ _ => false
  | .vredMinF32 _ _ _ => false
  | .vredSumI32 _ _ _ => false
  | .vredMaxI32 _ _ _ => false
  | .vredMinI32 _ _ _ => false
  | .vredAnd _ _ _ => false
  | .vredOr _ _ _ => false
  | .cvt _ _ _ _ => false
  | .qnt _ _ _ _ => false
  | .dqnt _ _ _ _ => false
  | .vscl _ _ _ => false
  | .vmaxx _ _ => false
  | .comp _ _ _ _ => false
  | .dcomp _ _ _ _ => false
  | .vsel _ _ _ _ => false
  | .pand _ _ _ => false
  | .por _ _ _ => false
  | .pxor _ _ _ => false
  | .pnot _ _ => false
  | .pcnt _ _ => false
  | .pfirst _ _ => false
  | .pset _ _ => false
  | .vmodeShort => false
  | .vmodeLong => false
  | .gang _ => false
  | .gangrel => false
  | .vclr _ => false
  | .mcfg _ => false
  | .mmul _ _ _ => false
  | .mzero _ => false
  | .mst _ _ => false
  | .mld _ _ => false
  | .mwait _ _ => false
  | .spawn _ _ => false
  | .join => false
  | .tnew _ _ _ => false
  | .tdep _ _ => false
  | .trel _ => false
  | .tdone => false
  | .range _ _ => false
  | .yield => false
  | .tcancel _ => false
  | .tlev _ _ => false
  | .sol _ _ _ _ _ _ => false
  | .reply _ => false
  | .kput _ _ _ => false
  | .kdel _ _ => false
  | .kmove _ _ => false
  | .kfind _ _ => false
  | .barinit _ _ => false
  | .arrive _ _ => false
  | .await _ _ => false
  | .barbytes _ _ => false
  | .cpy _ _ _ _ _ _ => false
  | .cpyrep _ _ _ _ => false
  | .cpystat _ _ => false
  | .cpykill _ => false
  | .put _ => false
  | .get _ => false
  | .wpost _ _ => false
  | .wkill _ => false
  | .waitany _ _ => false
  | .waitall _ => false
  | .ffr _ _ => false
  | .tagclr _ => false
  | .getc _ _ => false
  | .setc _ _ => false
  | .sysc _ _ _ => false
  | .eret => false
  | .eack => false
  | .park _ => false
  | .wake _ => false
  | .halt => false
  | .cinst _ => false
  | .cdrop _ => false
  | .tlbi _ _ _ => false
  | .scrub _ _ => false
  | .powerGovernorSample _ => true
  | .coldReset _ => true
  | .sramWipeDone _ => true
  | .dramWipeDone _ => true
  | .lifeCycleCommand _ _ _ _ => true
  | .trainingComplete _ _ => true
  | .managementRegisterWrite _ _ => true
  | .dikeRecordRevalidate _ _ => true
  | .hostAppend _ _ _ _ => true
  | .bar2PlainWrite _ => true
  | .launchRecordRead _ _ => true
  | .completionRecordWrite _ _ => true
  | .translationCompletion _ _ _ _ _ _ _ _ _ => true
  | .prgResponse _ _ _ => true
  | .prgResponseTimeout _ _ => true
  | .priStoppedClear _ => true
  | .hostReadCompletion _ _ _ _ => true
  | .atsInvalidateRequest _ _ _ _ _ => true
  | .invalidateCompletion _ => true
  | .codeQueueDoorbell _ _ => true
  | .walkerStart _ => true
  | .walkComplete _ _ => true
  | .polderInvalidation _ => true
  | .epochDrained _ => true
  | .sliceRequest _ _ => true
  | .replicaInvalidationDone _ => true
  | .mergingFill _ => true
  | .bankAccess _ _ => true
  | .waitTableResend _ => true
  | .storeBufferSend _ => true
  | .storeAck _ => true
  | .longLatencyFill _ _ => true
  | .farLineSweep _ => true
  | .accumulatorRenewal _ => true
  | .accumulatorRenewalDone _ => true
  | .releaseWritebackDone _ => true
  | .acquireSliceInvalidate _ _ _ => true
  | .acquireComplete _ _ => true
  | .sluicePacketReceive _ _ => true
  | .enrikFlitReceive _ _ _ => true
  | .enrikNakReceive _ _ _ => true
  | .enrikAckTimeout _ _ => true
  | .runPadTimeout _ _ => true
  | .retrainComplete _ _ => true
  | .retrainTimeout _ _ => true
  | .linkKeyInstall _ _ _ _ _ => true
  | .keyRetireSend _ _ => true
  | .keyRetireReceive _ _ => true
  | .runCounterExhausted _ _ => true
  | .timeBeaconSend _ => true
  | .timeBeaconReceive _ _ _ => true
  | .linkDelayMeasure _ _ _ => true
  | .farRequestTimeout _ _ => true
  | .guestReservation _ => true
  | .reservationReply _ => true
  | .reservationExpiry _ => true
  | .migrationDrainDone _ => true
  | .contextPacketArrival _ => true
  | .censusPacketCombine _ => true
  | .combineEntryForward _ => true
  | .putDataPacket _ _ => true
  | .putFinalWrite _ _ => true
  | .getRequestPacket _ _ _ _ => true
  | .getDataPacket _ _ => true
  | .remoteAck _ _ => true
  | .notReadyReply _ _ => true
  | .resendBackoffExpiry _ _ _ => true
  | .remoteAgeStop _ _ => true
  | .channelRecordRefill _ _ => true
  | .loaderSourceAnswer _ _ => true
  | .sourceWaitTimeout _ _ => true
  | .signatureVerified _ _ => true
  | .installRetry _ _ => true
  | .installWaitTimeout _ _ => true
  | .tagReplaceTimeout _ _ => true
  | .vbusParityFailure _ _ => true
  | .laneSwapDone _ => true
  | .patrolScrub _ => true
  | .sleepDepthTimer _ => true
  | .coreWake _ => true
  | .dividerComplete _ => true
  | .sequencerReplayStart _ => true
  | .gangBindDone _ => true
  | .matrixCommandStart _ => true
  | .matrixCommandDone _ => true
  | .copySectorPerformed _ _ _ _ _ _ => true
  | .censusDirectoryProcess _ _ => true
  | .censusReport _ => true
  | .censusCompletionBroadcast _ _ => true
  | .censusSlotFree _ _ => true
  | .kmoveHoldAck _ _ => true
  | .kmoveCommit _ _ => true
  | .slotDispatch _ _ => true
  | .stealRequest _ _ => true
  | .stealRetryTimer _ _ => true
  | .loadTokenVisit _ => true
  | .tokenHoldExpiry _ => true
  | .releaseUnitWalk _ => true
  | .entryAttributeLookup _ _ _ => true
  | .pendingResponderCreate _ => true
  | .responderWiden _ => true
  | .gangDrainTimeout _ => true
  | .gangDrainDone _ => true
  | .jobSwitch _ _ _ => true
  | .polderKillWrite _ _ _ => true
  | .polderSwapWrite _ _ => true
  | .polderResumeWrite _ _ _ => true
  | .inboxPop _ => true
  | .inboxEntryArrival _ => true
  | .pendingInboxWrite _ => true
  | .sendFillArrival _ => true
  | .channelDeadlockSample _ => true
  | .twinSignatureCheck _ _ => true

end Sys2Proof
end

