-- ==== Sys2Proof/Machine/State.lean ====
section
/-! DEFINITION. Sys2Proof/Machine/State.lean: everything the spec gives the machine, as plain data, and the machine after
reset. Records are keyed by the parts of the endpoint identifier of R16: a thread by endpoint/2, a core by endpoint/16, a
polder by endpoint/128, a slice by endpoint/4096, a stack by endpoint/2^20, a package by endpoint/2^22. -/

namespace Sys2Proof.Machine

/-! ## Reasons to stop -/

/-- Why a step stops for good. The spec gives every state a continuation, so no meaning raises one on a path the spec
describes. -/
inductive Fault where
  /-- Raised by no meaning. Safe: a stop allows nothing the hardware does not do. -/
  | none
  deriving DecidableEq, Repr

/-- Why a step has no meaning. -/
inductive Refusal where
  /-- Raised by `exec` for an instruction without a meaning. Safe: the run ends there. -/
  | notModelled (mnemonic : String)
  deriving DecidableEq, Repr

/-! ## Registers (R191, R209) -/

/-- A mark that a register carries instead of a usable value: the cause the reader raises, and where it came from (R92,
R179, R424). -/
structure Mark where
  cause : Nat
  addr : Nat
  origin : Nat
  efn : Nat
  deriving DecidableEq, Repr

/-- What an owed register waits for (R191). -/
inductive Due where
  | result
  | block
  | census
  | cont
  deriving DecidableEq, Repr

/-- The three states of a register (R191). -/
inductive RegState where
  | full
  | owed (due : Due)
  | idle
  deriving DecidableEq, Repr

/-- A register: its state, its bits, and a mark when its value is unusable. -/
structure Cell (n : Nat) where
  st : RegState
  val : BitVec n
  mark : Option Mark
  deriving DecidableEq, Repr

/-- A scalar register at reset and at task start (R184, R191). -/
def Cell.zero (n : Nat) : Cell n := { st := .full, val := 0, mark := none }

/-- A vector register at reset and at task start (R191). -/
def Cell.idle (n : Nat) : Cell n := { st := .idle, val := 0, mark := none }

/-- A register by kind and number; the designator of R191 is `Desig.code`. -/
inductive Desig where
  | s (n : Nat)
  | v (n : Nat)
  | p (n : Nat)
  deriving DecidableEq, Repr

/-- A value on its way to a register. -/
inductive RVal where
  | s (x : W64)
  | v (x : VReg)
  | p (x : PReg)
  deriving DecidableEq, Repr

/-! ## Addresses -/

/-- What a host request carries beside its address (R36): No Snoop, and Address Type untranslated. -/
structure HostAttr where
  noSnoop : Bool
  untranslated : Bool
  deriving DecidableEq, Repr

/-- The attributes of a line or request that no host translation gave. -/
def HostAttr.plain : HostAttr := { noSnoop := false, untranslated := false }

/-- Where an access goes after translation (R50): device memory by 56-bit physical address with the leaf's attributes,
host memory by host address, or one of the two read-only record windows. -/
inductive Target where
  | dev (pa : Nat) (cached mig : Bool)
  | host (ha : Nat) (cached : Bool) (attr : HostAttr)
  | kdir (off : Nat)
  | census (off : Nat)
  deriving DecidableEq, Repr

/-- A run of bytes of an access: its place in the value, its length and where it lies. -/
structure Piece where
  lo : Nat
  len : Nat
  tgt : Target
  deriving DecidableEq, Repr

/-- A page-table leaf in use (R22). -/
structure Leaf where
  out : Nat
  size : Nat
  cached : Bool
  mig : Bool
  host : Bool
  pin : Bool
  ptrap : Bool
  wr : Bool
  deriving DecidableEq, Repr

/-- A TLB entry (R26): tag, page number, leaf, and whether a slice TLB keeps it outside replacement; the most recently used entry
stands first. -/
structure TlbEnt where
  dike : Nat
  vpn : Nat
  leaf : Leaf
  kept : Bool
  deriving DecidableEq, Repr

/-- How a translation or an access ended when it gave no data (R25, R40). -/
structure Flt where
  cause : Nat
  addr : Nat
  deriving DecidableEq, Repr

/-! ## Accesses in flight (R62, R64) -/

/-- The atomic functions (R235). -/
inductive AmoFn where
  | add | and | or | xor | min | max | minu | maxu | swap | cas | fadd | fmax
  deriving DecidableEq, Repr

/-- The kinds of load (R308, R313, R315). -/
inductive LoadKind where
  | plain | acq | sync | take | gather
  | amo (fn : AmoFn) (wide : Bool) (x y : Nat)
  deriving DecidableEq, Repr

/-- Where a load's value goes. A vector destination keeps the bits of `old` outside `mask`; a broadcast replicates the
element over the active lanes. -/
inductive LoadDest where
  | none
  | scalar (n : Nat) (sz : Sz)
  | vector (n : Nat) (old : VReg) (mask : PReg) (bc : Option Nat) (lanes : Nat)
  deriving DecidableEq, Repr

/-- How far a load has come: waiting, waiting for a merging fill (R60), in a bank's wait table or refused by a full one (R67),
waiting for the host, bound and waiting for the slices of R75, bound with its reply on the way, or performed as the core counts it,
because it was forwarded or a TCM served it (R62). -/
inductive LoadPhase where
  | queued | merging | table | refused | host | acquiring | bound | arrived
  deriving DecidableEq, Repr

/-- An entry of a slot's load queue (R62), atomics included. `vas` holds the runs of its bytes: place in the value, virtual
address, length; `held` says that it waited in a wait table,
`level` is the thread's level at its issue (R67), `got` what the host has answered for its pieces. -/
structure LoadEnt where
  seq : Nat
  kind : LoadKind
  dest : LoadDest
  pieces : List Piece
  phase : LoadPhase
  data : List Byte
  mark : Option Mark
  vas : List (Nat × Nat × Nat)
  pc : Nat
  img : Nat
  epoch : Bool
  hepoch : Bool
  held : Bool
  level : Nat
  got : List (Nat × Bool × List Byte)
  deriving DecidableEq, Repr

/-- The kinds of store-buffer entry (R321). -/
inductive StoreKind where
  | plain | fill | rel | relfill | zero | clean | inval
  | send (cont val : Nat)
  deriving DecidableEq, Repr

/-- How far a store has come; at a home line with replicas it waits for their invalidation (R58), at a host line for the merging
fill of words that it covers in part (R59, R69). -/
inductive StorePhase where
  | waiting | sent | filling | invalidating | performed
  deriving DecidableEq, Repr

/-- An entry of a core's store buffer (R64). `released` is the release step of R74: done or not. -/
structure StoreEnt where
  slot : Nat
  seq : Nat
  kind : StoreKind
  pieces : List Piece
  data : List Byte
  phase : StorePhase
  released : Bool
  va : Nat
  pc : Nat
  img : Nat
  epoch : Bool
  hepoch : Bool
  deriving DecidableEq, Repr

/-! ## Threads (R188, R418) -/

/-- A bank of trap registers (R418): `c.cause`, `c.addr`, `c.epc`, `c.efn`, `c.origin` and the banked bits of `c.status`. -/
structure Bank where
  cause : BitVec 8
  addr : W64
  epc : BitVec 32
  efn : BitVec 4
  origin : BitVec 32
  user : BitVec 8
  late : Bool
  deriving DecidableEq, Repr

/-- A trap bank of a thread that has never trapped (R418). -/
def Bank.zero : Bank := { cause := 0, addr := 0, epc := 0, efn := 0, origin := 0, user := 0, late := false }

/-- Why a thread is parked (R192): nothing of its instruction has issued. -/
inductive Park where
  | no
  | reg (code : Nat)
  | qin | qout
  | loads | stores | storeBuf | loadQueue | divider
  | walk | host
  | code (digest : Nat)
  | sequencer | view
  | matrix | exchange | tag | barrier | join | record | pool | census | inbox | release | migrate | unit
  deriving DecidableEq, Repr

/-- How far a migration has come: the router's answer travels, the slot drains, the context packet is on its way (R94, R95). -/
inductive MigStage where
  | replying | draining | sent
  deriving DecidableEq, Repr

/-- An instruction that has begun and not ended, while its thread is parked at it: `mwait` with the last command it waits
for (R360), `tlbi` with its invalidation (R397), a `kmove` past its checks (R378), an
`await` whose phase has flipped (R380), a scatter with the checked lanes that have not entered and the epochs of their translation (R313), a `cinst` that waits for a slot
(R396), an image fetch that ended in nothing (R159), a granted migration with the epoch of its load's translation (R30, R95), a refused
one (R94), a thread that arrived as a guest with its portable offset (R96), a `gang` whose slabs are being bound (R345), a task that has not found its entry image (R408, R164), a
stolen continuation that has not found its image, with its record's address, site ordinal, tag and offset (R365). -/
inductive Prog where
  | none
  | mwait (last : Nat)
  | tlbi (id : Nat)
  | kmove
  | served
  | scatter (rest : List (Nat × Target × List Byte)) (epoch hepoch : Bool)
  | cinst (since : Nat) (timedOut : Bool)
  | unresolved
  | migrate (guest : Option Nat) (stage : MigStage) (epoch : Bool)
  | refused
  | guest (poff : Nat)
  | binding (width : Nat)
  | start
  | stolen (rec site tag off : Nat)
  deriving DecidableEq, Repr

/-- A handler entry that has not finished (R420): it waits for a walk, for the store buffer or for the handler's image. `written` says
that the trap record has entered the store buffer, `abandon` is the record of an abandoned handler run that is read first, or 0 (R423). -/
structure Entry where
  written : Bool
  abandon : Nat
  deriving DecidableEq, Repr

/-- An escalated trap (R423): the second cause with its `c.epc` and `c.addr`, and the trap record of the handler run to
abandon, or 0. -/
structure Esc where
  cause : Nat
  epc : Nat
  addr : Nat
  record : Nat
  deriving DecidableEq, Repr

/-- A result that is due (R190): its register, its value and the mark it carries. -/
structure DueVal where
  dst : Desig
  val : RVal
  mark : Option Mark
  deriving DecidableEq, Repr

/-- A register fill that travels or waits (R215, R323, R377): its register, what the register is owed to, value, second value of
a census, a mark, the pod time it was sent and whether it crossed stacks (R119). -/
structure Fill where
  ep : Nat
  dst : Desig
  due : Due
  val : W64
  val2 : W64
  mark : Option Mark
  time : Nat
  cross : Bool
  deriving DecidableEq, Repr

/-- A withdrawn `sync` or `take` request (R425, R426). -/
structure Withdrawn where
  va : Nat
  sz : Sz
  take : Bool
  dst : Nat
  deriving DecidableEq, Repr

/-- A hardware thread: everything one barrel slot holds (R188). `runs` lists the handler runs in progress, the latest first:
the address of the trap record and the interrupted image's code-store slot (R420, R423).
`attrs` are the attributes of the task's entry image (R432, R456); `swap` says that the slot drains for a pre-emption (R425);
`was` is the code-store slot of the image that it executed last, while it has none (R159); `lvq` lists the instructions of a twin pair's
leading copy that the trailing copy has not issued yet, each by the values that it put into the load-value queue (R196). -/
structure Thread where
  live : Bool
  pc : Nat
  img : Nat
  digest : Nat
  tag : Nat
  s : SMap (Cell 64)
  v : SMap (Cell 1024)
  p : SMap (Cell 32)
  long : Bool
  bank1 : Bank
  bank0 : Bank
  level : Nat
  ack : Bool
  esc : Bool
  tvec : W64
  task : W64
  seed : W64
  gen : W64
  region : Option Nat
  roam : Bool
  roamTime : Nat
  twin : Bool
  held : Bool
  halted : Bool
  runs : List (Nat × Nat)
  escal : Option Esc
  entry : Option Entry
  wait : Park
  prog : Prog
  loadq : List LoadEnt
  fills : List DueVal
  deferred : List Fill
  late : Option Mark
  xfault : Option (Nat × Flt)
  withdrawn : Option Withdrawn
  hgot : List (Nat × Bool × List Byte)
  kills : Nat
  attrs : Nat
  swap : Bool
  was : Nat
  lvq : List Nat
  deriving DecidableEq, Repr

/-- A slot with no thread (R188, R184, R418). (DESIGN CHOICE, log 5.) -/
def Thread.none : Thread :=
  { live := false, pc := 0, img := 0, digest := 0, tag := 0, s := [], v := [], p := [], long := false,
    bank1 := Bank.zero, bank0 := Bank.zero, level := 0, ack := false, esc := false, tvec := 0, task := 0, seed := 0,
    gen := 0, region := Option.none, roam := false, roamTime := 0, twin := false, held := false, halted := false,
    runs := [], escal := Option.none, entry := Option.none, wait := .no, prog := .none, loadq := [], fills := [], deferred := [],
    late := Option.none, xfault := Option.none, withdrawn := Option.none, hgot := [], kills := 0, attrs := 0, swap := false, was := 0, lvq := [] }

/-! ## Cores -/

/-- A waiter in a bank's or a slice's table (R67, R380): a thread's load by its sequence number, or an `await` on the
object at a physical address. -/
structure WaitEnt where
  thr : Nat
  load : Option Nat
  pa : Nat
  deriving DecidableEq, Repr

/-- The format context of a core (R349) with its companding table (R276): 16 segments of breakpoint, slope and offset. -/
structure Ctx where
  afmt : Nat
  bfmt : Nat
  accfmt : Nat
  mode : Nat
  table : List (Nat × Nat × Nat)
  deriving DecidableEq, Repr

/-- The identity table (R276). -/
def Ctx.identity : List (Nat × Nat × Nat) :=
  (0, 0x3F800000, 0) :: List.replicate 15 (0x7F800000, 0, 0)

/-- The context at reset (R349). -/
def Ctx.reset : Ctx := { afmt := 0x40, bfmt := 0x40, accfmt := 0x20, mode := 0, table := Ctx.identity }

/-- An operand of a matrix command (R351), after translation at issue: its elements stand row after row in the value that its
pieces hold, its scale bytes after them. -/
structure Operand where
  fmt : Nat
  rows : Nat
  cols : Nat
  pieces : List Piece
  deriving DecidableEq, Repr

/-- The matrix commands (R354). -/
inductive MCmd where
  | mzero (n : Nat)
  | mld (n : Nat) (op : Operand)
  | mmul (n : Nat) (a b : Operand)
  | mst (n : Nat) (op : Operand) (rnd : List Nat)
  deriving DecidableEq, Repr

/-- A queued command (R358): its number in the core's order, its slot, whether it has started, its epoch (R30) and the L2 lines
it pins (R76). -/
structure MEnt where
  seq : Nat
  slot : Nat
  cmd : MCmd
  started : Bool
  epoch : Bool
  pins : List Nat
  deriving DecidableEq, Repr

/-- An accumulator tile (R353): 256 FP32 elements in row-major order, unlisted ones +0, and a poison bit. -/
structure Tile where
  elem : SMap (BitVec 32)
  poison : Bool
  deriving DecidableEq, Repr

/-- The division operations (R285). -/
inductive DivOp where
  | div | divu | rem | remu
  deriving DecidableEq, Repr

/-- A division in the divider or its queue (R285). -/
structure DivEnt where
  slot : Nat
  dst : Nat
  val : W64
  deriving DecidableEq, Repr

/-- A captured block (R299): its slot, its instructions, the stride, the count of replays, the replay and the instruction that
start next, and the designators of every register it reads. -/
structure Block where
  slot : Nat
  code : List Instr
  str : Nat
  count : Nat
  replay : Nat
  index : Nat
  reads : NSet
  deriving DecidableEq, Repr

/-- Why a copy or a transfer stops (R383): the sector, the cause, the address, the flags and the PRGI of its fault-queue record, and the
stack whose port sent that page request. -/
structure CopyStop where
  port : Nat
  sector : Nat
  cause : Nat
  addr : Nat
  ua : Nat
  flags : Nat
  prgi : Nat
  deriving DecidableEq, Repr

/-- A running copy (R383): its record's index, the endpoint it acts for, its age, which also names the stores it waits for, what
stops it, and whether `cpykill` has named it (R385). Everything else stands in its record. -/
structure CopyRun where
  idx : Nat
  ep : Nat
  after : Nat
  stop : Option CopyStop
  killed : Bool
  deriving DecidableEq, Repr

/-- A stopped put or get whose descriptor asks for a trap (R389, R424): its tag, the instruction's offset and image, and the
faulting address. -/
structure PutStop where
  tag : Nat
  pc : Nat
  img : Nat
  addr : Nat
  deriving DecidableEq, Repr

/-- The gang state of a core (R207): width code, leader, donor. -/
structure Gang where
  width : Nat
  leader : Bool
  donor : Bool
  reserved : Bool
  deriving DecidableEq, Repr

/-- An entry of a core's deque (R364): a live entry or a tombstone, its slot and its record's address. -/
structure DequeEnt where
  live : Bool
  slot : Nat
  recVa : Nat
  deriving DecidableEq, Repr

/-- A core. -/
structure Core where
  sb : List StoreEnt
  wait : List WaitEnt
  tg : BitVec 64
  tagCount : SMap Nat
  tagStop : BitVec 64
  copies : List CopyRun
  putStops : List PutStop
  xmask : BitVec 8
  hold2 : BitVec 8
  hold1 : BitVec 8
  depth : BitVec 2
  gated : Option Nat
  mweight : BitVec 4
  ctx : Ctx
  acc : SMap Tile
  mq : List MEnt
  mseq : Nat
  mcfgBusy : Option Nat
  divq : List DivEnt
  up : Nat
  down : Nat
  chan : List W64
  gang : Gang
  deque : List DequeEnt
  seqr : Option Block
  retry : Bool
  spilled : Bool
  deriving DecidableEq, Repr

/-- A core after reset (R184, R194, R325, R349, R359, R382). (DESIGN CHOICE, log 91.) -/
def Core.reset : Core :=
  { sb := [], wait := [], tg := 0xFFFFFFFFFFFFFFFF, tagCount := [], tagStop := 0, copies := [], putStops := [], xmask := 0,
    hold2 := 64, hold1 := 16, depth := 1, gated := none, mweight := 1, ctx := Ctx.reset, acc := [], mq := [],
    mseq := 0, mcfgBusy := none, divq := [], up := 8, down := 8, chan := [],
    gang := { width := 0, leader := false, donor := false, reserved := false }, deque := [], seqr := none,
    retry := false, spilled := false }

/-! ## Polders -/

/-- An installed image (R143, R147, R160): the directory entry with the image's parts. -/
structure Image where
  digest : Nat
  tag : Nat
  transl : Bool
  attrs : Nat
  frame : Nat
  code : List (BitVec 32)
  imports : List Nat
  pool : List Byte
  sites : List (Nat × Nat)
  nsite : Nat
  blocks : Nat
  users : Nat
  frames : Nat
  lastUse : Nat
  pinned : Bool
  deriving DecidableEq, Repr

/-- An entry of the inbox, the overflow ring or the pending entries (R428); a fill that a wait table has served is a load's, with its
mark (R67). -/
structure InboxEnt where
  kind : Nat
  val : W64
  val2 : W64
  ep : Nat
  desig : Nat
  num : Nat
  time : Nat
  cross : Bool
  sent : Nat
  load : Bool
  mark : Option Mark
  deriving DecidableEq, Repr

/-- An entry of the keyed-tile directory (R371). -/
structure KEnt where
  key : W64
  addr : W64
  len : Nat
  state : Nat
  tested : BitVec 64
  deriving DecidableEq, Repr

/-- A free entry (R371). -/
def KEnt.free : KEnt := { key := 0, addr := 0, len := 0, state := 0, tested := 0 }

/-- A contribution to the maximum exchange (R343). -/
structure ExchEnt where
  slot : Nat
  vd : Nat
  mask : Nat
  val : VReg
  deriving DecidableEq, Repr

/-- A move in progress (R378): source entry, destination polder and entry, the thread, and the censuses held. -/
structure Move where
  thr : Nat
  src : Nat
  dst : Nat
  dstEnt : Nat
  held : List Nat
  acked : Bool
  deriving DecidableEq, Repr

/-- A saved context (R426): the thread's registers and state, its endpoint at the swap, its deque places, and the polder's
dike. -/
structure Saved where
  thr : Thread
  ep : Nat
  deque : List DequeEnt
  dike : Nat
  deriving DecidableEq, Repr

/-- An image fetch in progress (R155, R164): digest, wanted tag, the threads that joined, whether the stack controller wants the
image's attributes (R456), the source asked and since when, whether a source-4 request stands in the code queue, the host's
answer, what is left of the offers with the image the signature unit checks, and an accepted image that waits for a slot
(R163). An offer is its bytes, whether it is a translation, and the stack that gave it. `ask` numbers the request to the host runtime
(R158), `orig` is the key, the model code and the answering stack of the waiting image (R154). -/
structure Fetch where
  digest : Nat
  tag : Option Nat
  thrs : List Nat
  wanted : Bool
  source : Nat
  since : Nat
  queued : Bool
  reply : Option (List (List Byte × Bool × Nat))
  checking : Option (Image × List Byte × Nat)
  rest : List (List Byte × Bool × Nat)
  install : Option Image
  ask : Nat
  orig : Nat × Nat × Nat
  deriving DecidableEq, Repr

/-- An invalidation at a polder (R30): its number, the epoch that must drain, and whether it has reported. -/
structure PolderInv where
  id : Nat
  dike : Nat
  lo : Nat
  hi : Nat
  started : Bool
  old : Bool
  deriving DecidableEq, Repr

/-- A gang drain (R415): the task with the leader core and the width code, when it began, and whether the 20 µs have run out. -/
structure Drain where
  task : Nat
  leader : Nat
  width : Nat
  start : Nat
  forced : Bool
  deriving DecidableEq, Repr

/-- A responder that waits for a TCB (R414): its census with the asker and the asker's task, the entry that spawned it, the
entry's fields, the argument, the entry digest, the asker's priority and the census's issue time. -/
structure Responder where
  task : Nat
  asker : Nat
  slot : Nat
  ent : Nat
  key : W64
  addr : W64
  len : Nat
  arg : W64
  digest : Nat
  prio : Nat
  release : Nat
  deriving DecidableEq, Repr

/-- An entry of the ready queue or of a responder queue (R409, R414): task handle, dike, priority, release time, TCB index, the
entry image's attributes once they are known (R456), the polder a responder is held to, its time of entry, whether its hold
has widened to the slice, whether its context is saved, and whether a release unit readied it (R368). -/
structure ReadyEnt where
  task : Nat
  dike : Nat
  prio : Nat
  release : Nat
  index : Nat
  attrs : Option Nat
  polder : Option Nat
  since : Nat
  wide : Bool
  saved : Bool
  ordered : Bool
  deriving DecidableEq, Repr

/-- A polder. `inflight` holds the register fills on their way to its threads (R324), `arriving` the fills that found no register
and go to the inbox (R428), `gangs` the tasks that hold donors with their leader and width code (R415). `responders` names the responders that have not ended, by task handle, with the directory entry that spawned each
(R374, R378). -/
structure Polder where
  dike : Nat
  code : SMap Image
  cslim : Nat
  tlb : List TlbEnt
  epoch : Bool
  invs : List PolderInv
  inbox : List InboxEnt
  pend : List InboxEnt
  undeliverable : Nat
  kdir : SMap KEnt
  openSet : BitVec 64
  moves : List Move
  exch : SMap ExchEnt
  tcache : List Saved
  respQ : List ReadyEnt
  inflight : List Fill
  pendResp : List Responder
  responders : List (Nat × Nat)
  wait : List WaitEnt
  turn : Nat
  budget : Nat
  fetches : List Fetch
  drain : Option Drain
  gangs : List (Nat × Nat × Nat)
  arriving : List InboxEnt
  dead : SMap Nat
  bond0 : BitVec 38
  bond1 : BitVec 38
  stopped : Bool
  deriving DecidableEq, Repr

/-- The fuse word of a group with no defect (R201): core i on front site i and slab site i, all present. -/
def bondFused : BitVec 38 := 0b1111_00000_00000_011_010_001_000_011_010_001_000#38

/-- A polder after reset (R162, R184, R428). (DESIGN CHOICE, log 6.) -/
def Polder.reset : Polder :=
  { dike := 0, code := [], cslim := 16, tlb := [], epoch := false, invs := [], inbox := [], pend := [],
    undeliverable := 0, kdir := [], openSet := 0, moves := [], exch := [], tcache := [], respQ := [], inflight := [], pendResp := [], responders := [],
    wait := [], turn := 0, budget := 0, fetches := [], drain := none, gangs := [], arriving := [], dead := [],
    bond0 := bondFused, bond1 := bondFused, stopped := false }

/-! ## Slices -/

/-- The kinds of L2 line (R57). -/
inductive LineKind where
  | home | replica | far
  deriving DecidableEq, Repr

/-- An L2 line (R57). A home line's and a replica's bytes are those of memory; a far line holds its own, with the sectors that one
store has covered whole since the last writeback (R181), and for a host line what its writebacks carry (R36). -/
structure Line where
  kind : LineKind
  dir : BitVec 160
  wv : BitVec 16
  wd : BitVec 16
  stamp : Nat
  sig : Option Nat
  pins : Nat
  poison : BitVec 2
  cover : BitVec 2
  attr : HostAttr
  data : BitVec 512
  used : Nat
  deriving DecidableEq, Repr

/-- A signature slot (R75). -/
structure SigSlot where
  line : Nat
  bits : BitVec 1024
  ts : Nat
  deriving DecidableEq, Repr

/-- A census packet (R100). -/
structure CensusPkt where
  dike : Nat
  slot : Nat
  asker : Nat
  comb : Comb
  val : Option W64
  done : Nat
  spawned : Nat
  reported : Nat
  holds : Int
  deriving DecidableEq, Repr

/-- What goes wrong at a read (R170, R172, R177): one symbol of a sector, two symbols, a beat of a lane, a transfer that its retries have
not saved, one bit of an SRAM word, two bits. -/
inductive UpsetKind where
  | symbol | symbols | lane | lost | bit | bits
  deriving DecidableEq, Repr

/-- An error that the next read of a granule meets, injected or not (R170, R177, R183). -/
structure Upset where
  kind : UpsetKind
  addr : Nat
  sel : Nat
  injected : Bool
  deriving DecidableEq, Repr

/-- The state of a vertical channel (R171 to R175): swapped lanes with their spares, consecutive failures, width, whether it holds
new requests during a swap, and the logs and counters of R176. -/
structure Channel where
  swaps : SMap Nat
  fails : SMap Nat
  half : Option Bool
  holding : Bool
  failed : Bool
  arrayLog : List (List Byte)
  arrayOvf : BitVec 32
  xferLog : List (List Byte)
  xferOvf : BitVec 32
  corrected : BitVec 32
  scrubAt : Nat
  scrubHours : Nat
  scrubOn : Bool
  deriving DecidableEq, Repr

/-- A channel after reset (R172, R175, R176). -/
def Channel.reset : Channel :=
  { swaps := [], fails := [], half := none, holding := false, failed := false, arrayLog := [], arrayOvf := 0, xferLog := [], xferOvf := 0,
    corrected := 0, scrubAt := 0, scrubHours := 24, scrubOn := true }

/-- A slice with its router. Lines are keyed by line number, host lines above 2^60. `inq` holds the packets in the router's input
buffers, by input × 8 + class (R77, R78), `ctxs` the context packets that have reached it (R95), `cin` the census packets that have, and
`comb` is its combine table (R100). Records 200 to 203 of a stack stand for its sluices, 204 for its transit node; only their `cin` and
`comb` are used. -/
structure Slice where
  lines : SMap Line
  sigs : SMap SigSlot
  stlb : List TlbEnt
  guests : SMap (Nat × Nat)
  cin : List CensusPkt
  comb : List CensusPkt
  chan : Channel
  wait : List WaitEnt
  rel : List (Nat × Nat × Nat)
  inq : SMap (List (List Byte))
  ctxs : List (List Byte)
  deriving DecidableEq, Repr

/-- A slice after reset (R57, R75, R184). -/
def Slice.reset : Slice :=
  { lines := [], sigs := [], stlb := [], guests := [], cin := [], comb := [], chan := Channel.reset, wait := [], rel := [],
    inq := [], ctxs := [] }

/-! ## Stacks -/

/-- A walk (R27): its key, the write flag, the threads that joined, whether a walker has it and whether an invalidation
passed (R31). -/
structure Walk where
  dike : Nat
  vpn : Nat
  thrs : List Nat
  slice : Nat
  polders : List Nat
  started : Bool
  redo : Bool
  deriving DecidableEq, Repr

/-- An ATC entry (R35). -/
structure AtcEnt where
  pasid : Nat
  ua : Nat
  size : Nat
  ta : Nat
  r : Bool
  w : Bool
  n : Bool
  u : Bool
  deriving DecidableEq, Repr

/-- A Translation Request or page request in progress (R36, R38, R452): the page, the permission asked, the joined threads with
their virtual addresses and whether they write, its stage, the rounds of R39, the engine accesses that joined, by age, the record of the first engine stop, the pod time of the page
request, and whether one has been sent. -/
structure HostReq where
  pasid : Nat
  ua : Nat
  write : Bool
  thrs : List (Nat × Nat × Bool)
  dike : Nat
  paging : Bool
  sent : Bool
  prgi : Nat
  rounds : Nat
  stale : Bool
  engines : List (Nat × Bool)
  stopRec : List Byte
  asked : Nat
  paged : Bool
  deriving DecidableEq, Repr

/-- A stop that an engine's access meets at a host page when it looks next (R46, R452): the page, the access by age, and the page
request that was sent for it, or none after an error of the translation. -/
structure EngStop where
  pasid : Nat
  page : Nat
  who : Nat
  prgi : Option Nat
  deriving DecidableEq, Repr

/-- A host invalidation (R43): ITag, epoch to drain, and the host addresses of the removed entries, each with its size. -/
structure HostInv where
  itag : Nat
  old : Bool
  spans : List (Nat × Nat)
  deriving DecidableEq, Repr

/-- An acquire at pod or host scope (R75): the load, the reply's signature or none, and the slices that remain. -/
structure Acq where
  thr : Nat
  seq : Nat
  sig : Option (BitVec 1024 × Nat)
  left : List Nat
  deriving DecidableEq, Repr

/-- The release accumulator (R72): signature, T, the signature a renewal closes, and when the current one started. -/
structure Accum where
  sig : BitVec 1024
  t : Nat
  old : Option (BitVec 1024)
  start : Nat
  deriving DecidableEq, Repr

/-- A launch (R401, R402, R403, R216): the stack whose queue took it, its record's fields, its counters and its mark. -/
structure Launch where
  stk : Nat
  dike : Nat
  queue : Nat
  ltag : Nat
  graph : Nat
  phase : Nat
  closes : Bool
  live : Nat
  run : Nat
  failed : Nat
  fault : Nat
  vector : Nat
  signal : Bool
  record : Bool
  arg : W64
  digest : Nat
  cancelled : Bool
  deriving DecidableEq, Repr

/-- A completion that has not been written (R403): its queue, its record's fields and what it signals. -/
structure Comp where
  queue : Nat
  time : Nat
  ltag : Nat
  status : Nat
  fault : Nat
  failed : Nat
  run : Nat
  record : Bool
  signal : Bool
  vector : Nat
  deriving DecidableEq, Repr

/-- A request in a dike's code queue that has not been consumed (R158): the entry, the polder, the digest and the request's number. -/
structure CodeReq where
  ask : Nat
  dike : Nat
  entry : Nat
  pol : Nat
  digest : Nat
  deriving DecidableEq, Repr

/-- An image in a stack's code cache (R156). -/
structure CacheImg where
  digest : Nat
  model : Nat
  tag : Nat
  transl : Bool
  bytes : List Byte
  deriving DecidableEq, Repr

/-- A trust-list entry (R152). -/
structure Trust where
  key : Nat
  pub : Nat
  revoked : Bool
  deriving DecidableEq, Repr

/-- A remote-access packet (R103) with the stack that sent it; `need` is the length that a get request asks for, `ether`
says that it came from another pod. -/
structure RPkt where
  chan : Nat
  kind : Nat
  relaxed : Bool
  hasKey : Bool
  seq : Nat
  time : Nat
  first : Nat
  count : Nat
  key : Nat
  dst : Nat
  data : List Byte
  src : Nat
  need : Nat
  ether : Bool
  deriving DecidableEq, Repr

/-- A packet that has been sent and not acknowledged (R104): the bytes it accounts for, the place of a get's bytes in the
transfer, the time it was last sent, its backoff, and the epoch of R30 when its local bytes were translated. -/
structure XPkt where
  pkt : RPkt
  len : Nat
  off : Nat
  last : Nat
  backoff : Nat
  epoch : Option Bool
  deriving DecidableEq, Repr

/-- A put or get in progress (R107, R388, R389): the issuing endpoint, the descriptor's address and fields, the instruction, its
age, the bytes and the final write sent so far, the packets in flight, the bytes done and what stops it. -/
structure Xfer where
  ep : Nat
  dike : Nat
  desc : Nat
  isGet : Bool
  loc : Nat
  remote : Nat
  len : Nat
  chan : Nat
  tag : Nat
  flags : Nat
  key : Nat
  final : Nat
  finalAddr : Nat
  bar : Nat
  pc : Nat
  img : Nat
  after : Nat
  next : Nat
  first : Option Nat
  finalSent : Bool
  sent : List XPkt
  done : Nat
  stop : Option CopyStop
  deriving DecidableEq, Repr

/-- A posted work request (R109). -/
structure WorkReq where
  key : Nat
  dike : Nat
  xfer : Xfer
  deriving DecidableEq, Repr

/-- What the device has sent outside: PCI Express, MSI-X, Ethernet, Enrik (the model's record of outputs). -/
inductive Out where
  | hostWrite (ha : Nat) (attr : HostAttr) (data : List Byte)
  | hostRead (tag : Nat) (ha : Nat) (len : Nat) (attr : HostAttr)
  | hostAtomic (tag : Nat) (ha : Nat) (fn : AmoFn) (wide : Bool) (x y : Nat) (attr : HostAttr)
  | translationRequest (pasid ua : Nat) (noWrite : Bool)
  | pageRequest (pasid ua : Nat) (read write : Bool) (prgi : Nat)
  | invalidateCompletion (itag : Nat)
  | msix (stk vector : Nat)
  | completion (status : Nat)
  | frame (pkg port mac key : Nat) (bytes : List Byte)
  | flit (pkg port : Nat) (bytes : List Byte)
  | beacon (pkg port time : Nat)
  deriving DecidableEq, Repr

/-- A host read or AtomicOp that waits for its completion (R41, R42). -/
structure HostRd where
  tag : Nat
  thr : Nat
  seq : Nat
  piece : Nat
  epoch : Bool
  attr : HostAttr
  deriving DecidableEq, Repr

/-- A stack. -/
structure Stack where
  service : Nat
  wiping : Nat
  life : Nat
  tfault : Bool
  halfw : Nat
  failedCh : Nat
  model : BitVec 32
  drec : SMap Byte
  areas : SMap Byte
  wq : SMap Byte
  walks : List Walk
  walkq : List Walk
  wcache : List (Nat × Nat × Nat × Nat)
  walkErr : Nat
  atc : List AtcEnt
  hreqs : List HostReq
  hwaitq : List HostReq
  efail : List EngStop
  priAlloc : Nat
  latePrgi : NSet
  portLog : List (Nat × Nat)
  priStopped : Bool
  hepoch : Bool
  hinvs : List HostInv
  hreads : List HostRd
  htag : Nat
  acc : Accum
  acqs : List Acq
  ccache : List CacheImg
  trust : List Trust
  codeLog : List (List Byte)
  codeOvf : Nat
  sramLog : List (List Byte)
  sramOvf : BitVec 32
  ready : List ReadyEnt
  regions : SMap Nat
  ranges : NSet
  saved : List Saved
  ovf : List (Nat × InboxEnt)
  injaddr : BitVec 64
  injctl : BitVec 64
  upsets : List Upset
  gov : SMap Nat
  sramWait : SMap (List WaitEnt)
  attestKey : Nat
  lifeLog : List Nat
  linkErrors : Nat
  mgmt : SMap Nat
  tblBase : BitVec 64
  bmpBase : BitVec 64
  chanCount : Nat
  chans : List Nat
  pool : List RPkt
  xfers : List Xfer
  wreqs : List WorkReq
  earlyKeys : List (Nat × Nat)
  droppedKeys : Nat
  discarded : Nat
  arrived : List RPkt
  creports : List CensusPkt
  tlbis : SMap (List Nat)
  dikeStopped : NSet
  kept : SMap (Nat × Nat)
  comps : List Comp
  codeReqs : List CodeReq
  deriving DecidableEq, Repr

/-- A stack right after a cold reset: the wipe is about to run (R184), nothing is queued. (DESIGN CHOICE, log 7.) (DESIGN CHOICE, log 92.) -/
def Stack.reset : Stack :=
  { service := 0, wiping := 1, life := 0, tfault := false, halfw := 0, failedCh := 0, model := 0x5A4400A0, drec := [], areas := [],
    wq := [], walks := [], walkq := [], wcache := [], walkErr := 0, atc := [], hreqs := [], hwaitq := [], efail := [],
    priAlloc := 0, latePrgi := [], portLog := [], priStopped := false, hepoch := false, hinvs := [], hreads := [], htag := 0,
    acc := { sig := 0, t := 0, old := none, start := 0 }, acqs := [], ccache := [], trust := [], codeLog := [], codeOvf := 0,
    sramLog := [], sramOvf := 0, ready := [], regions := [], ranges := [], saved := [], ovf := [],
    injaddr := 0, injctl := 0, upsets := [], gov := [], sramWait := [], attestKey := 0, lifeLog := [], linkErrors := 0, mgmt := [],
    tblBase := 0, bmpBase := 0, chanCount := 0, chans := [], pool := [], xfers := [], wreqs := [], earlyKeys := [],
    droppedKeys := 0, discarded := 0, arrived := [], creports := [], tlbis := [], dikeStopped := [], kept := [],
    comps := [], codeReqs := [] }

/-! ## Packages and the pod -/

/-- A numbered flit as it was first sent (R85, R86, R89): its header and its 112 payload bytes, encrypted but for a trailer's. -/
structure Flit where
  header : Nat
  payload : List Byte
  deriving DecidableEq, Repr

/-- The states of an Enrik link (R88). -/
inductive LinkState where
  | up | retraining | failed
  deriving DecidableEq, Repr

/-- An Enrik port (R84 to R90). Its sending side: the bytes that wait, each marked when a packet begins with it, the replay buffer, the
flits of the run that is being sent, its place and number, the keys, the key index in use and the index installed to follow, a
key-retire notice under way. Its receiving side: the flit number it expects, whether a nak for it has gone out, the end of the
last verified run, the run that is coming in, its failures, the keys and the verified bytes. `progress` is when an acknowledgement
last advanced, `fed` when a run last got data, `downAt` when retraining began, `crcAt` the times of the latest CRC errors; `stuck`
says that the run counter has run out; `log` holds the error records by their pod times. `ring` holds the packets in the port's ring
buffers, by class, and `due` how many more have been given a place there and are on their way (R83). -/
structure Port where
  state : LinkState
  queue : List (Bool × Byte)
  replay : List Flit
  txRun : List Flit
  nextSeq : Nat
  pos : Nat
  runCount : Nat
  txKeys : SMap Nat
  kidx : Nat
  pending : Option Nat
  retiring : Bool
  stuck : Bool
  progress : Nat
  fed : Nat
  expect : Nat
  naked : Bool
  verified : Nat
  rxRun : List Flit
  runFails : Nat
  rxKeys : SMap Nat
  rxBytes : List (Bool × Byte)
  crcAt : List Nat
  downAt : Nat
  delay : Nat
  log : List Nat
  ring : SMap (List (List Byte))
  due : SMap Nat
  deriving DecidableEq, Repr

/-- A port before training has installed a key (R85, R89). (DESIGN CHOICE, log 93.) -/
def Port.reset : Port :=
  { state := .up, queue := [], replay := [], txRun := [], nextSeq := 0, pos := 0, runCount := 0, txKeys := [], kidx := 0,
    pending := none, retiring := false, stuck := false, progress := 0, fed := 0, expect := 0, naked := false, verified := 0,
    rxRun := [], runFails := 0, rxKeys := [], rxBytes := [], crcAt := [], downAt := 0, delay := 0, log := [],
    ring := [], due := [] }

/-- A package: its counter of pod time as an offset from the model's, the ticks that steering still withholds from it, its ports, when it last sent a beacon, and the pod times of its
error records of time faults (R84, R90). `ether` holds the MACsec keys of its Ethernet ports (R102). -/
structure Package where
  skew : Int
  root : Bool
  ports : SMap Port
  slow : Nat
  beaconAt : Nat
  timeLog : List Nat
  ether : SMap Nat
  deriving DecidableEq, Repr

/-- A package after reset. -/
def Package.reset : Package := { skew := 0, root := false, ports := [], slow := 0, beaconAt := 0, timeLog := [], ether := [] }

/-- A census slot of a dike with what its census unit keeps (R372, R375, R377). -/
structure Census where
  state : Nat
  key : W64
  arg : W64
  asker : Nat
  scope : Scope
  comb : Comb
  digest : Nat
  dst : Nat
  expected : Nat
  reported : Nat
  spawned : Nat
  done : Nat
  holds : Int
  acc : Option W64
  time : Nat
  task : Nat
  prio : Nat
  pendDirs : List Nat
  pendAcks : List Nat
  deriving DecidableEq, Repr

/-- Completion counters and cancel marks of graphs, phases and jobs (R216, R217). -/
structure LevelSt where
  live : Nat
  closed : Bool
  cancelled : Bool
  deriving DecidableEq, Repr

/-- A load-summary token (R413): where it is, whether it has been served there, and the requests it carries. -/
structure Token where
  pkg : Nat
  seen : Bool
  reqs : List (Nat × Nat)
  deriving DecidableEq, Repr

/-- What a job switch keeps of a core beside its save area (R14, R416): where that area lies, the suspended copies (R430), its gang
state and the gang tasks it leads. -/
structure SavedCore where
  area : Nat
  copies : List CopyRun
  putStops : List PutStop
  gang : Gang
  gangs : List (Nat × Nat × Nat)
  deriving DecidableEq, Repr

/-- A move of the network (R77 to R83): an agent of a slice gives its router a packet, the oldest packet of a router's input and class
goes on, or that of a port's ring buffer and class. -/
inductive NetMove where
  | inject (slice : Nat) (bytes : List Byte)
  | hop (slice input cls : Nat)
  | ring (pkg port cls : Nat)
  deriving DecidableEq, Repr

/-- Whose move it is: a barrel slot issues, an event of the table happens, or a barrel slot meets a code-store parity error where it
would issue (R169),
or an error strikes memory of a stack and stays until a read meets it (R170, R177), a packet moves, a frame arrives at an Ethernet port
(R105), the trailing copy of a twin pair issues (R196), or the stack controller places a thread in a slot 7 (R188). -/
inductive Turn where
  | issue (ep : Nat)
  | parity (ep : Nat)
  | bank (ep : Nat)
  | upset (stk : Nat) (u : Upset)
  | net (m : NetMove)
  | frame (pkg port key : Nat) (bytes : List Byte)
  | trail (ep : Nat) (differs : Bool)
  | system (ep digest : Nat)
  | event (i : Instr)
  deriving DecidableEq, Repr, Inhabited

/-- The machine. `agenda`, `cur`, `fresh`, `seq` and `out` are the model's own: who moves next, the slot that issues, the
counters behind free values and access ages, and what was sent outside. -/
structure State where
  agenda : List Turn
  cur : Nat
  fresh : Nat
  seq : Nat
  out : List Out
  time : Nat
  threads : SMap Thread
  cores : SMap Core
  polders : SMap Polder
  slices : SMap Slice
  stackRecs : SMap Stack
  packages : SMap Package
  mem : SMap Byte
  poison : NSet
  empties : NSet
  census : SMap Census
  launches : SMap Launch
  members : SMap Nat
  ended : NSet
  levels : SMap LevelSt
  tokens : SMap Token
  jobs : SMap SavedCore
  deriving DecidableEq, Repr

/-- The machine right after reset: every unit as its own reset value says, memory zero with nothing listed, poison clear,
every TCM and scratchpad word full (R66, R184), no service yet (R187), pod time 0. (DESIGN CHOICE, log 8.) -/
def State.reset : State :=
  { agenda := [], cur := 0, fresh := 0, seq := 0, out := [], time := 0, threads := [], cores := [], polders := [],
    slices := [], stackRecs := [], packages := [], mem := [], poison := [], empties := [], census := [], launches := [], members := [], ended := [], levels := [],
    tokens := [], jobs := [] }

end Sys2Proof.Machine
end

