-- ==== Sys2Proof/Config.lean ====
section
/-! DEFINITION. Sys2Proof/Config.lean: what an implementation fixes and the values the spec leaves open. Every value here is
opaque: no proof can see it, so a statement holds whatever it is. -/

namespace Sys2Proof.Config

open Sys2Proof.Machine

/-- Who moves next, and what arrives from outside: the order of slots, units and inputs that the spec leaves open. -/
opaque nextTurn : Nat → Turn

/-- Pod-time ticks that pass in one step (R90); the spec fixes no time for an event. -/
opaque elapsed : Nat → Nat

/-- The value of `exp2`, `log2`, `tanh`, `sig`, `rcp` and `rsqrt` (by function number of R236) where R332 gives a bound
and not the bits. -/
opaque special : Nat → BitVec 32 → BitVec 32

/-- The `c.addr` of a trap whose rule gives none (R418). -/
opaque faultAddr : Nat → BitVec 64

/-- How many ticks a package's counter gains, or is to lose, when it steers toward a beacon (R90). -/
opaque steer : Nat → Nat

/-- Whether a posted descriptor without a final write is a get's (R109). -/
opaque postedGet : Nat → Bool

/-- The share of slots the power governor withholds at a sample (R4). -/
opaque governor : Nat → Nat → Nat

/-- The attestation key a life-cycle state derives from the fused device identity (R185). -/
opaque attestation : Nat → Nat → Nat

/-- The `c.seed` and the generator counter of a resumed stolen continuation, which R365 does not give. -/
opaque openWord : Nat → BitVec 64

end Sys2Proof.Config
end

