-- ==== Sys2Proof/Machine/Float.lean ====
section
/-! DEFINITION. Sys2Proof/Machine/Float.lean: number formats, exact values, rounding, scales and companding (chapter 11). Every
arithmetic result is an exact value, rounded once. Magnitudes are rounded to the code of the result on the grid extended
upward (R269), so that overflow is a comparison of codes and the even value is the one whose code is even. -/

namespace Sys2Proof.Machine

/-! ## Exact values -/

/-- An exact value: a NaN, an infinity, or (-1)^neg × num / den × 2^e with den > 0; a zero has num = 0 and keeps its sign. -/
inductive FV where
  | nan
  | inf (neg : Bool)
  | fin (neg : Bool) (num den : Nat) (e : Int)
  deriving DecidableEq, Repr

/-- The zero of a sign. -/
def FV.zero (neg : Bool) : FV := .fin neg 0 1 0

/-- An integer as an exact value. -/
def FV.ofInt (x : Int) : FV := .fin (decide (x < 0)) x.natAbs 1 0

def FV.isZero : FV → Bool
  | .fin _ 0 _ _ => true
  | _ => false

/-- The sign; a NaN has none. -/
def FV.isNeg : FV → Bool
  | .nan => false
  | .inf n => n
  | .fin n _ _ _ => n

/-- 2^k of an exponent's positive part. -/
def pow2 (k : Int) : Nat := 2 ^ k.toNat

/-- `num` / `den` × 2^e as a fraction. -/
def magFrac (num den : Nat) (e : Int) : Nat × Nat := (num * pow2 e, den * pow2 (-e))

/-- Compares two magnitudes. -/
def magLt (n1 d1 : Nat) (e1 : Int) (n2 d2 : Nat) (e2 : Int) : Bool :=
  let m := min e1 e2
  decide (n1 * d2 * pow2 (e1 - m) < n2 * d1 * pow2 (e2 - m))

def FV.abs : FV → FV
  | .nan => .nan
  | .inf _ => .inf false
  | .fin _ n d e => .fin false n d e

def FV.neg : FV → FV
  | .nan => .nan
  | .inf s => .inf !s
  | .fin s n d e => .fin (!s) n d e

/-- An exact sum. A sum of opposite infinities is a NaN; an exact zero sum of opposite signs is +0 (R263, `rne`). -/
def FV.add : FV → FV → FV
  | .nan, _ => .nan
  | _, .nan => .nan
  | .inf a, .inf b => if a = b then .inf a else .nan
  | .inf a, _ => .inf a
  | _, .inf b => .inf b
  | .fin s1 n1 d1 e1, .fin s2 n2 d2 e2 =>
    let m := min e1 e2
    let a := n1 * d2 * pow2 (e1 - m)
    let b := n2 * d1 * pow2 (e2 - m)
    if s1 = s2 then .fin s1 (a + b) (d1 * d2) m
    else if a = b then .zero false
    else if b < a then .fin s1 (a - b) (d1 * d2) m
    else .fin s2 (b - a) (d1 * d2) m

def FV.sub (x y : FV) : FV := x.add y.neg

/-- An exact product; infinity times zero is a NaN. -/
def FV.mul : FV → FV → FV
  | .nan, _ => .nan
  | _, .nan => .nan
  | .inf a, .inf b => .inf (a != b)
  | .inf a, .fin b n _ _ => if n = 0 then .nan else .inf (a != b)
  | .fin b n _ _, .inf a => if n = 0 then .nan else .inf (a != b)
  | .fin s1 n1 d1 e1, .fin s2 n2 d2 e2 => .fin (s1 != s2) (n1 * n2) (d1 * d2) (e1 + e2)

/-- Multiplies by a power of two. -/
def FV.scale (x : FV) (k : Int) : FV :=
  match x with
  | .fin s n d e => .fin s n d (e + k)
  | y => y

/-- `a < b` in the order of R265: −0 below +0; a NaN compares false. -/
def FV.lt : FV → FV → Bool
  | .nan, _ => false
  | _, .nan => false
  | .inf a, .inf b => a && !b
  | .inf a, _ => a
  | _, .inf b => !b
  | .fin s1 n1 d1 e1, .fin s2 n2 d2 e2 =>
    match s1, s2 with
    | true, false => true
    | false, true => false
    | false, false => magLt n1 d1 e1 n2 d2 e2
    | true, true => magLt n2 d2 e2 n1 d1 e1

def FV.isNan : FV → Bool
  | .nan => true
  | _ => false

/-- Neither is a NaN and neither is below the other. -/
def FV.eq (x y : FV) : Bool := !x.isNan && !y.isNan && !x.lt y && !y.lt x

def FV.max (x y : FV) : FV := if x.isNan || y.isNan then .nan else if x.lt y then y else x
def FV.min (x y : FV) : FV := if x.isNan || y.isNan then .nan else if y.lt x then y else x

/-- 2^k, written out. -/
def FV.pow2 (k : Int) : FV := .fin false 1 1 k

/-! ## Formats (R263, R266, R267) -/

/-- The grid of a floating format: significand bits, the exponent of the subnormal spacing, the largest finite code, whether
it has infinities, whether it has a sign, and the width of an element. -/
structure Grid where
  p : Nat
  qmin : Int
  maxCode : Nat
  infs : Bool
  signed : Bool
  width : Nat
  deriving DecidableEq, Repr

/-- The grids of the formats; an integer format has none. -/
def fmtGrid : Fmt → Option Grid
  | .f32 => some { p := 24, qmin := -149, maxCode := 0x7F7FFFFF, infs := true, signed := true, width := 32 }
  | .bf16 => some { p := 8, qmin := -133, maxCode := 0x7F7F, infs := true, signed := true, width := 16 }
  | .f16 => some { p := 11, qmin := -24, maxCode := 0x7BFF, infs := true, signed := true, width := 16 }
  | .b8 p signed inf =>
    let bias : Int := if signed then 2 ^ (7 - p) else 2 ^ (8 - p)
    some { p := p, qmin := 1 - bias - (Int.ofNat p - 1),
           maxCode := (if signed then 0x7F else 0xFE) - (if inf then 1 else 0), infs := inf, signed := signed, width := 8 }
  | _ => none

/-- The width of an element. -/
def fmtWidth : Fmt → Nat
  | .b8 _ _ _ => 8
  | .f32 => 32
  | .bf16 => 16
  | .f16 => 16
  | .i8 => 8
  | .i16 => 16
  | .i32 => 32

/-- The canonical NaN (R268); 0 for an integer format. -/
def fmtNan : Fmt → Nat
  | .f32 => 0x7FC00000
  | .bf16 => 0x7FC0
  | .f16 => 0x7E00
  | .b8 _ signed _ => if signed then 0x80 else 0xFF
  | _ => 0

/-- The magnitude of a finite code on a grid. -/
def Grid.mag (g : Grid) (c : Nat) : Nat × Int :=
  let h := 2 ^ (g.p - 1)
  if c < h then (c, g.qmin) else (h + c % h, g.qmin + Int.ofNat (c / h) - 1)

/-- The value of a signed integer code of `w` bits. -/
def sintOf (w x : Nat) : Int := if x < 2 ^ (w - 1) then Int.ofNat x else Int.ofNat x - 2 ^ w

/-- Decodes an element (R263, R264, R266). -/
def fmtDecode (f : Fmt) (x : Nat) : FV :=
  match (fmtGrid f) with
  | none => .ofInt (sintOf (fmtWidth f) (x % 2 ^ (fmtWidth f)))
  | some g =>
    match f with
    | .b8 _ signed inf =>
      let x := x % 256
      if x = (fmtNan f) then .nan
      else if signed then
        let c := x % 128
        if inf ∧ c = 0x7F then .inf (decide (128 ≤ x))
        else let m := g.mag c; .fin (decide (128 ≤ x)) m.1 1 m.2
      else if inf ∧ x = 0xFE then .inf false
      else let m := g.mag x; .fin false m.1 1 m.2
    | _ =>
      let s := 2 ^ (g.width - 1)
      let c := x % s
      let neg := decide (s ≤ x % (2 * s))
      if c ≤ g.maxCode then let m := g.mag c; .fin neg m.1 1 m.2
      else if c = g.maxCode + 1 then .inf neg
      else .nan

/-! ## Rounding (R269, R270) -/

/-- floor(log2(num / den)) for positive numbers. -/
def fracLog2 (num den : Nat) : Int :=
  let l := Int.ofNat num.log2 - Int.ofNat den.log2
  if den * pow2 l ≤ num * pow2 (-l) then l else l - 1

/-- Rounds a positive magnitude to the grid of precision `p` and subnormal spacing 2^qmin extended upward: the code. `rb` is
the random value of `sr`. -/
def roundMag (p : Nat) (qmin : Int) (num den : Nat) (e : Int) (rnd : Rnd) (rb : Nat) : Nat :=
  if num = 0 then 0
  else
    let k := fracLog2 num den + e
    let q := Max.max (k - (Int.ofNat p - 1)) qmin
    let f := magFrac num den (e - q)
    let n := f.1 / f.2
    let r := f.1 % f.2
    let h := 2 ^ (p - 1)
    let lo := if n < h then n else (q - qmin).toNat * h + n
    let up : Bool :=
      match rnd with
      | .rne => decide (f.2 < 2 * r) || (decide (2 * r = f.2) && lo % 2 == 1)
      | .rz => false
      | .sr => decide (rb < r * 65536 / f.2)
      | .rna => decide (f.2 ≤ 2 * r)
    if r ≠ 0 ∧ up then lo + 1 else lo

/-- Rounds a magnitude to an integer. -/
def roundNat (num den : Nat) (e : Int) (rnd : Rnd) (rb : Nat) : Nat :=
  let f := magFrac num den e
  let n := f.1 / f.2
  let r := f.1 % f.2
  let up : Bool :=
    match rnd with
    | .rne => decide (f.2 < 2 * r) || (decide (2 * r = f.2) && n % 2 == 1)
    | .rz => false
    | .sr => decide (rb < r * 65536 / f.2)
    | .rna => decide (f.2 ≤ 2 * r)
  if r ≠ 0 ∧ up then n + 1 else n

/-- The smallest and the largest integer of a format, as codes (R272). -/
def intMin (w : Nat) : Nat := 2 ^ (w - 1)
def intMax (w : Nat) : Nat := 2 ^ (w - 1) - 1

/-- The overflow of a magnitude in a floating format (R272). -/
def Grid.over (g : Grid) (nan signBit : Nat) (sat : Bool) : Nat :=
  if sat then signBit + g.maxCode else if g.infs then signBit + g.maxCode + 1 else nan

/-- Rounds an exact value to a format and handles overflow, infinities and NaN (R268 to R273). -/
def roundTo (x : FV) (f : Fmt) (rnd : Rnd) (sat : Bool) (rb : Nat) : Nat :=
  let w := (fmtWidth f)
  match (fmtGrid f) with
  | none =>
    match x with
    | .nan => 0
    | .inf neg => if sat ∧ !neg then intMax w else intMin w
    | .fin neg num den e =>
      let n := roundNat num den e rnd rb
      if neg then
        if n ≤ intMin w then (2 ^ w - n) % 2 ^ w else intMin w
      else if n ≤ intMax w then n
      else if sat then intMax w else intMin w
  | some g =>
    match f with
    | .b8 _ _ _ =>
      match x with
      | .nan => (fmtNan f)
      | .inf neg =>
        if neg ∧ !g.signed then (if sat then 0 else (fmtNan f))
        else
          let sb := if neg then 128 else 0
          if g.infs then sb + g.maxCode + 1 else if sat then sb + g.maxCode else (fmtNan f)
      | .fin neg num den e =>
        let c := roundMag g.p g.qmin num den e rnd rb
        if c = 0 then 0
        else if neg ∧ !g.signed then (if sat then 0 else (fmtNan f))
        else
          let sb := if neg then 128 else 0
          if c ≤ g.maxCode then sb + c else g.over (fmtNan f) sb sat
    | _ =>
      let s := 2 ^ (w - 1)
      match x with
      | .nan => (fmtNan f)
      | .inf neg => (if neg then s else 0) + g.maxCode + 1
      | .fin neg num den e =>
        let c := roundMag g.p g.qmin num den e rnd rb
        let sb := if neg then s else 0
        if c ≤ g.maxCode then sb + c else g.over (fmtNan f) sb sat

/-- A value rounded to FP32 with `rne` and no saturation, and back (R263). -/
def toF32 (x : FV) : BitVec 32 := BitVec.ofNat 32 (roundTo x .f32 .rne false 0)
def ofF32 (x : BitVec 32) : FV := fmtDecode .f32 x.toNat

/-- One rounding to FP32 as an exact value. -/
def roundF32 (x : FV) : FV := ofF32 (toF32 x)

/-- FP32 addition and maximum as the fabric, the reductions and the atomics use them (R265, R281). -/
def f32Add (a b : BitVec 32) : BitVec 32 := toF32 ((ofF32 a).add (ofF32 b))
def f32Max (a b : BitVec 32) : BitVec 32 := toF32 ((ofF32 a).max (ofF32 b))
def f32Min (a b : BitVec 32) : BitVec 32 := toF32 ((ofF32 a).min (ofF32 b))

/-! ## The generator (R271) -/

/-- Output number `counter + 1` of a seed. -/
def genOutput (seed counter : Nat) : Nat :=
  let m := 2 ^ 64
  let z := (seed + (counter + 1) * 0x9E3779B97F4A7C15) % m
  let z := (z ^^^ (z >>> 30)) * 0xBF58476D1CE4E5B9 % m
  let z := (z ^^^ (z >>> 27)) * 0x94D049BB133111EB % m
  z ^^^ (z >>> 31)

/-- The random value of active element `k` of an instruction. -/
def genBits (seed counter k : Nat) : Nat := genOutput seed ((counter + k / 4) % 2 ^ 64) / 2 ^ (16 * (k % 4)) % 65536

/-- The outputs an instruction draws for `n` active elements. -/
def genDrawn (n : Nat) : Nat := (n + 3) / 4

/-! ## Block scales (R274, R275) -/

/-- The largest finite magnitude of a format: significand and exponent; for an integer the maximum. -/
def fmtLargest (f : Fmt) : Nat × Int :=
  match (fmtGrid f) with
  | some g => g.mag g.maxCode
  | none => (intMax (fmtWidth f), 0)

/-- ScaleFor (R275). -/
def scaleFor (amax : FV) (f : Fmt) : Nat :=
  match amax with
  | .nan => 255
  | .inf _ => 255
  | .fin _ num den e =>
    if num = 0 then 127
    else
      let m := (fmtLargest f)
      let x := fracLog2 num den + e - (fracLog2 m.1 1 + m.2) + 127
      if x < 0 then 0 else min x.toNat 254

/-! ## Companding (R276 to R278) -/

/-- A companding table: breakpoint, slope and offset of each segment, as FP32 codes. -/
abbrev CompTable := List (Nat × Nat × Nat)

def f32Val (x : Nat) : FV := fmtDecode .f32 x

/-- The segments in use: those before the first breakpoint +inf. -/
def compUsed (t : CompTable) : CompTable := t.takeWhile fun g => g.1 != 0x7F800000

def isFin : FV → Bool
  | .fin _ _ _ _ => true
  | _ => false

/-- `m × b + o`, exactly. -/
def segAt (g : Nat × Nat × Nat) (b : FV) : FV := ((f32Val g.2.1).mul b).add (f32Val g.2.2)

/-- The conditions of R276. -/
def compTableOk (t : CompTable) : Bool :=
  let u := compUsed t
  t.length == 16
    && (match t with | g :: _ => g.1 == 0 && g.2.2 == 0 | [] => false)
    && (t.drop u.length).all (fun g => g.1 == 0x7F800000)
    && u.all (fun g => isFin (f32Val g.1) && isFin (f32Val g.2.1) && FV.lt (.zero false) (f32Val g.2.1)
          && !(f32Val g.2.1).isZero && isFin (f32Val g.2.2))
    && (u.zip (u.drop 1)).all (fun e =>
          (f32Val e.1.1).lt (f32Val e.2.1) && !(segAt e.2 (f32Val e.2.1)).lt (segAt e.1 (f32Val e.2.1)))

/-- The last segment a test accepts; segment 0 otherwise. -/
def lastSeg (p : Nat × Nat × Nat → Bool) (u : CompTable) : Nat × Nat × Nat :=
  ((u.filter p).getLast?).getD (u.headD (0, 0x3F800000, 0))

/-- Gives a magnitude a sign. -/
def withSign (neg : Bool) (x : FV) : FV := if neg then x.abs.neg else x.abs

/-- Forward companding of a scaled value, exactly (R277). -/
def compand (t : CompTable) (x : FV) : FV :=
  match x with
  | .fin neg n d e =>
    let a : FV := .fin false n d e
    withSign neg (segAt (lastSeg (fun g => !a.lt (f32Val g.1)) (compUsed t)) a)
  | y => y

/-- Divides a finite magnitude by a positive finite value. -/
def FV.divPos : FV → FV → FV
  | .fin s n1 d1 e1, .fin _ n2 d2 e2 => .fin s (n1 * d2) (d1 * n2) (e1 - e2)
  | x, _ => x

/-- Inversion of a decoded element, rounded once to FP32 (R278). -/
def invert (t : CompTable) (x : FV) : FV :=
  match x with
  | .fin neg n d e =>
    if n = 0 then x
    else
      let v : FV := .fin false n d e
      let g := lastSeg (fun g => !v.lt (segAt g (f32Val g.1))) (compUsed t)
      roundF32 (withSign neg ((v.sub (f32Val g.2.2)).divPos (f32Val g.2.1)))
  | y => y

/-! ## Square root and the special functions (R332, R443) -/

/-- One bit of a square root, from high to low. -/
def isqrtGo (m : Nat) : Nat → Nat → Nat
  | 0, r => r
  | k + 1, r => let c := r + 2 ^ k; if c * c ≤ m then isqrtGo m k c else isqrtGo m k r

/-- floor(√m). -/
def isqrt (m : Nat) : Nat := isqrtGo m (m.log2 / 2 + 1) 0

/-- A magnitude whose rounding with any mode is that of √(n × 2^e): 80 or more bits of the root, and a sticky bit. -/
def sqrtMag (n : Nat) (e : Int) : Nat × Int :=
  let sh : Nat := 160 + (e % 2).toNat
  let m := n * 2 ^ sh
  let r := isqrt m
  (2 * r + (if r * r = m then 0 else 1), (e - Int.ofNat sh) / 2 - 1)

/-- √x (fn 15). -/
def fvSqrt : FV → FV
  | .nan => .nan
  | .inf neg => if neg then .nan else .inf false
  | .fin neg n _ e => if n = 0 then .fin neg 0 1 0 else if neg then .nan else let m := sqrtMag n e; .fin false m.1 1 m.2

end Sys2Proof.Machine
end

