-- ==== Sys2Proof/Machine/Crypto.lean ====
section
/-! DEFINITION. Sys2Proof/Machine/Crypto.lean: SHA-256 (FIPS 180-4), which names functions (R144), ECDSA over P-256
(FIPS 186-5), which the loader verifies (R147), and the CRC-64 of a flit (R84). -/

namespace Sys2Proof.Machine

/-! ## SHA-256 -/

def shaK : List Nat :=
  [0x428a2f98, 0x71374491, 0xb5c0fbcf, 0xe9b5dba5, 0x3956c25b, 0x59f111f1, 0x923f82a4, 0xab1c5ed5,
   0xd807aa98, 0x12835b01, 0x243185be, 0x550c7dc3, 0x72be5d74, 0x80deb1fe, 0x9bdc06a7, 0xc19bf174] ++
  [0xe49b69c1, 0xefbe4786, 0x0fc19dc6, 0x240ca1cc, 0x2de92c6f, 0x4a7484aa, 0x5cb0a9dc, 0x76f988da,
   0x983e5152, 0xa831c66d, 0xb00327c8, 0xbf597fc7, 0xc6e00bf3, 0xd5a79147, 0x06ca6351, 0x14292967] ++
  [0x27b70a85, 0x2e1b2138, 0x4d2c6dfc, 0x53380d13, 0x650a7354, 0x766a0abb, 0x81c2c92e, 0x92722c85,
   0xa2bfe8a1, 0xa81a664b, 0xc24b8b70, 0xc76c51a3, 0xd192e819, 0xd6990624, 0xf40e3585, 0x106aa070] ++
  [0x19a4c116, 0x1e376c08, 0x2748774c, 0x34b0bcb5, 0x391c0cb3, 0x4ed8aa4a, 0x5b9cca4f, 0x682e6ff3,
   0x748f82ee, 0x78a5636f, 0x84c87814, 0x8cc70208, 0x90befffa, 0xa4506ceb, 0xbef9a3f7, 0xc67178f2]

def shaH0 : List (BitVec 32) :=
  [0x6a09e667, 0xbb67ae85, 0x3c6ef372, 0xa54ff53a, 0x510e527f, 0x9b05688c, 0x1f83d9ab, 0x5be0cd19]

/-- The big-endian value of bytes. -/
def beNat (bs : List Byte) : Nat := bs.foldl (fun a b => a * 256 + b.toNat) 0

/-- The message schedule, newest word first. -/
def shaSched : Nat → List (BitVec 32) → List (BitVec 32)
  | 0, w => w
  | n + 1, w =>
    let g (i : Nat) : BitVec 32 := w.getD i 0
    let s0 := (g 14).rotateRight 7 ^^^ (g 14).rotateRight 18 ^^^ (g 14 >>> 3)
    let s1 := (g 1).rotateRight 17 ^^^ (g 1).rotateRight 19 ^^^ (g 1 >>> 10)
    shaSched n ((g 15 + s0 + g 6 + s1) :: w)

/-- One round on the eight working words. -/
def shaRound (h : List (BitVec 32)) (kw : BitVec 32) : List (BitVec 32) :=
  match h with
  | [a, b, c, d, e, f, g, hh] =>
    let t1 := hh + (e.rotateRight 6 ^^^ e.rotateRight 11 ^^^ e.rotateRight 25) + ((e &&& f) ^^^ (~~~e &&& g)) + kw
    let t2 := (a.rotateRight 2 ^^^ a.rotateRight 13 ^^^ a.rotateRight 22) + ((a &&& b) ^^^ (a &&& c) ^^^ (b &&& c))
    [t1 + t2, a, b, c, d + t1, e, f, g]
  | l => l

def shaBlock (h : List (BitVec 32)) (block : List Byte) : List (BitVec 32) :=
  let w0 := (List.range 16).map fun i => BitVec.ofNat 32 (beNat ((block.drop (4 * i)).take 4))
  let w := (shaSched 48 w0.reverse).reverse
  let r := (w.zip shaK).foldl (fun h e => shaRound h (e.1 + BitVec.ofNat 32 e.2)) h
  (h.zip r).map fun e => e.1 + e.2

def shaBlocks : Nat → List (BitVec 32) → List Byte → List (BitVec 32)
  | 0, h, _ => h
  | n + 1, h, bs => shaBlocks n (shaBlock h (bs.take 64)) (bs.drop 64)

/-- The padded message. -/
def shaPad (bs : List Byte) : List Byte :=
  let n := bs.length
  let z := (55 + 64 - n % 64) % 64
  bs ++ [0x80#8] ++ List.replicate z 0#8 ++ (List.range 8).map fun i => BitVec.ofNat 8 (8 * n / 256 ^ (7 - i))

/-- The digest as eight words. -/
def shaWords (bs : List Byte) : List (BitVec 32) :=
  let p := shaPad bs
  shaBlocks (p.length / 64) shaH0 p

/-- The digest as a big-endian number (R147). -/
def sha256Be (bs : List Byte) : Nat := (shaWords bs).foldl (fun a w => a * 2 ^ 32 + w.toNat) 0

/-- Reverses the 32 bytes of a number. -/
def swap32 (x : Nat) : Nat := (List.range 32).foldl (fun a i => a * 256 + x / 256 ^ i % 256) 0

/-- The digest as it stands in memory, read little-endian (R144). -/
def sha256 (bs : List Byte) : Nat := swap32 (sha256Be bs)

/-! ## ECDSA over P-256 -/

def p256P : Nat := 0xFFFFFFFF00000001000000000000000000000000FFFFFFFFFFFFFFFFFFFFFFFF
def p256N : Nat := 0xFFFFFFFF00000000FFFFFFFFFFFFFFFFBCE6FAADA7179E84F3B9CAC2FC632551
def p256B : Nat := 0x5AC635D8AA3A93E7B3EBBD55769886BC651D06B0CC53B0F63BCE3C3E27D2604B
def p256G : Nat × Nat :=
  (0x6B17D1F2E12C4247F8BCE6E563A440F277037D812DEB33A0F4A13945D898C296,
   0x4FE342E2FE1A7F9B8EE7EB4A7C0F9E162BCE33576B315ECECBB6406837BF51F5)

/-- `b`^`e` modulo `m`, over the low `n` bits of `e`. -/
def powMod : Nat → Nat → Nat → Nat → Nat
  | 0, _, _, m => 1 % m
  | n + 1, b, e, m =>
    let r := powMod n (b * b % m) (e / 2) m
    if e % 2 = 1 then r * b % m else r

/-- The inverse modulo a prime. -/
def invMod (x m : Nat) : Nat := powMod 256 (x % m) (m - 2) m

/-- The sum of two points; none is the point at infinity. -/
def ecAdd : Option (Nat × Nat) → Option (Nat × Nat) → Option (Nat × Nat)
  | none, q => q
  | some p, none => some p
  | some (x1, y1), some (x2, y2) =>
    let m := p256P
    if x1 = x2 ∧ (y1 + y2) % m = 0 then none
    else
      let l := if x1 = x2 then (3 * x1 * x1 + (m - 3)) % m * invMod (2 * y1) m % m
        else (y2 + m - y1) % m * invMod ((x2 + m - x1) % m) m % m
      let x := (l * l + 2 * m - x1 - x2) % m
      some (x, (l * ((x1 + m - x) % m) + m - y1) % m)

/-- A multiple of a point, over the low `n` bits. -/
def ecMul : Nat → Nat → Option (Nat × Nat) → Option (Nat × Nat)
  | 0, _, _ => none
  | n + 1, k, p =>
    let r := ecMul n (k / 2) (ecAdd p p)
    if k % 2 = 1 then ecAdd p r else r

/-- The point lies on the curve. -/
def ecOn (x y : Nat) : Bool :=
  decide (x < p256P) && decide (y < p256P) && y * y % p256P == (x * x * x + (p256P - 3) * x + p256B) % p256P

/-- Verification of a signature pair for a hash value (FIPS 186-5). -/
def ecdsaOk (e r t qx qy : Nat) : Bool :=
  decide (1 ≤ r) && decide (r < p256N) && decide (1 ≤ t) && decide (t < p256N) && ecOn qx qy &&
    (let w := invMod t p256N
     match ecAdd (ecMul 256 (e * w % p256N) (some p256G)) (ecMul 256 (r * w % p256N) (some (qx, qy))) with
     | none => false
     | some (x, _) => x % p256N == r)

/-- A public key of R152, 64 bytes, and a signature of R147, 64 bytes, both with big-endian halves. -/
def verifySig (pub msg sig : List Byte) : Bool :=
  ecdsaOk (sha256Be msg) (beNat (sig.take 32)) (beNat (sig.drop 32)) (beNat (pub.take 32)) (beNat (pub.drop 32))

/-! ## CRC-64/ECMA-182 -/

/-- Eight steps of the register. -/
def crcBits : Nat → Nat → Nat
  | 0, c => c
  | n + 1, c => crcBits n (if c < 2 ^ 63 then 2 * c else Nat.xor (2 * c % 2 ^ 64) 0x42F0E1EBA9EA3693)

/-- The CRC of a flit's first 120 bytes (R84). -/
def crc64 (bs : List Byte) : Nat := bs.foldl (fun c b => crcBits 8 (Nat.xor c (b.toNat * 2 ^ 56))) 0

end Sys2Proof.Machine
end

