-- ==== Sys2Proof/WellFormed.lean ====
section
/-! DEFINITION. Sys2Proof/WellFormed.lean: the operand limits of the encoding tables (R222 to R242 and the field tables of
chapters 12 to 16). An instruction that breaks one is what decoding step 3 of R243 refuses. -/

namespace Sys2Proof

/-- A scalar source: any register but `qout`, which cannot be read (R213, R283). -/
def srcS (r : Nat) : Bool := decide (r < 32) && r != 29

/-- A scalar destination that may push to `qout`; `qin` cannot be written (R213, R283). -/
def dstS (r : Nat) : Bool := decide (r < 32) && r != 28

/-- A scalar destination that may be neither channel end (R283, R306, R363). -/
def dstN (r : Nat) : Bool := decide (r < 32) && r != 28 && r != 29

/-- A vector register, a lane number, or a scalar named by a 4-bit field (R222). -/
def vreg (r : Nat) : Bool := decide (r < 16)

/-- A predicate source (R222). -/
def preg (r : Nat) : Bool := decide (r < 8)

/-- A predicate destination, `p1` to `p7` (R222, R191). -/
def pdst (r : Nat) : Bool := decide (1 ≤ r) && decide (r < 8)

/-- A scalar destination of a vector instruction, `s1` to `s15` (R334, R336). -/
def sdst (r : Nat) : Bool := decide (1 ≤ r) && decide (r < 16)

/-- A register a continuation may name, `s1` to `s27` (R322). -/
def contReg (r : Nat) : Bool := decide (1 ≤ r) && decide (r ≤ 27)

/-- The first register of a result pair, `s1` to `s26` (R238, R363). -/
def pairReg (r : Nat) : Bool := decide (1 ≤ r) && decide (r ≤ 26)

/-- Sizes of the width-selecting operations (R232). -/
def isWD : Sz → Bool
  | .w | .d => true
  | _ => false

/-- Source widths of `sext` and `zext` (R232). -/
def isBHW : Sz → Bool
  | .b | .h | .w => true
  | _ => false

/-- Sizes of a store and of `ixa` (R224, R232). -/
def isUnsigned : Sz → Bool
  | .b | .h | .w | .d => true
  | _ => false

/-- Sizes the full and empty loads take (R225). -/
def isWord : Sz → Bool
  | .w | .d | .ws => true
  | _ => false

/-- A binary8 precision is 1 to 7 (R227). -/
def Fmt.wf : Fmt → Bool
  | .b8 p _ _ => decide (1 ≤ p) && decide (p ≤ 7)
  | _ => true

/-- The classes `qnt` quantises to and `dqnt` from: binary8 and i8 (R236). -/
def Fmt.isQuant : Fmt → Bool
  | .b8 _ _ _ | .i8 => true
  | _ => false

/-- The floating classes `qnt` reads (R337). -/
def Fmt.isFloat : Fmt → Bool
  | .f32 | .bf16 | .f16 => true
  | _ => false

/-- The limits of word 2 of `vcvt` that do not depend on the function (R236). -/
def CvtWord.wf (w : CvtWord) : Bool :=
  w.dst.wf && w.src.wf && (match w.scale with | some v => vreg v | none => true)

/-- The operand limits of every instruction. Events carry no encoded operand. -/
def Instr.wf : Instr → Bool
  | .add d a b sz => dstS d && srcS a && srcS b && isWD sz
  | .sub d a b sz => dstS d && srcS a && srcS b && isWD sz
  | .mul d a b sz => dstS d && srcS a && srcS b && isWD sz
  | .mulh d a b sz => dstS d && srcS a && srcS b && isWD sz
  | .mulhu d a b sz => dstS d && srcS a && srcS b && isWD sz
  | .div d a b sz => dstN d && srcS a && srcS b && isWD sz
  | .divu d a b sz => dstN d && srcS a && srcS b && isWD sz
  | .rem d a b sz => dstN d && srcS a && srcS b && isWD sz
  | .remu d a b sz => dstN d && srcS a && srcS b && isWD sz
  | .and d a b => dstS d && srcS a && srcS b
  | .or d a b => dstS d && srcS a && srcS b
  | .xor d a b => dstS d && srcS a && srcS b
  | .andn d a b => dstS d && srcS a && srcS b
  | .sll d a b sz => dstS d && srcS a && srcS b && isWD sz
  | .srl d a b sz => dstS d && srcS a && srcS b && isWD sz
  | .sra d a b sz => dstS d && srcS a && srcS b && isWD sz
  | .rol d a b sz => dstS d && srcS a && srcS b && isWD sz
  | .ror d a b sz => dstS d && srcS a && srcS b && isWD sz
  | .min d a b sz => dstS d && srcS a && srcS b && isWD sz
  | .max d a b sz => dstS d && srcS a && srcS b && isWD sz
  | .minu d a b sz => dstS d && srcS a && srcS b && isWD sz
  | .maxu d a b sz => dstS d && srcS a && srcS b && isWD sz
  | .slt d a b sz => dstS d && srcS a && srcS b && isWD sz
  | .sltu d a b sz => dstS d && srcS a && srcS b && isWD sz
  | .seq d a b sz => dstS d && srcS a && srcS b && isWD sz
  | .clz d a sz => dstS d && srcS a && isWD sz
  | .ctz d a sz => dstS d && srcS a && isWD sz
  | .popc d a sz => dstS d && srcS a && isWD sz
  | .sext d a sz => dstS d && srcS a && isBHW sz
  | .zext d a sz => dstS d && srcS a && isBHW sz
  | .ixa d a b sz => dstS d && srcS a && srcS b && isUnsigned sz
  | .bfx d a b sz => dstS d && srcS a && srcS b && isWD sz
  | .bfi d a b sz => dstN d && srcS a && srcS b && isWD sz
  | .addi d a _ => dstS d && srcS a
  | .andi d a _ => dstS d && srcS a
  | .ori d a _ => dstS d && srcS a
  | .xori d a _ => dstS d && srcS a
  | .slti d a _ => dstS d && srcS a
  | .sltiu d a _ => dstS d && srcS a
  | .shi d a _ n => dstS d && srcS a && decide (n < 64)
  | .lih d _ => dstS d
  | .addih d a _ => dstS d && srcS a
  | .muli d a _ => dstS d && srcS a
  | .limm d _ => dstS d
  | .limmh d _ => dstN d
  | .addl d _ => dstN d
  | .br cc a b _ => srcS a && (match cc with | .full | .empty => b == 0 | _ => srcS b)
  | .jmp _ => true
  | .jr a => srcS a
  | .ret => true
  | .callm p n => srcS p && decide (n < 32)
  | .tailm p n => srcS p && decide (n < 32)
  | .here d => dstS d
  | .call site imp => decide (site < 1024) && decide (imp < 65536)
  | .tail site imp => decide (site < 1024) && decide (imp < 65536)
  | .rpt len a str => decide (1 ≤ len) && decide (len ≤ 16) && srcS a && decide (str < 16)
  | .trap _ => true
  | .ld d a _ _ => dstN d && srcS a
  | .ldAcq d a _ _ => dstN d && srcS a
  | .ldSync d a sz _ => dstN d && srcS a && isWord sz
  | .ldTake d a sz _ => dstN d && srcS a && isWord sz
  | .st d a sz _ => srcS d && srcS a && isUnsigned sz
  | .stRel d a sz _ => srcS d && srcS a && isUnsigned sz
  | .stFill d a sz _ => srcS d && srcS a && isWD sz
  | .stRelfill d a sz _ => srcS d && srcS a && isWD sz
  | .vld vd a pr _ => vreg vd && srcS a && preg pr
  | .vldBc32 vd a pr _ => vreg vd && srcS a && preg pr
  | .vldBc16 vd a pr _ => vreg vd && srcS a && preg pr
  | .vldBc8 vd a pr _ => vreg vd && srcS a && preg pr
  | .vst vd a pr _ => vreg vd && srcS a && preg pr
  | .gather vd va b sc pr => vreg vd && vreg va && srcS b && decide (sc < 4) && preg pr
  | .scatter vd va b sc pr => vreg vd && vreg va && srcS b && decide (sc < 4) && preg pr
  | .amoAdd d a b sz => dstN d && srcS a && srcS b && isWD sz
  | .amoAnd d a b sz => dstN d && srcS a && srcS b && isWD sz
  | .amoOr d a b sz => dstN d && srcS a && srcS b && isWD sz
  | .amoXor d a b sz => dstN d && srcS a && srcS b && isWD sz
  | .amoMin d a b sz => dstN d && srcS a && srcS b && isWD sz
  | .amoMax d a b sz => dstN d && srcS a && srcS b && isWD sz
  | .amoMinu d a b sz => dstN d && srcS a && srcS b && isWD sz
  | .amoMaxu d a b sz => dstN d && srcS a && srcS b && isWD sz
  | .amoSwap d a b sz => dstN d && srcS a && srcS b && isWD sz
  | .amoCas d a b sz => dstN d && srcS a && decide (1 ≤ b) && decide (b ≤ 26) && isWD sz
  | .amoFadd d a b => dstN d && srcS a && srcS b
  | .amoFmax d a b => dstN d && srcS a && srcS b
  | .fence _ => true
  | .pf a => srcS a
  | .clean a => srcS a
  | .inval a => srcS a
  | .zero a => srcS a
  | .mkcont d a kind => contReg d && (match kind with | .scalar => contReg a && d != a | .vector => vreg a)
  | .send a b => srcS a && srcS b
  | .qcfg a b => srcS a && srcS b
  | .qstat d => dstS d
  | .vf32Add vd va vb pr => vreg vd && vreg va && vreg vb && preg pr
  | .vf32Sub vd va vb pr => vreg vd && vreg va && vreg vb && preg pr
  | .vf32Mul vd va vb pr => vreg vd && vreg va && vreg vb && preg pr
  | .vf32Fma vd va vb vc pr => vreg vd && vreg va && vreg vb && vreg vc && preg pr
  | .vf32Fms vd va vb vc pr => vreg vd && vreg va && vreg vb && vreg vc && preg pr
  | .vf32Fnma vd va vb vc pr => vreg vd && vreg va && vreg vb && vreg vc && preg pr
  | .vf32Min vd va vb pr => vreg vd && vreg va && vreg vb && preg pr
  | .vf32Max vd va vb pr => vreg vd && vreg va && vreg vb && preg pr
  | .vf32Abs vd va pr => vreg vd && vreg va && preg pr
  | .vf32Neg vd va pr => vreg vd && vreg va && preg pr
  | .vf32Cmpeq vd va vb pr => pdst vd && vreg va && vreg vb && preg pr
  | .vf32Cmplt vd va vb pr => pdst vd && vreg va && vreg vb && preg pr
  | .vf32Cmple vd va vb pr => pdst vd && vreg va && vreg vb && preg pr
  | .vf32Rcp vd va pr => vreg vd && vreg va && preg pr
  | .vf32Rsqrt vd va pr => vreg vd && vreg va && preg pr
  | .vf32Sqrt vd va pr => vreg vd && vreg va && preg pr
  | .vf32Exp2 vd va pr => vreg vd && vreg va && preg pr
  | .vf32Log2 vd va pr => vreg vd && vreg va && preg pr
  | .vf32Tanh vd va pr => vreg vd && vreg va && preg pr
  | .vf32Sig vd va pr => vreg vd && vreg va && preg pr
  | .vbf16Add vd va vb pr => vreg vd && vreg va && vreg vb && preg pr
  | .vbf16Sub vd va vb pr => vreg vd && vreg va && vreg vb && preg pr
  | .vbf16Mul vd va vb pr => vreg vd && vreg va && vreg vb && preg pr
  | .vbf16Fma vd va vb vc pr => vreg vd && vreg va && vreg vb && vreg vc && preg pr
  | .vbf16Fms vd va vb vc pr => vreg vd && vreg va && vreg vb && vreg vc && preg pr
  | .vbf16Fnma vd va vb vc pr => vreg vd && vreg va && vreg vb && vreg vc && preg pr
  | .vbf16Min vd va vb pr => vreg vd && vreg va && vreg vb && preg pr
  | .vbf16Max vd va vb pr => vreg vd && vreg va && vreg vb && preg pr
  | .vbf16Abs vd va pr => vreg vd && vreg va && preg pr
  | .vbf16Neg vd va pr => vreg vd && vreg va && preg pr
  | .vbf16Cmpeq vd va vb pr => pdst vd && vreg va && vreg vb && preg pr
  | .vbf16Cmplt vd va vb pr => pdst vd && vreg va && vreg vb && preg pr
  | .vbf16Cmple vd va vb pr => pdst vd && vreg va && vreg vb && preg pr
  | .vf16Add vd va vb pr => vreg vd && vreg va && vreg vb && preg pr
  | .vf16Sub vd va vb pr => vreg vd && vreg va && vreg vb && preg pr
  | .vf16Mul vd va vb pr => vreg vd && vreg va && vreg vb && preg pr
  | .vf16Fma vd va vb vc pr => vreg vd && vreg va && vreg vb && vreg vc && preg pr
  | .vf16Fms vd va vb vc pr => vreg vd && vreg va && vreg vb && vreg vc && preg pr
  | .vf16Fnma vd va vb vc pr => vreg vd && vreg va && vreg vb && vreg vc && preg pr
  | .vf16Min vd va vb pr => vreg vd && vreg va && vreg vb && preg pr
  | .vf16Max vd va vb pr => vreg vd && vreg va && vreg vb && preg pr
  | .vf16Abs vd va pr => vreg vd && vreg va && preg pr
  | .vf16Neg vd va pr => vreg vd && vreg va && preg pr
  | .vf16Cmpeq vd va vb pr => pdst vd && vreg va && vreg vb && preg pr
  | .vf16Cmplt vd va vb pr => pdst vd && vreg va && vreg vb && preg pr
  | .vf16Cmple vd va vb pr => pdst vd && vreg va && vreg vb && preg pr
  | .vintAdd vd va vb pr _ => vreg vd && vreg va && vreg vb && preg pr
  | .vintSub vd va vb pr _ => vreg vd && vreg va && vreg vb && preg pr
  | .vintMul vd va vb pr _ => vreg vd && vreg va && vreg vb && preg pr
  | .vintMad vd va vb vc pr _ => vreg vd && vreg va && vreg vb && vreg vc && preg pr
  | .vintMin vd va vb pr _ => vreg vd && vreg va && vreg vb && preg pr
  | .vintMax vd va vb pr _ => vreg vd && vreg va && vreg vb && preg pr
  | .vintMinu vd va vb pr _ => vreg vd && vreg va && vreg vb && preg pr
  | .vintMaxu vd va vb pr _ => vreg vd && vreg va && vreg vb && preg pr
  | .vintAnd vd va vb pr _ => vreg vd && vreg va && vreg vb && preg pr
  | .vintOr vd va vb pr _ => vreg vd && vreg va && vreg vb && preg pr
  | .vintXor vd va vb pr _ => vreg vd && vreg va && vreg vb && preg pr
  | .vintSll vd va vb pr _ => vreg vd && vreg va && vreg vb && preg pr
  | .vintSrl vd va vb pr _ => vreg vd && vreg va && vreg vb && preg pr
  | .vintSra vd va vb pr _ => vreg vd && vreg va && vreg vb && preg pr
  | .vintCmpeq vd va vb pr _ => pdst vd && vreg va && vreg vb && preg pr
  | .vintCmplt vd va vb pr _ => pdst vd && vreg va && vreg vb && preg pr
  | .vintCmpltu vd va vb pr _ => pdst vd && vreg va && vreg vb && preg pr
  | .vintAbs vd va pr _ => vreg vd && vreg va && preg pr
  | .bcast vd sa pr => vreg vd && vreg sa && preg pr
  | .ins vd sa lane => vreg vd && vreg sa && vreg lane
  | .ext sd va lane => sdst sd && vreg va && vreg lane
  | .perm vd va vb pr => vreg vd && vreg va && vreg vb && preg pr
  | .rot vd va n pr => vreg vd && vreg va && vreg n && preg pr
  | .zip vd va vb pr => vreg vd && vreg va && vreg vb && preg pr
  | .unzip vd va vb pr => vreg vd && vreg va && vreg vb && preg pr
  | .compress vd va pr => vreg vd && vreg va && preg pr
  | .expand vd va pr => vreg vd && vreg va && preg pr
  | .vredSumF32 vd va pr => vreg vd && vreg va && preg pr
  | .vredMaxF32 vd va pr => vreg vd && vreg va && preg pr
  | .vredMinF32 vd va pr => vreg vd && vreg va && preg pr
  | .vredSumI32 vd va pr => vreg vd && vreg va && preg pr
  | .vredMaxI32 vd va pr => vreg vd && vreg va && preg pr
  | .vredMinI32 vd va pr => vreg vd && vreg va && preg pr
  | .vredAnd vd va pr => vreg vd && vreg va && preg pr
  | .vredOr vd va pr => vreg vd && vreg va && preg pr
  | .cvt vd va pr w => vreg vd && vreg va && preg pr && w.scale == none && !w.cmp && w.wf
  | .qnt vd va pr w => vreg vd && vreg va && preg pr && w.src.isFloat && w.dst.isQuant && w.wf
  | .dqnt vd va pr w => vreg vd && vreg va && preg pr && w.src.isQuant && w.dst == .f32 && w.wf
  | .vscl vd va pr => vreg vd && vreg va && preg pr
  | .vmaxx vd va => vreg vd && vreg va
  | .comp vd va vb pr => vreg vd && vreg va && vreg vb && preg pr
  | .dcomp vd va vb pr => vreg vd && vreg va && vreg vb && preg pr
  | .vsel vd va vb pr => vreg vd && vreg va && vreg vb && preg pr
  | .pand pd pa pb => pdst pd && preg pa && preg pb
  | .por pd pa pb => pdst pd && preg pa && preg pb
  | .pxor pd pa pb => pdst pd && preg pa && preg pb
  | .pnot pd pa => pdst pd && preg pa
  | .pcnt sd pa => sdst sd && preg pa
  | .pfirst sd pa => sdst sd && preg pa
  | .pset pd sa => pdst pd && vreg sa
  | .vmodeShort => true
  | .vmodeLong => true
  | .gang _ => true
  | .gangrel => true
  | .vclr d => vreg d
  | .mcfg a => srcS a
  | .mmul n a b => decide (n < 8) && srcS a && srcS b
  | .mzero n => decide (n < 8)
  | .mst n a => decide (n < 8) && srcS a
  | .mld n a => decide (n < 8) && srcS a
  | .mwait d n => dstN d && decide (n < 8)
  | .spawn site imp => decide (site < 1024) && decide (imp < 65536)
  | .join => true
  | .tnew d a b => dstN d && d != 0 && srcS a && srcS b
  | .tdep a b => srcS a && srcS b
  | .trel a => srcS a
  | .tdone => true
  | .range d a => pairReg d && srcS a
  | .yield => true
  | .tcancel _ => true
  | .tlev d _ => dstN d
  | .sol d a b imp scope _ => pairReg d && srcS a && srcS b && decide (imp < 65536) && (match scope with | .core | .host => false | _ => true)
  | .reply a => srcS a
  | .kput a b len => srcS a && srcS b && decide (1 ≤ len) && decide (len ≤ 65536)
  | .kdel a b => srcS a && srcS b
  | .kmove a b => srcS a && srcS b
  | .kfind d a => dstN d && srcS a
  | .barinit a b => srcS a && srcS b
  | .arrive d a => dstN d && srcS a
  | .await a b => srcS a && srcS b
  | .barbytes a b => srcS a && srcS b
  | .cpy d a b bar tag _ => srcS d && srcS a && srcS b && srcS bar && decide (tag < 64)
  | .cpyrep a bar tag _ => srcS a && srcS bar && decide (tag < 64)
  | .cpystat d tag => dstN d && decide (tag < 64)
  | .cpykill tag => decide (tag < 64)
  | .put a => srcS a
  | .get a => srcS a
  | .wpost a b => srcS a && srcS b
  | .wkill a => srcS a
  | .waitany d a => dstN d && srcS a
  | .waitall a => srcS a
  | .ffr d a => dstN d && srcS a
  | .tagclr a => srcS a
  | .getc d n => dstN d && decide (n < 1024)
  | .setc n a => srcS a && decide (n < 1024)
  | .sysc d a n => dstN d && srcS a && decide (n < 1024)
  | .eret => true
  | .eack => true
  | .park a => srcS a
  | .wake a => srcS a
  | .halt => true
  | .cinst a => srcS a
  | .cdrop a => srcS a
  | .tlbi a b _ => srcS a && srcS b
  | .scrub a b => srcS a && srcS b
  | .powerGovernorSample _ => true
  | .coldReset _ => true
  | .sramWipeDone _ => true
  | .dramWipeDone _ => true
  | .lifeCycleCommand _ _ _ _ => true
  | .trainingComplete _ _ => true
  | .managementRegisterWrite _ _ => true
  | .dikeRecordRevalidate _ _ => true
  | .hostAppend _ _ _ _ => true
  | .bar2PlainWrite _ => true
  | .launchRecordRead _ _ => true
  | .completionRecordWrite _ _ => true
  | .translationCompletion _ _ _ _ _ _ _ _ _ => true
  | .prgResponse _ _ _ => true
  | .prgResponseTimeout _ _ => true
  | .priStoppedClear _ => true
  | .hostReadCompletion _ _ _ _ => true
  | .atsInvalidateRequest _ _ _ _ _ => true
  | .invalidateCompletion _ => true
  | .codeQueueDoorbell _ _ => true
  | .walkerStart _ => true
  | .walkComplete _ _ => true
  | .polderInvalidation _ => true
  | .epochDrained _ => true
  | .sliceRequest _ _ => true
  | .replicaInvalidationDone _ => true
  | .mergingFill _ => true
  | .bankAccess _ _ => true
  | .waitTableResend _ => true
  | .storeBufferSend _ => true
  | .storeAck _ => true
  | .longLatencyFill _ _ => true
  | .farLineSweep _ => true
  | .accumulatorRenewal _ => true
  | .accumulatorRenewalDone _ => true
  | .releaseWritebackDone _ => true
  | .acquireSliceInvalidate _ _ _ => true
  | .acquireComplete _ _ => true
  | .sluicePacketReceive _ _ => true
  | .enrikFlitReceive _ _ _ => true
  | .enrikNakReceive _ _ _ => true
  | .enrikAckTimeout _ _ => true
  | .runPadTimeout _ _ => true
  | .retrainComplete _ _ => true
  | .retrainTimeout _ _ => true
  | .linkKeyInstall _ _ _ _ _ => true
  | .keyRetireSend _ _ => true
  | .keyRetireReceive _ _ => true
  | .runCounterExhausted _ _ => true
  | .timeBeaconSend _ => true
  | .timeBeaconReceive _ _ _ => true
  | .linkDelayMeasure _ _ _ => true
  | .farRequestTimeout _ _ => true
  | .guestReservation _ => true
  | .reservationReply _ => true
  | .reservationExpiry _ => true
  | .migrationDrainDone _ => true
  | .contextPacketArrival _ => true
  | .censusPacketCombine _ => true
  | .combineEntryForward _ => true
  | .putDataPacket _ _ => true
  | .putFinalWrite _ _ => true
  | .getRequestPacket _ _ _ _ => true
  | .getDataPacket _ _ => true
  | .remoteAck _ _ => true
  | .notReadyReply _ _ => true
  | .resendBackoffExpiry _ _ _ => true
  | .remoteAgeStop _ _ => true
  | .channelRecordRefill _ _ => true
  | .loaderSourceAnswer _ _ => true
  | .sourceWaitTimeout _ _ => true
  | .signatureVerified _ _ => true
  | .installRetry _ _ => true
  | .installWaitTimeout _ _ => true
  | .tagReplaceTimeout _ _ => true
  | .vbusParityFailure _ _ => true
  | .laneSwapDone _ => true
  | .patrolScrub _ => true
  | .sleepDepthTimer _ => true
  | .coreWake _ => true
  | .dividerComplete _ => true
  | .sequencerReplayStart _ => true
  | .gangBindDone _ => true
  | .matrixCommandStart _ => true
  | .matrixCommandDone _ => true
  | .copySectorPerformed _ _ _ _ _ _ => true
  | .censusDirectoryProcess _ _ => true
  | .censusReport _ => true
  | .censusCompletionBroadcast _ _ => true
  | .censusSlotFree _ _ => true
  | .kmoveHoldAck _ _ => true
  | .kmoveCommit _ _ => true
  | .slotDispatch _ _ => true
  | .stealRequest _ _ => true
  | .stealRetryTimer _ _ => true
  | .loadTokenVisit _ => true
  | .tokenHoldExpiry _ => true
  | .releaseUnitWalk _ => true
  | .entryAttributeLookup _ _ _ => true
  | .pendingResponderCreate _ => true
  | .responderWiden _ => true
  | .gangDrainTimeout _ => true
  | .gangDrainDone _ => true
  | .jobSwitch _ _ _ => true
  | .polderKillWrite _ _ _ => true
  | .polderSwapWrite _ _ => true
  | .polderResumeWrite _ _ _ => true
  | .inboxPop _ => true
  | .inboxEntryArrival _ => true
  | .pendingInboxWrite _ => true
  | .sendFillArrival _ => true
  | .channelDeadlockSample _ => true
  | .twinSignatureCheck _ _ => true

end Sys2Proof
end

