-- ==== Sys2Proof/Decode.lean ====
section
/-! DEFINITION. Sys2Proof/Decode.lean: decoding of words, of the bytes that hold them and of the table's numbering, with
every refusal named; then the encoder, written from the same tables. -/

namespace Sys2Proof

/-- Why a pair of words is no instruction. All but `privileged` are the `ILLEGAL` of R243: step 1 for the first two,
step 2 for `privileged`, step 3 for the next three; `truncated` says that the bytes end inside the instruction. -/
inductive DecodeError where
  | unassignedMajor | unassignedFunction | privileged | illegalCode | unusedField | operandLimit | truncated
  deriving DecidableEq, Repr

/-- The field of `len` bits whose lowest bit is `lo` (R222). -/
def fld (lo len w : Nat) : Nat := w / 2 ^ lo % 2 ^ len

/-- A field that must hold its one value: the unused fields of R223 and the fixed codes of R232 to R239. -/
def need (c : Bool) (r : Except DecodeError Instr) : Except DecodeError Instr :=
  if c then r else .error .unusedField

/-- A coded field: an unassigned code is illegal (R224 to R229). -/
def code {α : Type} (c : Option α) (k : α → Except DecodeError Instr) : Except DecodeError Instr :=
  match c with
  | some x => k x
  | none => .error .illegalCode

/-- R224. -/
def Sz.ofCode : Nat → Option Sz
  | 0 => some .b | 1 => some .h | 2 => some .w | 3 => some .d | 4 => some .bs | 5 => some .hs | 6 => some .ws
  | _ => none

/-- R224. -/
def Sz.code : Sz → Nat
  | .b => 0 | .h => 1 | .w => 2 | .d => 3 | .bs => 4 | .hs => 5 | .ws => 6

/-- R226. -/
def Cc.ofCode : Nat → Option Cc
  | 0 => some .eq | 1 => some .ne | 2 => some .lt | 3 => some .ge | 4 => some .ltu | 5 => some .geu
  | 6 => some .full | 7 => some .empty | _ => none

/-- R226. -/
def Cc.code : Cc → Nat
  | .eq => 0 | .ne => 1 | .lt => 2 | .ge => 3 | .ltu => 4 | .geu => 5 | .full => 6 | .empty => 7

/-- R233. -/
def ShiftOp.ofCode : Nat → Option ShiftOp
  | 0 => some .sll | 1 => some .srl | 2 => some .sra | 3 => some .rol | _ => none

/-- R233. -/
def ShiftOp.code : ShiftOp → Nat
  | .sll => 0 | .srl => 1 | .sra => 2 | .rol => 3

/-- R111. -/
def Scope.ofCode : Nat → Option Scope
  | 0 => some .core | 1 => some .polder | 2 => some .stack | 3 => some .package | 4 => some .pod | 5 => some .host
  | _ => none

/-- R111. -/
def Scope.code : Scope → Nat
  | .core => 0 | .polder => 1 | .stack => 2 | .package => 3 | .pod => 4 | .host => 5

/-- R229. -/
def Comb.ofCode : Nat → Option Comb
  | 0 => some .addI64 | 1 => some .maxI64 | 2 => some .minI64 | 3 => some .orI64 | 4 => some .addF32
  | 5 => some .maxF32 | 6 => some .count | _ => none

/-- R229. -/
def Comb.code : Comb → Nat
  | .addI64 => 0 | .maxI64 => 1 | .minI64 => 2 | .orI64 => 3 | .addF32 => 4 | .maxF32 => 5 | .count => 6

/-- R235. -/
def RegKind.ofCode : Nat → Option RegKind
  | 0 => some .scalar | 1 => some .vector | _ => none

/-- R235. -/
def RegKind.code : RegKind → Nat
  | .scalar => 0 | .vector => 1

/-- R236. -/
def IntTy.ofCode : Nat → Option IntTy
  | 0 => some .i32 | 1 => some .i16 | 2 => some .i8 | _ => none

/-- R236. -/
def IntTy.code : IntTy → Nat
  | .i32 => 0 | .i16 => 1 | .i8 => 2

/-- R236. -/
def GangWidth.ofCode : Nat → Option GangWidth
  | 1 => some .x2 | 2 => some .x4 | _ => none

/-- R236. -/
def GangWidth.code : GangWidth → Nat
  | .x2 => 1 | .x4 => 2

/-- R237. -/
def Level.ofCode : Nat → Option Level
  | 1 => some .launch | 2 => some .graph | 3 => some .phase | 4 => some .job | _ => none

/-- R237. -/
def Level.code : Level → Nat
  | .launch => 1 | .graph => 2 | .phase => 3 | .job => 4

/-- R228. -/
def Rnd.ofCode : Nat → Option Rnd
  | 0 => some .rne | 1 => some .rz | 2 => some .sr | 3 => some .rna | _ => none

/-- R228. -/
def Rnd.code : Rnd → Nat
  | .rne => 0 | .rz => 1 | .sr => 2 | .rna => 3

/-- A one-bit field. -/
def boolOfCode : Nat → Option Bool
  | 0 => some false | 1 => some true | _ => none

/-- A one-bit field. -/
def codeOfBool (b : Bool) : Nat := if b then 1 else 0

/-- A format byte (R227): class in [7:5], precision in [4:2], signed in [1], infinities in [0]. -/
def Fmt.ofCode (c : Nat) : Option Fmt :=
  match fld 5 3 c with
  | 0 => if fld 2 3 c = 0 then none else some (.b8 (fld 2 3 c) (fld 1 1 c == 1) (fld 0 1 c == 1))
  | 1 => if fld 0 5 c = 0 then some .f32 else none
  | 2 => if fld 0 5 c = 0 then some .bf16 else none
  | 3 => if fld 0 5 c = 0 then some .f16 else none
  | 4 => if fld 0 5 c = 0 then some .i8 else none
  | 5 => if fld 0 5 c = 0 then some .i16 else none
  | 6 => if fld 0 5 c = 0 then some .i32 else none
  | _ => none

/-- R227. -/
def Fmt.code : Fmt → Nat
  | .b8 p s i => p * 4 + codeOfBool s * 2 + codeOfBool i
  | .f32 => 0x20 | .bf16 => 0x40 | .f16 => 0x60 | .i8 => 0x80 | .i16 => 0xA0 | .i32 => 0xC0

/-- Word 2 of `vcvt` (R236). -/
def CvtWord.ofCode (w : Nat) : Option CvtWord :=
  if fld 25 7 w = 0 ∧ (fld 24 1 w = 0 → fld 20 4 w = 0) then
    match Rnd.ofCode (fld 16 2 w), Fmt.ofCode (fld 8 8 w), Fmt.ofCode (fld 0 8 w) with
    | some r, some dst, some src =>
      some { scale := if fld 24 1 w = 1 then some (fld 20 4 w) else none, cmp := fld 19 1 w == 1,
             sat := fld 18 1 w == 1, rnd := r, dst := dst, src := src }
    | _, _, _ => none
  else none

/-- R236. -/
def CvtWord.code (w : CvtWord) : Nat :=
  (match w.scale with | some v => 2 ^ 24 + v * 2 ^ 20 | none => 0)
    + codeOfBool w.cmp * 2 ^ 19 + codeOfBool w.sat * 2 ^ 18 + w.rnd.code * 2 ^ 16 + w.dst.code * 2 ^ 8 + w.src.code

/-- Major 0x01 (R232). -/
def decInt (w : Nat) : Except DecodeError Instr :=
  match fld 3 8 w with
  | 0 => code (Sz.ofCode (fld 0 3 w)) fun z => .ok (.add (fld 21 5 w) (fld 16 5 w) (fld 11 5 w) z)
  | 1 => code (Sz.ofCode (fld 0 3 w)) fun z => .ok (.sub (fld 21 5 w) (fld 16 5 w) (fld 11 5 w) z)
  | 2 => code (Sz.ofCode (fld 0 3 w)) fun z => .ok (.mul (fld 21 5 w) (fld 16 5 w) (fld 11 5 w) z)
  | 3 => code (Sz.ofCode (fld 0 3 w)) fun z => .ok (.mulh (fld 21 5 w) (fld 16 5 w) (fld 11 5 w) z)
  | 4 => code (Sz.ofCode (fld 0 3 w)) fun z => .ok (.mulhu (fld 21 5 w) (fld 16 5 w) (fld 11 5 w) z)
  | 5 => code (Sz.ofCode (fld 0 3 w)) fun z => .ok (.div (fld 21 5 w) (fld 16 5 w) (fld 11 5 w) z)
  | 6 => code (Sz.ofCode (fld 0 3 w)) fun z => .ok (.divu (fld 21 5 w) (fld 16 5 w) (fld 11 5 w) z)
  | 7 => code (Sz.ofCode (fld 0 3 w)) fun z => .ok (.rem (fld 21 5 w) (fld 16 5 w) (fld 11 5 w) z)
  | 8 => code (Sz.ofCode (fld 0 3 w)) fun z => .ok (.remu (fld 21 5 w) (fld 16 5 w) (fld 11 5 w) z)
  | 9 => need (fld 0 3 w == 3) <| .ok (.and (fld 21 5 w) (fld 16 5 w) (fld 11 5 w))
  | 10 => need (fld 0 3 w == 3) <| .ok (.or (fld 21 5 w) (fld 16 5 w) (fld 11 5 w))
  | 11 => need (fld 0 3 w == 3) <| .ok (.xor (fld 21 5 w) (fld 16 5 w) (fld 11 5 w))
  | 12 => need (fld 0 3 w == 3) <| .ok (.andn (fld 21 5 w) (fld 16 5 w) (fld 11 5 w))
  | 13 => code (Sz.ofCode (fld 0 3 w)) fun z => .ok (.sll (fld 21 5 w) (fld 16 5 w) (fld 11 5 w) z)
  | 14 => code (Sz.ofCode (fld 0 3 w)) fun z => .ok (.srl (fld 21 5 w) (fld 16 5 w) (fld 11 5 w) z)
  | 15 => code (Sz.ofCode (fld 0 3 w)) fun z => .ok (.sra (fld 21 5 w) (fld 16 5 w) (fld 11 5 w) z)
  | 16 => code (Sz.ofCode (fld 0 3 w)) fun z => .ok (.rol (fld 21 5 w) (fld 16 5 w) (fld 11 5 w) z)
  | 17 => code (Sz.ofCode (fld 0 3 w)) fun z => .ok (.ror (fld 21 5 w) (fld 16 5 w) (fld 11 5 w) z)
  | 18 => code (Sz.ofCode (fld 0 3 w)) fun z => .ok (.min (fld 21 5 w) (fld 16 5 w) (fld 11 5 w) z)
  | 19 => code (Sz.ofCode (fld 0 3 w)) fun z => .ok (.max (fld 21 5 w) (fld 16 5 w) (fld 11 5 w) z)
  | 20 => code (Sz.ofCode (fld 0 3 w)) fun z => .ok (.minu (fld 21 5 w) (fld 16 5 w) (fld 11 5 w) z)
  | 21 => code (Sz.ofCode (fld 0 3 w)) fun z => .ok (.maxu (fld 21 5 w) (fld 16 5 w) (fld 11 5 w) z)
  | 22 => code (Sz.ofCode (fld 0 3 w)) fun z => .ok (.slt (fld 21 5 w) (fld 16 5 w) (fld 11 5 w) z)
  | 23 => code (Sz.ofCode (fld 0 3 w)) fun z => .ok (.sltu (fld 21 5 w) (fld 16 5 w) (fld 11 5 w) z)
  | 24 => code (Sz.ofCode (fld 0 3 w)) fun z => .ok (.seq (fld 21 5 w) (fld 16 5 w) (fld 11 5 w) z)
  | 25 => need (fld 11 5 w == 0) <| code (Sz.ofCode (fld 0 3 w)) fun z => .ok (.clz (fld 21 5 w) (fld 16 5 w) z)
  | 26 => need (fld 11 5 w == 0) <| code (Sz.ofCode (fld 0 3 w)) fun z => .ok (.ctz (fld 21 5 w) (fld 16 5 w) z)
  | 27 => need (fld 11 5 w == 0) <| code (Sz.ofCode (fld 0 3 w)) fun z => .ok (.popc (fld 21 5 w) (fld 16 5 w) z)
  | 28 => need (fld 11 5 w == 0) <| code (Sz.ofCode (fld 0 3 w)) fun z => .ok (.sext (fld 21 5 w) (fld 16 5 w) z)
  | 29 => need (fld 11 5 w == 0) <| code (Sz.ofCode (fld 0 3 w)) fun z => .ok (.zext (fld 21 5 w) (fld 16 5 w) z)
  | 30 => code (Sz.ofCode (fld 0 3 w)) fun z => .ok (.ixa (fld 21 5 w) (fld 16 5 w) (fld 11 5 w) z)
  | 31 => code (Sz.ofCode (fld 0 3 w)) fun z => .ok (.bfx (fld 21 5 w) (fld 16 5 w) (fld 11 5 w) z)
  | 32 => code (Sz.ofCode (fld 0 3 w)) fun z => .ok (.bfi (fld 21 5 w) (fld 16 5 w) (fld 11 5 w) z)
  | _ => .error .unassignedFunction

/-- Major 0x02 (R231). -/
def decAddi (w : Nat) : Except DecodeError Instr :=
  .ok (.addi (fld 21 5 w) (fld 16 5 w) (BitVec.ofNat 16 (fld 0 16 w)))

/-- Major 0x03 (R231). -/
def decAndi (w : Nat) : Except DecodeError Instr :=
  .ok (.andi (fld 21 5 w) (fld 16 5 w) (BitVec.ofNat 16 (fld 0 16 w)))

/-- Major 0x04 (R231). -/
def decOri (w : Nat) : Except DecodeError Instr :=
  .ok (.ori (fld 21 5 w) (fld 16 5 w) (BitVec.ofNat 16 (fld 0 16 w)))

/-- Major 0x05 (R231). -/
def decXori (w : Nat) : Except DecodeError Instr :=
  .ok (.xori (fld 21 5 w) (fld 16 5 w) (BitVec.ofNat 16 (fld 0 16 w)))

/-- Major 0x06 (R231). -/
def decSlti (w : Nat) : Except DecodeError Instr :=
  .ok (.slti (fld 21 5 w) (fld 16 5 w) (BitVec.ofNat 16 (fld 0 16 w)))

/-- Major 0x07 (R231). -/
def decSltiu (w : Nat) : Except DecodeError Instr :=
  .ok (.sltiu (fld 21 5 w) (fld 16 5 w) (BitVec.ofNat 16 (fld 0 16 w)))

/-- Major 0x08 (R231). -/
def decShi (w : Nat) : Except DecodeError Instr :=
  need (fld 6 8 w == 0) <| code (ShiftOp.ofCode (fld 14 2 w)) fun o => .ok (.shi (fld 21 5 w) (fld 16 5 w) o (fld 0 6 w))

/-- Major 0x09 (R231). -/
def decLih (w : Nat) : Except DecodeError Instr :=
  need (fld 16 5 w == 0) <| .ok (.lih (fld 21 5 w) (BitVec.ofNat 16 (fld 0 16 w)))

/-- Major 0x0A (R231). -/
def decAddih (w : Nat) : Except DecodeError Instr :=
  .ok (.addih (fld 21 5 w) (fld 16 5 w) (BitVec.ofNat 16 (fld 0 16 w)))

/-- Major 0x0B (R231). -/
def decMuli (w : Nat) : Except DecodeError Instr :=
  .ok (.muli (fld 21 5 w) (fld 16 5 w) (BitVec.ofNat 16 (fld 0 16 w)))

/-- Major 0x10 (R226). -/
def decBr (w : Nat) : Except DecodeError Instr :=
  code (Cc.ofCode (fld 22 4 w)) fun c => .ok (.br c (fld 17 5 w) (fld 12 5 w) (BitVec.ofNat 12 (fld 0 12 w)))

/-- Major 0x11 (R234). -/
def decJmp (w : Nat) : Except DecodeError Instr :=
  .ok (.jmp (BitVec.ofNat 26 (fld 0 26 w)))

/-- Major 0x12 (R234). -/
def decCtl (w : Nat) : Except DecodeError Instr :=
  match fld 3 8 w with
  | 0 => need (fld 0 3 w == 3 && fld 21 5 w == 0 && fld 11 5 w == 0) <| .ok (.jr (fld 16 5 w))
  | 1 => need (fld 0 3 w == 3 && fld 21 5 w == 0 && fld 16 5 w == 0 && fld 11 5 w == 0) <| .ok (.ret)
  | 2 => need (fld 0 3 w == 3 && fld 11 5 w == 0) <| .ok (.callm (fld 21 5 w) (fld 16 5 w))
  | 3 => need (fld 0 3 w == 3 && fld 11 5 w == 0) <| .ok (.tailm (fld 21 5 w) (fld 16 5 w))
  | 4 => need (fld 0 3 w == 3 && fld 16 5 w == 0 && fld 11 5 w == 0) <| .ok (.here (fld 21 5 w))
  | _ => .error .unassignedFunction

/-- Major 0x13 (R231). -/
def decCall (w : Nat) : Except DecodeError Instr :=
  .ok (.call (fld 16 10 w) (fld 0 16 w))

/-- Major 0x14 (R231). -/
def decTail (w : Nat) : Except DecodeError Instr :=
  .ok (.tail (fld 16 10 w) (fld 0 16 w))

/-- Major 0x15 (R231). -/
def decRpt (w : Nat) : Except DecodeError Instr :=
  need (fld 0 13 w == 0) <| .ok (.rpt ((fld 22 4 w) + 1) (fld 17 5 w) (fld 13 4 w))

/-- Major 0x16 (R231). -/
def decTrap (w : Nat) : Except DecodeError Instr :=
  need (fld 21 5 w == 0 && fld 16 5 w == 0) <| .ok (.trap (BitVec.ofNat 16 (fld 0 16 w)))

/-- Major 0x18 (R235). -/
def decLd (w : Nat) : Except DecodeError Instr :=
  match fld 14 2 w with
  | 0 => code (Sz.ofCode (fld 11 3 w)) fun z => .ok (.ld (fld 21 5 w) (fld 16 5 w) z (BitVec.ofNat 11 (fld 0 11 w)))
  | 1 => code (Sz.ofCode (fld 11 3 w)) fun z => .ok (.ldAcq (fld 21 5 w) (fld 16 5 w) z (BitVec.ofNat 11 (fld 0 11 w)))
  | 2 => code (Sz.ofCode (fld 11 3 w)) fun z => .ok (.ldSync (fld 21 5 w) (fld 16 5 w) z (BitVec.ofNat 11 (fld 0 11 w)))
  | _ => code (Sz.ofCode (fld 11 3 w)) fun z => .ok (.ldTake (fld 21 5 w) (fld 16 5 w) z (BitVec.ofNat 11 (fld 0 11 w)))

/-- Major 0x19 (R231). -/
def decSt (w : Nat) : Except DecodeError Instr :=
  match fld 14 2 w with
  | 0 => code (Sz.ofCode (fld 11 3 w)) fun z => .ok (.st (fld 21 5 w) (fld 16 5 w) z (BitVec.ofNat 11 (fld 0 11 w)))
  | 1 => code (Sz.ofCode (fld 11 3 w)) fun z => .ok (.stRel (fld 21 5 w) (fld 16 5 w) z (BitVec.ofNat 11 (fld 0 11 w)))
  | 2 => code (Sz.ofCode (fld 11 3 w)) fun z => .ok (.stFill (fld 21 5 w) (fld 16 5 w) z (BitVec.ofNat 11 (fld 0 11 w)))
  | _ => code (Sz.ofCode (fld 11 3 w)) fun z => .ok (.stRelfill (fld 21 5 w) (fld 16 5 w) z (BitVec.ofNat 11 (fld 0 11 w)))

/-- Major 0x1A (R231). -/
def decVld (w : Nat) : Except DecodeError Instr :=
  match fld 12 2 w with
  | 0 => .ok (.vld (fld 22 4 w) (fld 17 5 w) (fld 14 3 w) (BitVec.ofNat 12 (fld 0 12 w)))
  | 1 => .ok (.vldBc32 (fld 22 4 w) (fld 17 5 w) (fld 14 3 w) (BitVec.ofNat 12 (fld 0 12 w)))
  | 2 => .ok (.vldBc16 (fld 22 4 w) (fld 17 5 w) (fld 14 3 w) (BitVec.ofNat 12 (fld 0 12 w)))
  | _ => .ok (.vldBc8 (fld 22 4 w) (fld 17 5 w) (fld 14 3 w) (BitVec.ofNat 12 (fld 0 12 w)))

/-- Major 0x1B (R231). -/
def decVst (w : Nat) : Except DecodeError Instr :=
  need (fld 12 2 w == 0) <| .ok (.vst (fld 22 4 w) (fld 17 5 w) (fld 14 3 w) (BitVec.ofNat 12 (fld 0 12 w)))

/-- Major 0x1C (R231). -/
def decVgs (w : Nat) : Except DecodeError Instr :=
  match fld 0 7 w with
  | 0 => need (fld 10 1 w == 0) <| .ok (.gather (fld 22 4 w) (fld 18 4 w) (fld 13 5 w) (fld 11 2 w) (fld 7 3 w))
  | 1 => need (fld 10 1 w == 0) <| .ok (.scatter (fld 22 4 w) (fld 18 4 w) (fld 13 5 w) (fld 11 2 w) (fld 7 3 w))
  | _ => .error .unassignedFunction

/-- Major 0x1D (R231). -/
def decAmo (w : Nat) : Except DecodeError Instr :=
  match fld 3 8 w with
  | 0 => code (Sz.ofCode (fld 0 3 w)) fun z => .ok (.amoAdd (fld 21 5 w) (fld 16 5 w) (fld 11 5 w) z)
  | 1 => code (Sz.ofCode (fld 0 3 w)) fun z => .ok (.amoAnd (fld 21 5 w) (fld 16 5 w) (fld 11 5 w) z)
  | 2 => code (Sz.ofCode (fld 0 3 w)) fun z => .ok (.amoOr (fld 21 5 w) (fld 16 5 w) (fld 11 5 w) z)
  | 3 => code (Sz.ofCode (fld 0 3 w)) fun z => .ok (.amoXor (fld 21 5 w) (fld 16 5 w) (fld 11 5 w) z)
  | 4 => code (Sz.ofCode (fld 0 3 w)) fun z => .ok (.amoMin (fld 21 5 w) (fld 16 5 w) (fld 11 5 w) z)
  | 5 => code (Sz.ofCode (fld 0 3 w)) fun z => .ok (.amoMax (fld 21 5 w) (fld 16 5 w) (fld 11 5 w) z)
  | 6 => code (Sz.ofCode (fld 0 3 w)) fun z => .ok (.amoMinu (fld 21 5 w) (fld 16 5 w) (fld 11 5 w) z)
  | 7 => code (Sz.ofCode (fld 0 3 w)) fun z => .ok (.amoMaxu (fld 21 5 w) (fld 16 5 w) (fld 11 5 w) z)
  | 8 => code (Sz.ofCode (fld 0 3 w)) fun z => .ok (.amoSwap (fld 21 5 w) (fld 16 5 w) (fld 11 5 w) z)
  | 9 => code (Sz.ofCode (fld 0 3 w)) fun z => .ok (.amoCas (fld 21 5 w) (fld 16 5 w) (fld 11 5 w) z)
  | 10 => need (fld 0 3 w == 2) <| .ok (.amoFadd (fld 21 5 w) (fld 16 5 w) (fld 11 5 w))
  | 11 => need (fld 0 3 w == 2) <| .ok (.amoFmax (fld 21 5 w) (fld 16 5 w) (fld 11 5 w))
  | _ => .error .unassignedFunction

/-- Major 0x1E (R231). -/
def decMem (w : Nat) : Except DecodeError Instr :=
  match fld 3 8 w with
  | 0 => need (fld 0 3 w == 3 && fld 21 5 w == 0 && fld 16 5 w == 0) <| code (Scope.ofCode (fld 11 5 w)) fun sc => .ok (.fence sc)
  | 1 => need (fld 0 3 w == 3 && fld 21 5 w == 0 && fld 11 5 w == 0) <| .ok (.pf (fld 16 5 w))
  | 2 => need (fld 0 3 w == 3 && fld 21 5 w == 0 && fld 11 5 w == 0) <| .ok (.clean (fld 16 5 w))
  | 3 => need (fld 0 3 w == 3 && fld 21 5 w == 0 && fld 11 5 w == 0) <| .ok (.inval (fld 16 5 w))
  | 4 => need (fld 0 3 w == 3 && fld 21 5 w == 0 && fld 11 5 w == 0) <| .ok (.zero (fld 16 5 w))
  | _ => .error .unassignedFunction

/-- Major 0x1F (R231). -/
def decMsg (w : Nat) : Except DecodeError Instr :=
  match fld 3 8 w with
  | 0 => need (fld 0 3 w == 3) <| code (RegKind.ofCode (fld 11 5 w)) fun k => .ok (.mkcont (fld 21 5 w) (fld 16 5 w) k)
  | 1 => need (fld 0 3 w == 3 && fld 21 5 w == 0) <| .ok (.send (fld 16 5 w) (fld 11 5 w))
  | 2 => need (fld 0 3 w == 3 && fld 21 5 w == 0) <| .ok (.qcfg (fld 16 5 w) (fld 11 5 w))
  | 3 => need (fld 0 3 w == 3 && fld 16 5 w == 0 && fld 11 5 w == 0) <| .ok (.qstat (fld 21 5 w))
  | _ => .error .unassignedFunction

/-- Major 0x20 (R231). -/
def decVf32 (w : Nat) : Except DecodeError Instr :=
  match fld 0 7 w with
  | 0 => need (fld 10 4 w == 0) <| .ok (.vf32Add (fld 22 4 w) (fld 18 4 w) (fld 14 4 w) (fld 7 3 w))
  | 1 => need (fld 10 4 w == 0) <| .ok (.vf32Sub (fld 22 4 w) (fld 18 4 w) (fld 14 4 w) (fld 7 3 w))
  | 2 => need (fld 10 4 w == 0) <| .ok (.vf32Mul (fld 22 4 w) (fld 18 4 w) (fld 14 4 w) (fld 7 3 w))
  | 3 => .ok (.vf32Fma (fld 22 4 w) (fld 18 4 w) (fld 14 4 w) (fld 10 4 w) (fld 7 3 w))
  | 4 => .ok (.vf32Fms (fld 22 4 w) (fld 18 4 w) (fld 14 4 w) (fld 10 4 w) (fld 7 3 w))
  | 5 => .ok (.vf32Fnma (fld 22 4 w) (fld 18 4 w) (fld 14 4 w) (fld 10 4 w) (fld 7 3 w))
  | 6 => need (fld 10 4 w == 0) <| .ok (.vf32Min (fld 22 4 w) (fld 18 4 w) (fld 14 4 w) (fld 7 3 w))
  | 7 => need (fld 10 4 w == 0) <| .ok (.vf32Max (fld 22 4 w) (fld 18 4 w) (fld 14 4 w) (fld 7 3 w))
  | 8 => need (fld 14 4 w == 0 && fld 10 4 w == 0) <| .ok (.vf32Abs (fld 22 4 w) (fld 18 4 w) (fld 7 3 w))
  | 9 => need (fld 14 4 w == 0 && fld 10 4 w == 0) <| .ok (.vf32Neg (fld 22 4 w) (fld 18 4 w) (fld 7 3 w))
  | 10 => need (fld 10 4 w == 0) <| .ok (.vf32Cmpeq (fld 22 4 w) (fld 18 4 w) (fld 14 4 w) (fld 7 3 w))
  | 11 => need (fld 10 4 w == 0) <| .ok (.vf32Cmplt (fld 22 4 w) (fld 18 4 w) (fld 14 4 w) (fld 7 3 w))
  | 12 => need (fld 10 4 w == 0) <| .ok (.vf32Cmple (fld 22 4 w) (fld 18 4 w) (fld 14 4 w) (fld 7 3 w))
  | 13 => need (fld 14 4 w == 0 && fld 10 4 w == 0) <| .ok (.vf32Rcp (fld 22 4 w) (fld 18 4 w) (fld 7 3 w))
  | 14 => need (fld 14 4 w == 0 && fld 10 4 w == 0) <| .ok (.vf32Rsqrt (fld 22 4 w) (fld 18 4 w) (fld 7 3 w))
  | 15 => need (fld 14 4 w == 0 && fld 10 4 w == 0) <| .ok (.vf32Sqrt (fld 22 4 w) (fld 18 4 w) (fld 7 3 w))
  | 16 => need (fld 14 4 w == 0 && fld 10 4 w == 0) <| .ok (.vf32Exp2 (fld 22 4 w) (fld 18 4 w) (fld 7 3 w))
  | 17 => need (fld 14 4 w == 0 && fld 10 4 w == 0) <| .ok (.vf32Log2 (fld 22 4 w) (fld 18 4 w) (fld 7 3 w))
  | 18 => need (fld 14 4 w == 0 && fld 10 4 w == 0) <| .ok (.vf32Tanh (fld 22 4 w) (fld 18 4 w) (fld 7 3 w))
  | 19 => need (fld 14 4 w == 0 && fld 10 4 w == 0) <| .ok (.vf32Sig (fld 22 4 w) (fld 18 4 w) (fld 7 3 w))
  | _ => .error .unassignedFunction

/-- Major 0x21 (R231). -/
def decVbf16 (w : Nat) : Except DecodeError Instr :=
  match fld 0 7 w with
  | 0 => need (fld 10 4 w == 0) <| .ok (.vbf16Add (fld 22 4 w) (fld 18 4 w) (fld 14 4 w) (fld 7 3 w))
  | 1 => need (fld 10 4 w == 0) <| .ok (.vbf16Sub (fld 22 4 w) (fld 18 4 w) (fld 14 4 w) (fld 7 3 w))
  | 2 => need (fld 10 4 w == 0) <| .ok (.vbf16Mul (fld 22 4 w) (fld 18 4 w) (fld 14 4 w) (fld 7 3 w))
  | 3 => .ok (.vbf16Fma (fld 22 4 w) (fld 18 4 w) (fld 14 4 w) (fld 10 4 w) (fld 7 3 w))
  | 4 => .ok (.vbf16Fms (fld 22 4 w) (fld 18 4 w) (fld 14 4 w) (fld 10 4 w) (fld 7 3 w))
  | 5 => .ok (.vbf16Fnma (fld 22 4 w) (fld 18 4 w) (fld 14 4 w) (fld 10 4 w) (fld 7 3 w))
  | 6 => need (fld 10 4 w == 0) <| .ok (.vbf16Min (fld 22 4 w) (fld 18 4 w) (fld 14 4 w) (fld 7 3 w))
  | 7 => need (fld 10 4 w == 0) <| .ok (.vbf16Max (fld 22 4 w) (fld 18 4 w) (fld 14 4 w) (fld 7 3 w))
  | 8 => need (fld 14 4 w == 0 && fld 10 4 w == 0) <| .ok (.vbf16Abs (fld 22 4 w) (fld 18 4 w) (fld 7 3 w))
  | 9 => need (fld 14 4 w == 0 && fld 10 4 w == 0) <| .ok (.vbf16Neg (fld 22 4 w) (fld 18 4 w) (fld 7 3 w))
  | 10 => need (fld 10 4 w == 0) <| .ok (.vbf16Cmpeq (fld 22 4 w) (fld 18 4 w) (fld 14 4 w) (fld 7 3 w))
  | 11 => need (fld 10 4 w == 0) <| .ok (.vbf16Cmplt (fld 22 4 w) (fld 18 4 w) (fld 14 4 w) (fld 7 3 w))
  | 12 => need (fld 10 4 w == 0) <| .ok (.vbf16Cmple (fld 22 4 w) (fld 18 4 w) (fld 14 4 w) (fld 7 3 w))
  | _ => .error .unassignedFunction

/-- Major 0x22 (R231). -/
def decVf16 (w : Nat) : Except DecodeError Instr :=
  match fld 0 7 w with
  | 0 => need (fld 10 4 w == 0) <| .ok (.vf16Add (fld 22 4 w) (fld 18 4 w) (fld 14 4 w) (fld 7 3 w))
  | 1 => need (fld 10 4 w == 0) <| .ok (.vf16Sub (fld 22 4 w) (fld 18 4 w) (fld 14 4 w) (fld 7 3 w))
  | 2 => need (fld 10 4 w == 0) <| .ok (.vf16Mul (fld 22 4 w) (fld 18 4 w) (fld 14 4 w) (fld 7 3 w))
  | 3 => .ok (.vf16Fma (fld 22 4 w) (fld 18 4 w) (fld 14 4 w) (fld 10 4 w) (fld 7 3 w))
  | 4 => .ok (.vf16Fms (fld 22 4 w) (fld 18 4 w) (fld 14 4 w) (fld 10 4 w) (fld 7 3 w))
  | 5 => .ok (.vf16Fnma (fld 22 4 w) (fld 18 4 w) (fld 14 4 w) (fld 10 4 w) (fld 7 3 w))
  | 6 => need (fld 10 4 w == 0) <| .ok (.vf16Min (fld 22 4 w) (fld 18 4 w) (fld 14 4 w) (fld 7 3 w))
  | 7 => need (fld 10 4 w == 0) <| .ok (.vf16Max (fld 22 4 w) (fld 18 4 w) (fld 14 4 w) (fld 7 3 w))
  | 8 => need (fld 14 4 w == 0 && fld 10 4 w == 0) <| .ok (.vf16Abs (fld 22 4 w) (fld 18 4 w) (fld 7 3 w))
  | 9 => need (fld 14 4 w == 0 && fld 10 4 w == 0) <| .ok (.vf16Neg (fld 22 4 w) (fld 18 4 w) (fld 7 3 w))
  | 10 => need (fld 10 4 w == 0) <| .ok (.vf16Cmpeq (fld 22 4 w) (fld 18 4 w) (fld 14 4 w) (fld 7 3 w))
  | 11 => need (fld 10 4 w == 0) <| .ok (.vf16Cmplt (fld 22 4 w) (fld 18 4 w) (fld 14 4 w) (fld 7 3 w))
  | 12 => need (fld 10 4 w == 0) <| .ok (.vf16Cmple (fld 22 4 w) (fld 18 4 w) (fld 14 4 w) (fld 7 3 w))
  | _ => .error .unassignedFunction

/-- Major 0x23 (R236). -/
def decVint (w : Nat) : Except DecodeError Instr :=
  match fld 2 5 w with
  | 0 => need (fld 10 4 w == 0) <| code (IntTy.ofCode (fld 0 2 w)) fun t => .ok (.vintAdd (fld 22 4 w) (fld 18 4 w) (fld 14 4 w) (fld 7 3 w) t)
  | 1 => need (fld 10 4 w == 0) <| code (IntTy.ofCode (fld 0 2 w)) fun t => .ok (.vintSub (fld 22 4 w) (fld 18 4 w) (fld 14 4 w) (fld 7 3 w) t)
  | 2 => need (fld 10 4 w == 0) <| code (IntTy.ofCode (fld 0 2 w)) fun t => .ok (.vintMul (fld 22 4 w) (fld 18 4 w) (fld 14 4 w) (fld 7 3 w) t)
  | 3 => code (IntTy.ofCode (fld 0 2 w)) fun t => .ok (.vintMad (fld 22 4 w) (fld 18 4 w) (fld 14 4 w) (fld 10 4 w) (fld 7 3 w) t)
  | 4 => need (fld 10 4 w == 0) <| code (IntTy.ofCode (fld 0 2 w)) fun t => .ok (.vintMin (fld 22 4 w) (fld 18 4 w) (fld 14 4 w) (fld 7 3 w) t)
  | 5 => need (fld 10 4 w == 0) <| code (IntTy.ofCode (fld 0 2 w)) fun t => .ok (.vintMax (fld 22 4 w) (fld 18 4 w) (fld 14 4 w) (fld 7 3 w) t)
  | 6 => need (fld 10 4 w == 0) <| code (IntTy.ofCode (fld 0 2 w)) fun t => .ok (.vintMinu (fld 22 4 w) (fld 18 4 w) (fld 14 4 w) (fld 7 3 w) t)
  | 7 => need (fld 10 4 w == 0) <| code (IntTy.ofCode (fld 0 2 w)) fun t => .ok (.vintMaxu (fld 22 4 w) (fld 18 4 w) (fld 14 4 w) (fld 7 3 w) t)
  | 8 => need (fld 10 4 w == 0) <| code (IntTy.ofCode (fld 0 2 w)) fun t => .ok (.vintAnd (fld 22 4 w) (fld 18 4 w) (fld 14 4 w) (fld 7 3 w) t)
  | 9 => need (fld 10 4 w == 0) <| code (IntTy.ofCode (fld 0 2 w)) fun t => .ok (.vintOr (fld 22 4 w) (fld 18 4 w) (fld 14 4 w) (fld 7 3 w) t)
  | 10 => need (fld 10 4 w == 0) <| code (IntTy.ofCode (fld 0 2 w)) fun t => .ok (.vintXor (fld 22 4 w) (fld 18 4 w) (fld 14 4 w) (fld 7 3 w) t)
  | 11 => need (fld 10 4 w == 0) <| code (IntTy.ofCode (fld 0 2 w)) fun t => .ok (.vintSll (fld 22 4 w) (fld 18 4 w) (fld 14 4 w) (fld 7 3 w) t)
  | 12 => need (fld 10 4 w == 0) <| code (IntTy.ofCode (fld 0 2 w)) fun t => .ok (.vintSrl (fld 22 4 w) (fld 18 4 w) (fld 14 4 w) (fld 7 3 w) t)
  | 13 => need (fld 10 4 w == 0) <| code (IntTy.ofCode (fld 0 2 w)) fun t => .ok (.vintSra (fld 22 4 w) (fld 18 4 w) (fld 14 4 w) (fld 7 3 w) t)
  | 14 => need (fld 10 4 w == 0) <| code (IntTy.ofCode (fld 0 2 w)) fun t => .ok (.vintCmpeq (fld 22 4 w) (fld 18 4 w) (fld 14 4 w) (fld 7 3 w) t)
  | 15 => need (fld 10 4 w == 0) <| code (IntTy.ofCode (fld 0 2 w)) fun t => .ok (.vintCmplt (fld 22 4 w) (fld 18 4 w) (fld 14 4 w) (fld 7 3 w) t)
  | 16 => need (fld 10 4 w == 0) <| code (IntTy.ofCode (fld 0 2 w)) fun t => .ok (.vintCmpltu (fld 22 4 w) (fld 18 4 w) (fld 14 4 w) (fld 7 3 w) t)
  | 17 => need (fld 14 4 w == 0 && fld 10 4 w == 0) <| code (IntTy.ofCode (fld 0 2 w)) fun t => .ok (.vintAbs (fld 22 4 w) (fld 18 4 w) (fld 7 3 w) t)
  | _ => .error .unassignedFunction

/-- Major 0x24 (R231). -/
def decVperm (w : Nat) : Except DecodeError Instr :=
  match fld 0 7 w with
  | 0 => need (fld 14 4 w == 0 && fld 10 4 w == 0) <| .ok (.bcast (fld 22 4 w) (fld 18 4 w) (fld 7 3 w))
  | 1 => need (fld 14 4 w == 0 && fld 7 3 w == 0) <| .ok (.ins (fld 22 4 w) (fld 18 4 w) (fld 10 4 w))
  | 2 => need (fld 14 4 w == 0 && fld 7 3 w == 0) <| .ok (.ext (fld 22 4 w) (fld 18 4 w) (fld 10 4 w))
  | 3 => need (fld 10 4 w == 0) <| .ok (.perm (fld 22 4 w) (fld 18 4 w) (fld 14 4 w) (fld 7 3 w))
  | 4 => need (fld 14 4 w == 0) <| .ok (.rot (fld 22 4 w) (fld 18 4 w) (fld 10 4 w) (fld 7 3 w))
  | 5 => need (fld 10 4 w == 0) <| .ok (.zip (fld 22 4 w) (fld 18 4 w) (fld 14 4 w) (fld 7 3 w))
  | 6 => need (fld 10 4 w == 0) <| .ok (.unzip (fld 22 4 w) (fld 18 4 w) (fld 14 4 w) (fld 7 3 w))
  | 7 => need (fld 14 4 w == 0 && fld 10 4 w == 0) <| .ok (.compress (fld 22 4 w) (fld 18 4 w) (fld 7 3 w))
  | 8 => need (fld 14 4 w == 0 && fld 10 4 w == 0) <| .ok (.expand (fld 22 4 w) (fld 18 4 w) (fld 7 3 w))
  | _ => .error .unassignedFunction

/-- Major 0x25 (R231). -/
def decVred (w : Nat) : Except DecodeError Instr :=
  match fld 0 7 w with
  | 0 => need (fld 14 4 w == 0 && fld 10 4 w == 0) <| .ok (.vredSumF32 (fld 22 4 w) (fld 18 4 w) (fld 7 3 w))
  | 1 => need (fld 14 4 w == 0 && fld 10 4 w == 0) <| .ok (.vredMaxF32 (fld 22 4 w) (fld 18 4 w) (fld 7 3 w))
  | 2 => need (fld 14 4 w == 0 && fld 10 4 w == 0) <| .ok (.vredMinF32 (fld 22 4 w) (fld 18 4 w) (fld 7 3 w))
  | 3 => need (fld 14 4 w == 0 && fld 10 4 w == 0) <| .ok (.vredSumI32 (fld 22 4 w) (fld 18 4 w) (fld 7 3 w))
  | 4 => need (fld 14 4 w == 0 && fld 10 4 w == 0) <| .ok (.vredMaxI32 (fld 22 4 w) (fld 18 4 w) (fld 7 3 w))
  | 5 => need (fld 14 4 w == 0 && fld 10 4 w == 0) <| .ok (.vredMinI32 (fld 22 4 w) (fld 18 4 w) (fld 7 3 w))
  | 6 => need (fld 14 4 w == 0 && fld 10 4 w == 0) <| .ok (.vredAnd (fld 22 4 w) (fld 18 4 w) (fld 7 3 w))
  | 7 => need (fld 14 4 w == 0 && fld 10 4 w == 0) <| .ok (.vredOr (fld 22 4 w) (fld 18 4 w) (fld 7 3 w))
  | _ => .error .unassignedFunction

/-- Major 0x26 (R231). -/
def decVcvt (w w2 : Nat) : Except DecodeError Instr :=
  match fld 0 7 w with
  | 0 => need (fld 14 4 w == 0 && fld 10 4 w == 0) <| code (CvtWord.ofCode w2) fun v => .ok (.cvt (fld 22 4 w) (fld 18 4 w) (fld 7 3 w) v)
  | 1 => need (fld 14 4 w == 0 && fld 10 4 w == 0) <| code (CvtWord.ofCode w2) fun v => .ok (.qnt (fld 22 4 w) (fld 18 4 w) (fld 7 3 w) v)
  | 2 => need (fld 14 4 w == 0 && fld 10 4 w == 0) <| code (CvtWord.ofCode w2) fun v => .ok (.dqnt (fld 22 4 w) (fld 18 4 w) (fld 7 3 w) v)
  | _ => .error .unassignedFunction

/-- Major 0x27 (R231). -/
def decVq (w : Nat) : Except DecodeError Instr :=
  match fld 0 7 w with
  | 0 => need (fld 14 4 w == 0 && fld 10 4 w == 0) <| .ok (.vscl (fld 22 4 w) (fld 18 4 w) (fld 7 3 w))
  | 1 => need (fld 14 4 w == 0 && fld 10 4 w == 0 && fld 7 3 w == 0) <| .ok (.vmaxx (fld 22 4 w) (fld 18 4 w))
  | 2 => need (fld 10 4 w == 0) <| .ok (.comp (fld 22 4 w) (fld 18 4 w) (fld 14 4 w) (fld 7 3 w))
  | 3 => need (fld 10 4 w == 0) <| .ok (.dcomp (fld 22 4 w) (fld 18 4 w) (fld 14 4 w) (fld 7 3 w))
  | _ => .error .unassignedFunction

/-- Major 0x28 (R231). -/
def decVpred (w : Nat) : Except DecodeError Instr :=
  match fld 0 7 w with
  | 0 => need (fld 10 4 w == 0) <| .ok (.vsel (fld 22 4 w) (fld 18 4 w) (fld 14 4 w) (fld 7 3 w))
  | 1 => need (fld 10 4 w == 0 && fld 7 3 w == 0) <| .ok (.pand (fld 22 4 w) (fld 18 4 w) (fld 14 4 w))
  | 2 => need (fld 10 4 w == 0 && fld 7 3 w == 0) <| .ok (.por (fld 22 4 w) (fld 18 4 w) (fld 14 4 w))
  | 3 => need (fld 10 4 w == 0 && fld 7 3 w == 0) <| .ok (.pxor (fld 22 4 w) (fld 18 4 w) (fld 14 4 w))
  | 4 => need (fld 14 4 w == 0 && fld 10 4 w == 0 && fld 7 3 w == 0) <| .ok (.pnot (fld 22 4 w) (fld 18 4 w))
  | 5 => need (fld 14 4 w == 0 && fld 10 4 w == 0 && fld 7 3 w == 0) <| .ok (.pcnt (fld 22 4 w) (fld 18 4 w))
  | 6 => need (fld 14 4 w == 0 && fld 10 4 w == 0 && fld 7 3 w == 0) <| .ok (.pfirst (fld 22 4 w) (fld 18 4 w))
  | 7 => need (fld 14 4 w == 0 && fld 10 4 w == 0 && fld 7 3 w == 0) <| .ok (.pset (fld 22 4 w) (fld 18 4 w))
  | _ => .error .unassignedFunction

/-- Major 0x29 (R344). -/
def decVmode (w : Nat) : Except DecodeError Instr :=
  match fld 0 7 w with
  | 0 => if fld 18 4 w = 1 then need (fld 18 4 w == 1 && fld 22 4 w == 0 && fld 14 4 w == 0 && fld 10 4 w == 0 && fld 7 3 w == 0) <| .ok (.vmodeLong) else need (fld 22 4 w == 0 && fld 18 4 w == 0 && fld 14 4 w == 0 && fld 10 4 w == 0 && fld 7 3 w == 0) <| .ok (.vmodeShort)
  | 1 => need (fld 22 4 w == 0 && fld 14 4 w == 0 && fld 10 4 w == 0 && fld 7 3 w == 0) <| code (GangWidth.ofCode (fld 18 4 w)) fun g => .ok (.gang g)
  | 2 => need (fld 22 4 w == 0 && fld 18 4 w == 0 && fld 14 4 w == 0 && fld 10 4 w == 0 && fld 7 3 w == 0) <| .ok (.gangrel)
  | 3 => need (fld 18 4 w == 0 && fld 14 4 w == 0 && fld 10 4 w == 0 && fld 7 3 w == 0) <| .ok (.vclr (fld 22 4 w))
  | _ => .error .unassignedFunction

/-- Major 0x30 (R237). -/
def decMcfg (w : Nat) : Except DecodeError Instr :=
  match fld 5 6 w with
  | 0 => need (fld 21 5 w == 0 && fld 11 5 w == 0 && fld 0 5 w == 0) <| .ok (.mcfg (fld 16 5 w))
  | _ => .error .unassignedFunction

/-- Major 0x31 (R231). -/
def decMop (w : Nat) : Except DecodeError Instr :=
  match fld 5 6 w with
  | 0 => need (fld 21 5 w == 0) <| .ok (.mmul (fld 0 5 w) (fld 16 5 w) (fld 11 5 w))
  | 1 => need (fld 21 5 w == 0 && fld 16 5 w == 0 && fld 11 5 w == 0) <| .ok (.mzero (fld 0 5 w))
  | 2 => need (fld 21 5 w == 0 && fld 11 5 w == 0) <| .ok (.mst (fld 0 5 w) (fld 16 5 w))
  | 3 => need (fld 21 5 w == 0 && fld 11 5 w == 0) <| .ok (.mld (fld 0 5 w) (fld 16 5 w))
  | 4 => need (fld 16 5 w == 0 && fld 11 5 w == 0) <| .ok (.mwait (fld 21 5 w) (fld 0 5 w))
  | _ => .error .unassignedFunction

/-- Major 0x34 (R231). -/
def decTask (w w2 : Nat) : Except DecodeError Instr :=
  match fld 5 6 w with
  | 0 => need (fld 21 5 w == 0 && fld 16 5 w == 0 && fld 11 5 w == 0 && fld 0 5 w == 0 && fld 26 6 w2 == 0) <| .ok (.spawn (fld 16 10 w2) (fld 0 16 w2))
  | 1 => need (fld 21 5 w == 0 && fld 16 5 w == 0 && fld 11 5 w == 0 && fld 0 5 w == 0) <| .ok (.join)
  | 2 => need (fld 0 5 w == 0) <| .ok (.tnew (fld 21 5 w) (fld 16 5 w) (fld 11 5 w))
  | 3 => need (fld 21 5 w == 0 && fld 0 5 w == 0) <| .ok (.tdep (fld 16 5 w) (fld 11 5 w))
  | 4 => need (fld 21 5 w == 0 && fld 11 5 w == 0 && fld 0 5 w == 0) <| .ok (.trel (fld 16 5 w))
  | 5 => need (fld 21 5 w == 0 && fld 16 5 w == 0 && fld 11 5 w == 0 && fld 0 5 w == 0) <| .ok (.tdone)
  | 6 => need (fld 11 5 w == 0 && fld 0 5 w == 0) <| .ok (.range (fld 21 5 w) (fld 16 5 w))
  | 7 => need (fld 21 5 w == 0 && fld 16 5 w == 0 && fld 11 5 w == 0 && fld 0 5 w == 0) <| .ok (.yield)
  | 8 => need (fld 21 5 w == 0 && fld 16 5 w == 0 && fld 11 5 w == 0) <| code (Level.ofCode (fld 0 5 w)) fun l => .ok (.tcancel l)
  | 9 => need (fld 16 5 w == 0 && fld 11 5 w == 0) <| code (Level.ofCode (fld 0 5 w)) fun l => .ok (.tlev (fld 21 5 w) l)
  | _ => .error .unassignedFunction

/-- Major 0x35 (R238). -/
def decSol (w w2 : Nat) : Except DecodeError Instr :=
  match fld 5 6 w with
  | 0 => need (fld 0 5 w == 0 && fld 7 9 w2 == 0) <| code (Scope.ofCode (fld 4 3 w2)) fun sc => code (Comb.ofCode (fld 0 4 w2)) fun cb => .ok (.sol (fld 21 5 w) (fld 16 5 w) (fld 11 5 w) (fld 16 16 w2) sc cb)
  | 1 => need (fld 21 5 w == 0 && fld 11 5 w == 0 && fld 0 5 w == 0 && w2 == 0) <| .ok (.reply (fld 16 5 w))
  | 2 => need (fld 21 5 w == 0 && fld 0 5 w == 0) <| .ok (.kput (fld 16 5 w) (fld 11 5 w) w2)
  | 3 => need (fld 21 5 w == 0 && fld 0 5 w == 0 && w2 == 0) <| .ok (.kdel (fld 16 5 w) (fld 11 5 w))
  | 4 => need (fld 21 5 w == 0 && fld 0 5 w == 0 && w2 == 0) <| .ok (.kmove (fld 16 5 w) (fld 11 5 w))
  | 5 => need (fld 11 5 w == 0 && fld 0 5 w == 0 && w2 == 0) <| .ok (.kfind (fld 21 5 w) (fld 16 5 w))
  | _ => .error .unassignedFunction

/-- Major 0x36 (R231). -/
def decBar (w : Nat) : Except DecodeError Instr :=
  match fld 5 6 w with
  | 0 => need (fld 21 5 w == 0 && fld 0 5 w == 0) <| .ok (.barinit (fld 16 5 w) (fld 11 5 w))
  | 1 => need (fld 11 5 w == 0 && fld 0 5 w == 0) <| .ok (.arrive (fld 21 5 w) (fld 16 5 w))
  | 2 => need (fld 21 5 w == 0 && fld 0 5 w == 0) <| .ok (.await (fld 16 5 w) (fld 11 5 w))
  | 3 => need (fld 21 5 w == 0 && fld 0 5 w == 0) <| .ok (.barbytes (fld 16 5 w) (fld 11 5 w))
  | _ => .error .unassignedFunction

/-- Major 0x38 (R238). -/
def decCpy (w w2 : Nat) : Except DecodeError Instr :=
  match fld 5 6 w with
  | 0 => need (fld 7 25 w2 == 0) <| code (boolOfCode (fld 6 1 w2)) fun b => .ok (.cpy (fld 21 5 w) (fld 16 5 w) (fld 11 5 w) (fld 0 5 w) (fld 0 6 w2) b)
  | 1 => need (fld 21 5 w == 0 && fld 11 5 w == 0 && fld 7 25 w2 == 0) <| code (boolOfCode (fld 6 1 w2)) fun b => .ok (.cpyrep (fld 16 5 w) (fld 0 5 w) (fld 0 6 w2) b)
  | 2 => need (fld 16 5 w == 0 && fld 11 5 w == 0 && fld 0 5 w == 0 && fld 6 26 w2 == 0) <| .ok (.cpystat (fld 21 5 w) (fld 0 6 w2))
  | 3 => need (fld 21 5 w == 0 && fld 16 5 w == 0 && fld 11 5 w == 0 && fld 0 5 w == 0 && fld 6 26 w2 == 0) <| .ok (.cpykill (fld 0 6 w2))
  | _ => .error .unassignedFunction

/-- Major 0x39 (R231). -/
def decNet (w : Nat) : Except DecodeError Instr :=
  match fld 5 6 w with
  | 0 => need (fld 21 5 w == 0 && fld 11 5 w == 0 && fld 0 5 w == 0) <| .ok (.put (fld 16 5 w))
  | 1 => need (fld 21 5 w == 0 && fld 11 5 w == 0 && fld 0 5 w == 0) <| .ok (.get (fld 16 5 w))
  | 2 => need (fld 21 5 w == 0 && fld 0 5 w == 0) <| .ok (.wpost (fld 16 5 w) (fld 11 5 w))
  | 3 => need (fld 21 5 w == 0 && fld 11 5 w == 0 && fld 0 5 w == 0) <| .ok (.wkill (fld 16 5 w))
  | _ => .error .unassignedFunction

/-- Major 0x3A (R231). -/
def decTag (w : Nat) : Except DecodeError Instr :=
  match fld 5 6 w with
  | 0 => need (fld 11 5 w == 0 && fld 0 5 w == 0) <| .ok (.waitany (fld 21 5 w) (fld 16 5 w))
  | 1 => need (fld 21 5 w == 0 && fld 11 5 w == 0 && fld 0 5 w == 0) <| .ok (.waitall (fld 16 5 w))
  | 2 => need (fld 11 5 w == 0 && fld 0 5 w == 0) <| .ok (.ffr (fld 21 5 w) (fld 16 5 w))
  | 3 => need (fld 21 5 w == 0 && fld 11 5 w == 0 && fld 0 5 w == 0) <| .ok (.tagclr (fld 16 5 w))
  | _ => .error .unassignedFunction

/-- Major 0x3C (R239). -/
def decSys (w : Nat) : Except DecodeError Instr :=
  match fld 5 6 w with
  | 0 => need (fld 16 5 w == 0) <| .ok (.getc (fld 21 5 w) (fld 11 5 w * 32 + fld 0 5 w))
  | 1 => need (fld 21 5 w == 0) <| .ok (.setc (fld 11 5 w * 32 + fld 0 5 w) (fld 16 5 w))
  | 2 => .ok (.sysc (fld 21 5 w) (fld 16 5 w) (fld 11 5 w * 32 + fld 0 5 w))
  | 3 => need (fld 21 5 w == 0 && fld 16 5 w == 0 && fld 11 5 w == 0 && fld 0 5 w == 0) <| .ok (.eret)
  | 4 => need (fld 21 5 w == 0 && fld 16 5 w == 0 && fld 11 5 w == 0 && fld 0 5 w == 0) <| .ok (.eack)
  | 5 => need (fld 21 5 w == 0 && fld 11 5 w == 0 && fld 0 5 w == 0) <| .ok (.park (fld 16 5 w))
  | 6 => need (fld 21 5 w == 0 && fld 11 5 w == 0 && fld 0 5 w == 0) <| .ok (.wake (fld 16 5 w))
  | 7 => need (fld 21 5 w == 0 && fld 16 5 w == 0 && fld 11 5 w == 0 && fld 0 5 w == 0) <| .ok (.halt)
  | 8 => need (fld 21 5 w == 0 && fld 11 5 w == 0 && fld 0 5 w == 0) <| .ok (.cinst (fld 16 5 w))
  | 9 => need (fld 21 5 w == 0 && fld 11 5 w == 0 && fld 0 5 w == 0) <| .ok (.cdrop (fld 16 5 w))
  | 10 => need (fld 21 5 w == 0) <| code (boolOfCode (fld 0 5 w)) fun b => .ok (.tlbi (fld 16 5 w) (fld 11 5 w) b)
  | 11 => need (fld 21 5 w == 0 && fld 0 5 w == 0) <| .ok (.scrub (fld 16 5 w) (fld 11 5 w))
  | _ => .error .unassignedFunction

/-- Major 0x3E (R288). -/
def decLong (w w2 : Nat) : Except DecodeError Instr :=
  match fld 16 5 w with
  | 0 => need (fld 0 16 w == 0) <| .ok (.limm (fld 21 5 w) (BitVec.ofNat 32 w2))
  | 1 => need (fld 0 16 w == 0) <| .ok (.limmh (fld 21 5 w) (BitVec.ofNat 32 w2))
  | 2 => need (fld 0 16 w == 0) <| .ok (.addl (fld 21 5 w) (BitVec.ofNat 32 w2))
  | _ => .error .unassignedFunction

/-- The instruction the words name, before the operand limits: the major opcode map of R231. -/
def decodeRaw (w w2 : Nat) : Except DecodeError Instr :=
  match fld 26 6 w with
  | 0x01 => decInt w
  | 0x02 => decAddi w
  | 0x03 => decAndi w
  | 0x04 => decOri w
  | 0x05 => decXori w
  | 0x06 => decSlti w
  | 0x07 => decSltiu w
  | 0x08 => decShi w
  | 0x09 => decLih w
  | 0x0A => decAddih w
  | 0x0B => decMuli w
  | 0x10 => decBr w
  | 0x11 => decJmp w
  | 0x12 => decCtl w
  | 0x13 => decCall w
  | 0x14 => decTail w
  | 0x15 => decRpt w
  | 0x16 => decTrap w
  | 0x18 => decLd w
  | 0x19 => decSt w
  | 0x1A => decVld w
  | 0x1B => decVst w
  | 0x1C => decVgs w
  | 0x1D => decAmo w
  | 0x1E => decMem w
  | 0x1F => decMsg w
  | 0x20 => decVf32 w
  | 0x21 => decVbf16 w
  | 0x22 => decVf16 w
  | 0x23 => decVint w
  | 0x24 => decVperm w
  | 0x25 => decVred w
  | 0x26 => decVcvt w w2
  | 0x27 => decVq w
  | 0x28 => decVpred w
  | 0x29 => decVmode w
  | 0x30 => decMcfg w
  | 0x31 => decMop w
  | 0x34 => decTask w w2
  | 0x35 => decSol w w2
  | 0x36 => decBar w
  | 0x38 => decCpy w w2
  | 0x39 => decNet w
  | 0x3A => decTag w
  | 0x3C => decSys w
  | 0x3E => decLong w w2
  | _ => .error .unassignedMajor

/-- The instructions of two words (R220): the majors 0x26, 0x35, 0x38 and 0x3E, and `spawn`. -/
def twoWords (w : Nat) : Bool :=
  fld 26 6 w == 0x26 || fld 26 6 w == 0x35 || fld 26 6 w == 0x38 || fld 26 6 w == 0x3E
    || (fld 26 6 w == 0x34 && fld 5 6 w == 0)

/-- The privileged encodings (R239, R240, R241): `sys` functions 5 to 11, and `getc` or `setc` of the registers
0x100 to 0x102. -/
def privilegedWord (w : Nat) : Bool :=
  fld 26 6 w == 0x3C &&
    ((decide (5 ≤ fld 5 6 w) && decide (fld 5 6 w ≤ 11)) ||
      (decide (fld 5 6 w ≤ 1) && fld 11 5 w == 8 && decide (fld 0 5 w ≤ 2)))

/-- Decoding in the order of R243: the assignment of major and function, then privilege (`slot7` says that the slot may
run privileged encodings), then fields and operand limits. -/
def decodeFor (slot7 : Bool) (w w2 : Nat) : Except DecodeError Instr :=
  match decodeRaw w w2 with
  | .error .unassignedMajor => .error .unassignedMajor
  | .error .unassignedFunction => .error .unassignedFunction
  | r =>
    if privilegedWord w && !slot7 then .error .privileged
    else match r with
      | .ok i => if i.wf then .ok i else .error .operandLimit
      | .error e => .error e

/-- What the words mean to a slot that may run everything (slot 7). -/
def decodeWords (w w2 : Nat) : Except DecodeError Instr := decodeFor true w w2

/-- The little-endian value of bytes (R219). -/
def leNat : List Byte → Nat
  | [] => 0
  | b :: bs => b.toNat + 256 * leNat bs

/-- The low `n` bytes of a number, lowest first (R219). -/
def leBytes : Nat → Nat → List Byte
  | 0, _ => []
  | n + 1, x => BitVec.ofNat 8 x :: leBytes n (x / 256)

/-- Decoding of bytes: one word, or two where the first says so (R220); what follows is left unread. -/
def decodeBytes (bs : List Byte) : Except DecodeError Instr :=
  if bs.length < 4 then .error .truncated
  else if twoWords (leNat (bs.take 4)) && decide (bs.length < 8) then .error .truncated
  else decodeWords (leNat (bs.take 4)) (leNat ((bs.drop 4).take 4))

/-- A word of the A format (R222). -/
def packA (op d a b fn sz : Nat) : Nat :=
  op * 2 ^ 26 + d * 2 ^ 21 + a * 2 ^ 16 + b * 2 ^ 11 + fn * 2 ^ 3 + sz

/-- A word of the I format (R222). -/
def packI (op d a imm : Nat) : Nat :=
  op * 2 ^ 26 + d * 2 ^ 21 + a * 2 ^ 16 + imm

/-- A word of the `shi`, an I format whose immediate has fields (R233) (R222). -/
def packSH (op d a o z n : Nat) : Nat :=
  op * 2 ^ 26 + d * 2 ^ 21 + a * 2 ^ 16 + o * 2 ^ 14 + z * 2 ^ 6 + n

/-- A word of the M format (R222). -/
def packM (op d a ord sz off : Nat) : Nat :=
  op * 2 ^ 26 + d * 2 ^ 21 + a * 2 ^ 16 + ord * 2 ^ 14 + sz * 2 ^ 11 + off

/-- A word of the B format (R222). -/
def packB (op cc a b disp : Nat) : Nat :=
  op * 2 ^ 26 + cc * 2 ^ 22 + a * 2 ^ 17 + b * 2 ^ 12 + disp

/-- A word of the J format (R222). -/
def packJ (op disp : Nat) : Nat :=
  op * 2 ^ 26 + disp

/-- A word of the C format (R222). -/
def packC (op site imp : Nat) : Nat :=
  op * 2 ^ 26 + site * 2 ^ 16 + imp

/-- A word of the `rpt` (R234) (R222). -/
def packR (op len a str z : Nat) : Nat :=
  op * 2 ^ 26 + len * 2 ^ 22 + a * 2 ^ 17 + str * 2 ^ 13 + z

/-- A word of the V format (R222). -/
def packV (op vd va vb vc pr fn : Nat) : Nat :=
  op * 2 ^ 26 + vd * 2 ^ 22 + va * 2 ^ 18 + vb * 2 ^ 14 + vc * 2 ^ 10 + pr * 2 ^ 7 + fn

/-- A word of the `vint`, a V format whose function has an operation and a type (R222). -/
def packVI (op vd va vb vc pr fn ty : Nat) : Nat :=
  op * 2 ^ 26 + vd * 2 ^ 22 + va * 2 ^ 18 + vb * 2 ^ 14 + vc * 2 ^ 10 + pr * 2 ^ 7 + fn * 2 ^ 2 + ty

/-- A word of the VM format (R222). -/
def packVM (op vd a pr mode off : Nat) : Nat :=
  op * 2 ^ 26 + vd * 2 ^ 22 + a * 2 ^ 17 + pr * 2 ^ 14 + mode * 2 ^ 12 + off

/-- A word of the VG format (R222). -/
def packVG (op vd va a sc z pr fn : Nat) : Nat :=
  op * 2 ^ 26 + vd * 2 ^ 22 + va * 2 ^ 18 + a * 2 ^ 13 + sc * 2 ^ 11 + z * 2 ^ 10 + pr * 2 ^ 7 + fn

/-- A word of the S format (R222). -/
def packS (op d a b fn imm : Nat) : Nat :=
  op * 2 ^ 26 + d * 2 ^ 21 + a * 2 ^ 16 + b * 2 ^ 11 + fn * 2 ^ 5 + imm

/-- A word of the L format (R222). -/
def packL (op d fn z : Nat) : Nat :=
  op * 2 ^ 26 + d * 2 ^ 21 + fn * 2 ^ 16 + z

/-- The words of an instruction (R219, R222, R236 to R239); an event has none. -/
def encode : Instr → List Nat
  | .add d a b sz => [packA 0x01 d a b 0 sz.code]
  | .sub d a b sz => [packA 0x01 d a b 1 sz.code]
  | .mul d a b sz => [packA 0x01 d a b 2 sz.code]
  | .mulh d a b sz => [packA 0x01 d a b 3 sz.code]
  | .mulhu d a b sz => [packA 0x01 d a b 4 sz.code]
  | .div d a b sz => [packA 0x01 d a b 5 sz.code]
  | .divu d a b sz => [packA 0x01 d a b 6 sz.code]
  | .rem d a b sz => [packA 0x01 d a b 7 sz.code]
  | .remu d a b sz => [packA 0x01 d a b 8 sz.code]
  | .and d a b => [packA 0x01 d a b 9 3]
  | .or d a b => [packA 0x01 d a b 10 3]
  | .xor d a b => [packA 0x01 d a b 11 3]
  | .andn d a b => [packA 0x01 d a b 12 3]
  | .sll d a b sz => [packA 0x01 d a b 13 sz.code]
  | .srl d a b sz => [packA 0x01 d a b 14 sz.code]
  | .sra d a b sz => [packA 0x01 d a b 15 sz.code]
  | .rol d a b sz => [packA 0x01 d a b 16 sz.code]
  | .ror d a b sz => [packA 0x01 d a b 17 sz.code]
  | .min d a b sz => [packA 0x01 d a b 18 sz.code]
  | .max d a b sz => [packA 0x01 d a b 19 sz.code]
  | .minu d a b sz => [packA 0x01 d a b 20 sz.code]
  | .maxu d a b sz => [packA 0x01 d a b 21 sz.code]
  | .slt d a b sz => [packA 0x01 d a b 22 sz.code]
  | .sltu d a b sz => [packA 0x01 d a b 23 sz.code]
  | .seq d a b sz => [packA 0x01 d a b 24 sz.code]
  | .clz d a sz => [packA 0x01 d a 0 25 sz.code]
  | .ctz d a sz => [packA 0x01 d a 0 26 sz.code]
  | .popc d a sz => [packA 0x01 d a 0 27 sz.code]
  | .sext d a sz => [packA 0x01 d a 0 28 sz.code]
  | .zext d a sz => [packA 0x01 d a 0 29 sz.code]
  | .ixa d a b sz => [packA 0x01 d a b 30 sz.code]
  | .bfx d a b sz => [packA 0x01 d a b 31 sz.code]
  | .bfi d a b sz => [packA 0x01 d a b 32 sz.code]
  | .addi d a imm => [packI 0x02 d a imm.toNat]
  | .andi d a imm => [packI 0x03 d a imm.toNat]
  | .ori d a imm => [packI 0x04 d a imm.toNat]
  | .xori d a imm => [packI 0x05 d a imm.toNat]
  | .slti d a imm => [packI 0x06 d a imm.toNat]
  | .sltiu d a imm => [packI 0x07 d a imm.toNat]
  | .shi d a op n => [packSH 0x08 d a op.code 0 n]
  | .lih d imm => [packI 0x09 d 0 imm.toNat]
  | .addih d a imm => [packI 0x0A d a imm.toNat]
  | .muli d a imm => [packI 0x0B d a imm.toNat]
  | .limm d k => [packL 0x3E d 0 0, k.toNat]
  | .limmh d k => [packL 0x3E d 1 0, k.toNat]
  | .addl d k => [packL 0x3E d 2 0, k.toNat]
  | .br cc a b disp => [packB 0x10 cc.code a b disp.toNat]
  | .jmp disp => [packJ 0x11 disp.toNat]
  | .jr a => [packA 0x12 0 a 0 0 3]
  | .ret => [packA 0x12 0 0 0 1 3]
  | .callm p n => [packA 0x12 p n 0 2 3]
  | .tailm p n => [packA 0x12 p n 0 3 3]
  | .here d => [packA 0x12 d 0 0 4 3]
  | .call site imp => [packC 0x13 site imp]
  | .tail site imp => [packC 0x14 site imp]
  | .rpt len a str => [packR 0x15 (len - 1) a str 0]
  | .trap imm => [packI 0x16 0 0 imm.toNat]
  | .ld d a sz off => [packM 0x18 d a 0 sz.code off.toNat]
  | .ldAcq d a sz off => [packM 0x18 d a 1 sz.code off.toNat]
  | .ldSync d a sz off => [packM 0x18 d a 2 sz.code off.toNat]
  | .ldTake d a sz off => [packM 0x18 d a 3 sz.code off.toNat]
  | .st d a sz off => [packM 0x19 d a 0 sz.code off.toNat]
  | .stRel d a sz off => [packM 0x19 d a 1 sz.code off.toNat]
  | .stFill d a sz off => [packM 0x19 d a 2 sz.code off.toNat]
  | .stRelfill d a sz off => [packM 0x19 d a 3 sz.code off.toNat]
  | .vld vd a pr off => [packVM 0x1A vd a pr 0 off.toNat]
  | .vldBc32 vd a pr off => [packVM 0x1A vd a pr 1 off.toNat]
  | .vldBc16 vd a pr off => [packVM 0x1A vd a pr 2 off.toNat]
  | .vldBc8 vd a pr off => [packVM 0x1A vd a pr 3 off.toNat]
  | .vst vd a pr off => [packVM 0x1B vd a pr 0 off.toNat]
  | .gather vd va b sc pr => [packVG 0x1C vd va b sc 0 pr 0]
  | .scatter vd va b sc pr => [packVG 0x1C vd va b sc 0 pr 1]
  | .amoAdd d a b sz => [packA 0x1D d a b 0 sz.code]
  | .amoAnd d a b sz => [packA 0x1D d a b 1 sz.code]
  | .amoOr d a b sz => [packA 0x1D d a b 2 sz.code]
  | .amoXor d a b sz => [packA 0x1D d a b 3 sz.code]
  | .amoMin d a b sz => [packA 0x1D d a b 4 sz.code]
  | .amoMax d a b sz => [packA 0x1D d a b 5 sz.code]
  | .amoMinu d a b sz => [packA 0x1D d a b 6 sz.code]
  | .amoMaxu d a b sz => [packA 0x1D d a b 7 sz.code]
  | .amoSwap d a b sz => [packA 0x1D d a b 8 sz.code]
  | .amoCas d a b sz => [packA 0x1D d a b 9 sz.code]
  | .amoFadd d a b => [packA 0x1D d a b 10 2]
  | .amoFmax d a b => [packA 0x1D d a b 11 2]
  | .fence scope => [packA 0x1E 0 0 scope.code 0 3]
  | .pf a => [packA 0x1E 0 a 0 1 3]
  | .clean a => [packA 0x1E 0 a 0 2 3]
  | .inval a => [packA 0x1E 0 a 0 3 3]
  | .zero a => [packA 0x1E 0 a 0 4 3]
  | .mkcont d a kind => [packA 0x1F d a kind.code 0 3]
  | .send a b => [packA 0x1F 0 a b 1 3]
  | .qcfg a b => [packA 0x1F 0 a b 2 3]
  | .qstat d => [packA 0x1F d 0 0 3 3]
  | .vf32Add vd va vb pr => [packV 0x20 vd va vb 0 pr 0]
  | .vf32Sub vd va vb pr => [packV 0x20 vd va vb 0 pr 1]
  | .vf32Mul vd va vb pr => [packV 0x20 vd va vb 0 pr 2]
  | .vf32Fma vd va vb vc pr => [packV 0x20 vd va vb vc pr 3]
  | .vf32Fms vd va vb vc pr => [packV 0x20 vd va vb vc pr 4]
  | .vf32Fnma vd va vb vc pr => [packV 0x20 vd va vb vc pr 5]
  | .vf32Min vd va vb pr => [packV 0x20 vd va vb 0 pr 6]
  | .vf32Max vd va vb pr => [packV 0x20 vd va vb 0 pr 7]
  | .vf32Abs vd va pr => [packV 0x20 vd va 0 0 pr 8]
  | .vf32Neg vd va pr => [packV 0x20 vd va 0 0 pr 9]
  | .vf32Cmpeq vd va vb pr => [packV 0x20 vd va vb 0 pr 10]
  | .vf32Cmplt vd va vb pr => [packV 0x20 vd va vb 0 pr 11]
  | .vf32Cmple vd va vb pr => [packV 0x20 vd va vb 0 pr 12]
  | .vf32Rcp vd va pr => [packV 0x20 vd va 0 0 pr 13]
  | .vf32Rsqrt vd va pr => [packV 0x20 vd va 0 0 pr 14]
  | .vf32Sqrt vd va pr => [packV 0x20 vd va 0 0 pr 15]
  | .vf32Exp2 vd va pr => [packV 0x20 vd va 0 0 pr 16]
  | .vf32Log2 vd va pr => [packV 0x20 vd va 0 0 pr 17]
  | .vf32Tanh vd va pr => [packV 0x20 vd va 0 0 pr 18]
  | .vf32Sig vd va pr => [packV 0x20 vd va 0 0 pr 19]
  | .vbf16Add vd va vb pr => [packV 0x21 vd va vb 0 pr 0]
  | .vbf16Sub vd va vb pr => [packV 0x21 vd va vb 0 pr 1]
  | .vbf16Mul vd va vb pr => [packV 0x21 vd va vb 0 pr 2]
  | .vbf16Fma vd va vb vc pr => [packV 0x21 vd va vb vc pr 3]
  | .vbf16Fms vd va vb vc pr => [packV 0x21 vd va vb vc pr 4]
  | .vbf16Fnma vd va vb vc pr => [packV 0x21 vd va vb vc pr 5]
  | .vbf16Min vd va vb pr => [packV 0x21 vd va vb 0 pr 6]
  | .vbf16Max vd va vb pr => [packV 0x21 vd va vb 0 pr 7]
  | .vbf16Abs vd va pr => [packV 0x21 vd va 0 0 pr 8]
  | .vbf16Neg vd va pr => [packV 0x21 vd va 0 0 pr 9]
  | .vbf16Cmpeq vd va vb pr => [packV 0x21 vd va vb 0 pr 10]
  | .vbf16Cmplt vd va vb pr => [packV 0x21 vd va vb 0 pr 11]
  | .vbf16Cmple vd va vb pr => [packV 0x21 vd va vb 0 pr 12]
  | .vf16Add vd va vb pr => [packV 0x22 vd va vb 0 pr 0]
  | .vf16Sub vd va vb pr => [packV 0x22 vd va vb 0 pr 1]
  | .vf16Mul vd va vb pr => [packV 0x22 vd va vb 0 pr 2]
  | .vf16Fma vd va vb vc pr => [packV 0x22 vd va vb vc pr 3]
  | .vf16Fms vd va vb vc pr => [packV 0x22 vd va vb vc pr 4]
  | .vf16Fnma vd va vb vc pr => [packV 0x22 vd va vb vc pr 5]
  | .vf16Min vd va vb pr => [packV 0x22 vd va vb 0 pr 6]
  | .vf16Max vd va vb pr => [packV 0x22 vd va vb 0 pr 7]
  | .vf16Abs vd va pr => [packV 0x22 vd va 0 0 pr 8]
  | .vf16Neg vd va pr => [packV 0x22 vd va 0 0 pr 9]
  | .vf16Cmpeq vd va vb pr => [packV 0x22 vd va vb 0 pr 10]
  | .vf16Cmplt vd va vb pr => [packV 0x22 vd va vb 0 pr 11]
  | .vf16Cmple vd va vb pr => [packV 0x22 vd va vb 0 pr 12]
  | .vintAdd vd va vb pr ty => [packVI 0x23 vd va vb 0 pr 0 ty.code]
  | .vintSub vd va vb pr ty => [packVI 0x23 vd va vb 0 pr 1 ty.code]
  | .vintMul vd va vb pr ty => [packVI 0x23 vd va vb 0 pr 2 ty.code]
  | .vintMad vd va vb vc pr ty => [packVI 0x23 vd va vb vc pr 3 ty.code]
  | .vintMin vd va vb pr ty => [packVI 0x23 vd va vb 0 pr 4 ty.code]
  | .vintMax vd va vb pr ty => [packVI 0x23 vd va vb 0 pr 5 ty.code]
  | .vintMinu vd va vb pr ty => [packVI 0x23 vd va vb 0 pr 6 ty.code]
  | .vintMaxu vd va vb pr ty => [packVI 0x23 vd va vb 0 pr 7 ty.code]
  | .vintAnd vd va vb pr ty => [packVI 0x23 vd va vb 0 pr 8 ty.code]
  | .vintOr vd va vb pr ty => [packVI 0x23 vd va vb 0 pr 9 ty.code]
  | .vintXor vd va vb pr ty => [packVI 0x23 vd va vb 0 pr 10 ty.code]
  | .vintSll vd va vb pr ty => [packVI 0x23 vd va vb 0 pr 11 ty.code]
  | .vintSrl vd va vb pr ty => [packVI 0x23 vd va vb 0 pr 12 ty.code]
  | .vintSra vd va vb pr ty => [packVI 0x23 vd va vb 0 pr 13 ty.code]
  | .vintCmpeq vd va vb pr ty => [packVI 0x23 vd va vb 0 pr 14 ty.code]
  | .vintCmplt vd va vb pr ty => [packVI 0x23 vd va vb 0 pr 15 ty.code]
  | .vintCmpltu vd va vb pr ty => [packVI 0x23 vd va vb 0 pr 16 ty.code]
  | .vintAbs vd va pr ty => [packVI 0x23 vd va 0 0 pr 17 ty.code]
  | .bcast vd sa pr => [packV 0x24 vd sa 0 0 pr 0]
  | .ins vd sa lane => [packV 0x24 vd sa 0 lane 0 1]
  | .ext sd va lane => [packV 0x24 sd va 0 lane 0 2]
  | .perm vd va vb pr => [packV 0x24 vd va vb 0 pr 3]
  | .rot vd va n pr => [packV 0x24 vd va 0 n pr 4]
  | .zip vd va vb pr => [packV 0x24 vd va vb 0 pr 5]
  | .unzip vd va vb pr => [packV 0x24 vd va vb 0 pr 6]
  | .compress vd va pr => [packV 0x24 vd va 0 0 pr 7]
  | .expand vd va pr => [packV 0x24 vd va 0 0 pr 8]
  | .vredSumF32 vd va pr => [packV 0x25 vd va 0 0 pr 0]
  | .vredMaxF32 vd va pr => [packV 0x25 vd va 0 0 pr 1]
  | .vredMinF32 vd va pr => [packV 0x25 vd va 0 0 pr 2]
  | .vredSumI32 vd va pr => [packV 0x25 vd va 0 0 pr 3]
  | .vredMaxI32 vd va pr => [packV 0x25 vd va 0 0 pr 4]
  | .vredMinI32 vd va pr => [packV 0x25 vd va 0 0 pr 5]
  | .vredAnd vd va pr => [packV 0x25 vd va 0 0 pr 6]
  | .vredOr vd va pr => [packV 0x25 vd va 0 0 pr 7]
  | .cvt vd va pr w => [packV 0x26 vd va 0 0 pr 0, w.code]
  | .qnt vd va pr w => [packV 0x26 vd va 0 0 pr 1, w.code]
  | .dqnt vd va pr w => [packV 0x26 vd va 0 0 pr 2, w.code]
  | .vscl vd va pr => [packV 0x27 vd va 0 0 pr 0]
  | .vmaxx vd va => [packV 0x27 vd va 0 0 0 1]
  | .comp vd va vb pr => [packV 0x27 vd va vb 0 pr 2]
  | .dcomp vd va vb pr => [packV 0x27 vd va vb 0 pr 3]
  | .vsel vd va vb pr => [packV 0x28 vd va vb 0 pr 0]
  | .pand pd pa pb => [packV 0x28 pd pa pb 0 0 1]
  | .por pd pa pb => [packV 0x28 pd pa pb 0 0 2]
  | .pxor pd pa pb => [packV 0x28 pd pa pb 0 0 3]
  | .pnot pd pa => [packV 0x28 pd pa 0 0 0 4]
  | .pcnt sd pa => [packV 0x28 sd pa 0 0 0 5]
  | .pfirst sd pa => [packV 0x28 sd pa 0 0 0 6]
  | .pset pd sa => [packV 0x28 pd sa 0 0 0 7]
  | .vmodeShort => [packV 0x29 0 0 0 0 0 0]
  | .vmodeLong => [packV 0x29 0 1 0 0 0 0]
  | .gang width => [packV 0x29 0 width.code 0 0 0 1]
  | .gangrel => [packV 0x29 0 0 0 0 0 2]
  | .vclr d => [packV 0x29 d 0 0 0 0 3]
  | .mcfg a => [packS 0x30 0 a 0 0 0]
  | .mmul n a b => [packS 0x31 0 a b 0 n]
  | .mzero n => [packS 0x31 0 0 0 1 n]
  | .mst n a => [packS 0x31 0 a 0 2 n]
  | .mld n a => [packS 0x31 0 a 0 3 n]
  | .mwait d n => [packS 0x31 d 0 0 4 n]
  | .spawn site imp => [packS 0x34 0 0 0 0 0, site * 2 ^ 16 + imp]
  | .join => [packS 0x34 0 0 0 1 0]
  | .tnew d a b => [packS 0x34 d a b 2 0]
  | .tdep a b => [packS 0x34 0 a b 3 0]
  | .trel a => [packS 0x34 0 a 0 4 0]
  | .tdone => [packS 0x34 0 0 0 5 0]
  | .range d a => [packS 0x34 d a 0 6 0]
  | .yield => [packS 0x34 0 0 0 7 0]
  | .tcancel lev => [packS 0x34 0 0 0 8 lev.code]
  | .tlev d lev => [packS 0x34 d 0 0 9 lev.code]
  | .sol d a b imp scope comb => [packS 0x35 d a b 0 0, imp * 2 ^ 16 + scope.code * 2 ^ 4 + comb.code]
  | .reply a => [packS 0x35 0 a 0 1 0, 0]
  | .kput a b len => [packS 0x35 0 a b 2 0, len]
  | .kdel a b => [packS 0x35 0 a b 3 0, 0]
  | .kmove a b => [packS 0x35 0 a b 4 0, 0]
  | .kfind d a => [packS 0x35 d a 0 5 0, 0]
  | .barinit a b => [packS 0x36 0 a b 0 0]
  | .arrive d a => [packS 0x36 d a 0 1 0]
  | .await a b => [packS 0x36 0 a b 2 0]
  | .barbytes a b => [packS 0x36 0 a b 3 0]
  | .cpy d a b bar tag trap => [packS 0x38 d a b 0 bar, codeOfBool trap * 2 ^ 6 + tag]
  | .cpyrep a bar tag trap => [packS 0x38 0 a 0 1 bar, codeOfBool trap * 2 ^ 6 + tag]
  | .cpystat d tag => [packS 0x38 d 0 0 2 0, tag]
  | .cpykill tag => [packS 0x38 0 0 0 3 0, tag]
  | .put a => [packS 0x39 0 a 0 0 0]
  | .get a => [packS 0x39 0 a 0 1 0]
  | .wpost a b => [packS 0x39 0 a b 2 0]
  | .wkill a => [packS 0x39 0 a 0 3 0]
  | .waitany d a => [packS 0x3A d a 0 0 0]
  | .waitall a => [packS 0x3A 0 a 0 1 0]
  | .ffr d a => [packS 0x3A d a 0 2 0]
  | .tagclr a => [packS 0x3A 0 a 0 3 0]
  | .getc d n => [packS 0x3C d 0 (n / 32) 0 (n % 32)]
  | .setc n a => [packS 0x3C 0 a (n / 32) 1 (n % 32)]
  | .sysc d a n => [packS 0x3C d a (n / 32) 2 (n % 32)]
  | .eret => [packS 0x3C 0 0 0 3 0]
  | .eack => [packS 0x3C 0 0 0 4 0]
  | .park a => [packS 0x3C 0 a 0 5 0]
  | .wake a => [packS 0x3C 0 a 0 6 0]
  | .halt => [packS 0x3C 0 0 0 7 0]
  | .cinst a => [packS 0x3C 0 a 0 8 0]
  | .cdrop a => [packS 0x3C 0 a 0 9 0]
  | .tlbi a b whole => [packS 0x3C 0 a b 10 (codeOfBool whole)]
  | .scrub a b => [packS 0x3C 0 a b 11 0]
  | .powerGovernorSample _ => []
  | .coldReset _ => []
  | .sramWipeDone _ => []
  | .dramWipeDone _ => []
  | .lifeCycleCommand _ _ _ _ => []
  | .trainingComplete _ _ => []
  | .managementRegisterWrite _ _ => []
  | .dikeRecordRevalidate _ _ => []
  | .hostAppend _ _ _ _ => []
  | .bar2PlainWrite _ => []
  | .launchRecordRead _ _ => []
  | .completionRecordWrite _ _ => []
  | .translationCompletion _ _ _ _ _ _ _ _ _ => []
  | .prgResponse _ _ _ => []
  | .prgResponseTimeout _ _ => []
  | .priStoppedClear _ => []
  | .hostReadCompletion _ _ _ _ => []
  | .atsInvalidateRequest _ _ _ _ _ => []
  | .invalidateCompletion _ => []
  | .codeQueueDoorbell _ _ => []
  | .walkerStart _ => []
  | .walkComplete _ _ => []
  | .polderInvalidation _ => []
  | .epochDrained _ => []
  | .sliceRequest _ _ => []
  | .replicaInvalidationDone _ => []
  | .mergingFill _ => []
  | .bankAccess _ _ => []
  | .waitTableResend _ => []
  | .storeBufferSend _ => []
  | .storeAck _ => []
  | .longLatencyFill _ _ => []
  | .farLineSweep _ => []
  | .accumulatorRenewal _ => []
  | .accumulatorRenewalDone _ => []
  | .releaseWritebackDone _ => []
  | .acquireSliceInvalidate _ _ _ => []
  | .acquireComplete _ _ => []
  | .sluicePacketReceive _ _ => []
  | .enrikFlitReceive _ _ _ => []
  | .enrikNakReceive _ _ _ => []
  | .enrikAckTimeout _ _ => []
  | .runPadTimeout _ _ => []
  | .retrainComplete _ _ => []
  | .retrainTimeout _ _ => []
  | .linkKeyInstall _ _ _ _ _ => []
  | .keyRetireSend _ _ => []
  | .keyRetireReceive _ _ => []
  | .runCounterExhausted _ _ => []
  | .timeBeaconSend _ => []
  | .timeBeaconReceive _ _ _ => []
  | .linkDelayMeasure _ _ _ => []
  | .farRequestTimeout _ _ => []
  | .guestReservation _ => []
  | .reservationReply _ => []
  | .reservationExpiry _ => []
  | .migrationDrainDone _ => []
  | .contextPacketArrival _ => []
  | .censusPacketCombine _ => []
  | .combineEntryForward _ => []
  | .putDataPacket _ _ => []
  | .putFinalWrite _ _ => []
  | .getRequestPacket _ _ _ _ => []
  | .getDataPacket _ _ => []
  | .remoteAck _ _ => []
  | .notReadyReply _ _ => []
  | .resendBackoffExpiry _ _ _ => []
  | .remoteAgeStop _ _ => []
  | .channelRecordRefill _ _ => []
  | .loaderSourceAnswer _ _ => []
  | .sourceWaitTimeout _ _ => []
  | .signatureVerified _ _ => []
  | .installRetry _ _ => []
  | .installWaitTimeout _ _ => []
  | .tagReplaceTimeout _ _ => []
  | .vbusParityFailure _ _ => []
  | .laneSwapDone _ => []
  | .patrolScrub _ => []
  | .sleepDepthTimer _ => []
  | .coreWake _ => []
  | .dividerComplete _ => []
  | .sequencerReplayStart _ => []
  | .gangBindDone _ => []
  | .matrixCommandStart _ => []
  | .matrixCommandDone _ => []
  | .copySectorPerformed _ _ _ _ _ _ => []
  | .censusDirectoryProcess _ _ => []
  | .censusReport _ => []
  | .censusCompletionBroadcast _ _ => []
  | .censusSlotFree _ _ => []
  | .kmoveHoldAck _ _ => []
  | .kmoveCommit _ _ => []
  | .slotDispatch _ _ => []
  | .stealRequest _ _ => []
  | .stealRetryTimer _ _ => []
  | .loadTokenVisit _ => []
  | .tokenHoldExpiry _ => []
  | .releaseUnitWalk _ => []
  | .entryAttributeLookup _ _ _ => []
  | .pendingResponderCreate _ => []
  | .responderWiden _ => []
  | .gangDrainTimeout _ => []
  | .gangDrainDone _ => []
  | .jobSwitch _ _ _ => []
  | .polderKillWrite _ _ _ => []
  | .polderSwapWrite _ _ => []
  | .polderResumeWrite _ _ _ => []
  | .inboxPop _ => []
  | .inboxEntryArrival _ => []
  | .pendingInboxWrite _ => []
  | .sendFillArrival _ => []
  | .channelDeadlockSample _ => []
  | .twinSignatureCheck _ _ => []

/-- The bytes of an instruction as memory holds them (R219). -/
def encodeBytes (i : Instr) : List Byte := (encode i).flatMap (leBytes 4)

/-- How many bytes the instruction takes: the advance of the program counter (R219, R220). -/
def Instr.size (i : Instr) : Nat := 4 * (encode i).length

/-- The word `c.addr` receives for a decode fault of this instruction (R243): word 1, or word 2 × 2^32 + word 1. -/
def Instr.wordVal (i : Instr) : Nat :=
  match encode i with
  | [w] => w
  | [w, w2] => w2 * 2 ^ 32 + w
  | _ => 0

/-- The instruction whose bits are `w` in the numbering of spec/opcode_table.json: the words are stored little-endian, the
first lowest, the bits above `nbits` zero, and the bytes go to `decodeBytes`. -/
def decodeTableWord (nbits w : Nat) : Option Instr :=
  match decodeBytes (leBytes 8 (w % 2 ^ nbits)) with
  | .ok i => some i
  | .error _ => none

end Sys2Proof
end

