-- ==== Sys2Proof/Machine/Flags.lean ====
section
/-! DEFINITION. Sys2Proof/Machine/Flags.lean: the integer results of chapter 12 and the conditions of branches. The machine has
no flags register: a comparison is a result (R284) or a branch condition (R226). Results of width `W` are numbers below
2^W; `skeleton` extends them (R284). -/

namespace Sys2Proof.Machine

/-- The operation width that a size selects (R284). -/
def widthOf : Sz → Nat
  | .w => 32
  | _ => 64

/-- The bytes of a size (R224). -/
def szBytes : Sz → Nat
  | .b => 1 | .bs => 1
  | .h => 2 | .hs => 2
  | .w => 4 | .ws => 4
  | .d => 8

/-- A signed size extends what it loads (R224). -/
def szSigned : Sz → Bool
  | .bs => true | .hs => true | .ws => true
  | _ => false

/-- The low `W` bits of an operand. -/
def low (W : Nat) (x : W64) : Nat := x.toNat % 2 ^ W

/-- A number read as a two's complement integer of `W` bits (R264). -/
def sgn (W x : Nat) : Int := if x < 2 ^ (W - 1) then Int.ofNat x else Int.ofNat x - Int.ofNat (2 ^ W)

/-- The `W`-bit code of an integer (R264). -/
def wrap (W : Nat) (x : Int) : Nat := (x % Int.ofNat (2 ^ W)).toNat

/-- Sign extension from bit `S`−1 to 64 bits. -/
def sext64 (S x : Nat) : W64 := BitVec.ofInt 64 (sgn S (x % 2 ^ S))

/-- How a `W`-bit result reaches the 64-bit destination (R284). -/
def skeleton (W r : Nat) : W64 := if W = 32 then sext64 32 r else BitVec.ofNat 64 r

/-- The skeleton of R284 around an operation on `W`-bit numbers. -/
def alu (sz : Sz) (f : Nat → Nat → Nat → Nat) (a b : W64) : W64 :=
  skeleton (widthOf sz) (f (widthOf sz) (low (widthOf sz) a) (low (widthOf sz) b))

/-! ## The functions of R284 on `W`-bit numbers -/

def opAdd (W x y : Nat) : Nat := (x + y) % 2 ^ W
def opSub (W x y : Nat) : Nat := wrap W (Int.ofNat x - Int.ofNat y)
def opMul (W x y : Nat) : Nat := x * y % 2 ^ W
def opMulh (W x y : Nat) : Nat := wrap W (sgn W x * sgn W y / Int.ofNat (2 ^ W))
def opMulhu (W x y : Nat) : Nat := x * y / 2 ^ W
def opSll (W x y : Nat) : Nat := x * 2 ^ (y % W) % 2 ^ W
def opSrl (W x y : Nat) : Nat := x / 2 ^ (y % W)
def opSra (W x y : Nat) : Nat := wrap W (sgn W x / Int.ofNat (2 ^ (y % W)))
def opRol (W x y : Nat) : Nat := (x * 2 ^ (y % W) + x / 2 ^ (W - y % W)) % 2 ^ W
def opRor (W x y : Nat) : Nat := (x / 2 ^ (y % W) + x * 2 ^ (W - y % W)) % 2 ^ W
def opMin (W x y : Nat) : Nat := if sgn W x ≤ sgn W y then x else y
def opMax (W x y : Nat) : Nat := if sgn W x ≤ sgn W y then y else x
def opMinu (_W x y : Nat) : Nat := min x y
def opMaxu (_W x y : Nat) : Nat := max x y
def opSlt (W x y : Nat) : Nat := if sgn W x < sgn W y then 1 else 0
def opSltu (_W x y : Nat) : Nat := if x < y then 1 else 0
def opSeq (_W x y : Nat) : Nat := if x = y then 1 else 0
def opClz (W x _y : Nat) : Nat := if x = 0 then W else W - 1 - x.log2

/-- The index of the lowest set bit below `n`, or `n`. -/
def lowBit : Nat → Nat → Nat
  | 0, _ => 0
  | n + 1, x => if x % 2 = 1 then 0 else lowBit n (x / 2) + 1

/-- The number of set bits among the low `n`. -/
def bitCount : Nat → Nat → Nat
  | 0, _ => 0
  | n + 1, x => x % 2 + bitCount n (x / 2)

def opCtz (W x _y : Nat) : Nat := lowBit W x
def opPopc (W x _y : Nat) : Nat := bitCount W x

/-- The position and the length of a bit field (R286). -/
def fieldOf (W b : Nat) : Nat × Nat := let p := b % 64 % W; (p, min (b / 256 % 128) (W - p))

def opBfx (W x b : Nat) : Nat := let f := fieldOf W b; x / 2 ^ f.1 % 2 ^ f.2

/-- `bfi` into the old destination (R286). -/
def opBfi (W old x b : Nat) : Nat :=
  let f := fieldOf W b
  old - old / 2 ^ f.1 % 2 ^ f.2 * 2 ^ f.1 + x % 2 ^ f.2 * 2 ^ f.1

/-! ## Division (R285) -/

def opDiv (W x y : Nat) : Nat := if y = 0 then 2 ^ W - 1 else wrap W (Int.tdiv (sgn W x) (sgn W y))
def opDivu (W x y : Nat) : Nat := if y = 0 then 2 ^ W - 1 else x / y
def opRem (W x y : Nat) : Nat := if y = 0 then x else wrap W (Int.tmod (sgn W x) (sgn W y))
def opRemu (_W x y : Nat) : Nat := if y = 0 then x else x % y

/-! ## 64-bit functions without the skeleton (R284) -/

def opSext (sz : Sz) (a : W64) : W64 := sext64 (8 * szBytes sz) a.toNat
def opZext (sz : Sz) (a : W64) : W64 := BitVec.ofNat 64 (a.toNat % 2 ^ (8 * szBytes sz))

/-- The shift that `ixa` applies: the size code (R284). -/
def opIxa (sz : Sz) (a b : W64) : W64 := a + b <<< sz.code

/-- The immediates (R233): sign-extended, zero-extended, and shifted by 16 before extension. -/
def simm (imm : BitVec 16) : W64 := imm.signExtend 64
def zimm (imm : BitVec 16) : W64 := imm.setWidth 64
def himm (imm : BitVec 16) : W64 := ((imm.setWidth 32) <<< 16).signExtend 64

/-- `shi` (R287). -/
def opShi (op : ShiftOp) (a : W64) (n : Nat) : W64 :=
  BitVec.ofNat 64 (match op with
    | .sll => opSll 64 a.toNat n
    | .srl => opSrl 64 a.toNat n
    | .sra => opSra 64 a.toNat n
    | .rol => opRol 64 a.toNat n)

/-- Whether a comparing branch is taken (R226); `full` and `empty` look at a state and not at values. -/
def ccHolds (cc : Cc) (a b : W64) : Bool :=
  match cc with
  | .eq => a == b
  | .ne => a != b
  | .lt => a.slt b
  | .ge => !a.slt b
  | .ltu => a.ult b
  | .geu => !a.ult b
  | .full => false
  | .empty => false

/-- A signed displacement in words (R222, R289, R290). -/
def dispBytes {n : Nat} (d : BitVec n) : Int := 4 * d.toInt

end Sys2Proof.Machine
end

