-- ==== Sys2Proof/Machine/Access.lean ====
section
/-! DEFINITION. Sys2Proof/Machine/Access.lean: the fields of identifiers (R16, R20), and reading and replacing one record of
one unit. -/

namespace Sys2Proof.Machine

/-! ## Identifiers (R16) -/

def thrOf (ep : Nat) : Nat := ep / 2
def coreOf (ep : Nat) : Nat := ep / 16
def polOf (ep : Nat) : Nat := ep / 128
def sliceOf (ep : Nat) : Nat := ep / 4096
def stkOf (ep : Nat) : Nat := ep / 2 ^ 20
def pkgOf (ep : Nat) : Nat := ep / 2 ^ 22
def slotNo (ep : Nat) : Nat := ep / 2 % 8
def coreNo (ep : Nat) : Nat := ep / 16 % 8
def polNo (ep : Nat) : Nat := ep / 128 % 32
def sliceNo (ep : Nat) : Nat := ep / 4096 % 256

/-- The polder's index in its stack: slice × 32 + polder (R20), from the polder's key. -/
def polIndex (pol : Nat) : Nat := pol % 8192

/-- The endpoint of a slot of a core. -/
def epOf (core slot : Nat) : Nat := core * 16 + slot * 2

/-- The stack of a core, a polder or a slice key. -/
def stkOfCore (c : Nat) : Nat := c / 2 ^ 16
def stkOfPol (p : Nat) : Nat := p / 2 ^ 13
def stkOfSlice (x : Nat) : Nat := x / 2 ^ 8

/-! ## Records -/

def State.thread (s : State) (k : Nat) : Thread := s.threads.getD k Thread.none
def State.core (s : State) (k : Nat) : Core := s.cores.getD k Core.reset
def State.polder (s : State) (k : Nat) : Polder := s.polders.getD k Polder.reset
def State.slice (s : State) (k : Nat) : Slice := s.slices.getD k Slice.reset
def State.stack (s : State) (k : Nat) : Stack := s.stackRecs.getD k Stack.reset
def State.package (s : State) (k : Nat) : Package := s.packages.getD k Package.reset

def State.setThread (s : State) (k : Nat) (x : Thread) : State := { s with threads := s.threads.insert k x }
def State.setCore (s : State) (k : Nat) (x : Core) : State := { s with cores := s.cores.insert k x }
def State.setPolder (s : State) (k : Nat) (x : Polder) : State := { s with polders := s.polders.insert k x }
def State.setSlice (s : State) (k : Nat) (x : Slice) : State := { s with slices := s.slices.insert k x }
def State.setStack (s : State) (k : Nat) (x : Stack) : State := { s with stackRecs := s.stackRecs.insert k x }
def State.setPackage (s : State) (k : Nat) (x : Package) : State := { s with packages := s.packages.insert k x }

def State.modThread (s : State) (k : Nat) (f : Thread → Thread) : State := s.setThread k (f (s.thread k))
def State.modCore (s : State) (k : Nat) (f : Core → Core) : State := s.setCore k (f (s.core k))
def State.modPolder (s : State) (k : Nat) (f : Polder → Polder) : State := s.setPolder k (f (s.polder k))
def State.modSlice (s : State) (k : Nat) (f : Slice → Slice) : State := s.setSlice k (f (s.slice k))
def State.modStack (s : State) (k : Nat) (f : Stack → Stack) : State := s.setStack k (f (s.stack k))
def State.modPackage (s : State) (k : Nat) (f : Package → Package) : State := s.setPackage k (f (s.package k))

/-- The thread, core, polder and stack of the slot that issues. -/
def State.me (s : State) : Thread := s.thread (thrOf s.cur)
def State.myCore (s : State) : Core := s.core (coreOf s.cur)
def State.myPolder (s : State) : Polder := s.polder (polOf s.cur)
def State.myStack (s : State) : Stack := s.stack (stkOf s.cur)
def State.modMe (s : State) (f : Thread → Thread) : State := s.modThread (thrOf s.cur) f
def State.modMyCore (s : State) (f : Core → Core) : State := s.modCore (coreOf s.cur) f
def State.modMyPolder (s : State) (f : Polder → Polder) : State := s.modPolder (polOf s.cur) f
def State.modMyStack (s : State) (f : Stack → Stack) : State := s.modStack (stkOf s.cur) f

/-- The dike that owns the polder of an endpoint: `c.job` (R26). -/
def State.jobOf (s : State) (ep : Nat) : Nat := (s.polder (polOf ep)).dike

/-- Something leaves the device. (DESIGN CHOICE, log 4.) -/
def State.emit (s : State) (o : Out) : State := { s with out := s.out ++ [o] }

/-- The next access age (R62, R64). (DESIGN CHOICE, log 3.) -/
def State.nextSeq (s : State) : State := { s with seq := s.seq + 1 }

/-- Pod time as a package reads it (R90), in quarter-nanosecond ticks. -/
def State.podTime (s : State) (pkg : Nat) : Nat := (Int.ofNat s.time + (s.package pkg).skew).toNat % 2 ^ 64

/-- Pod time at an endpoint. -/
def State.timeAt (s : State) (ep : Nat) : Nat := s.podTime (pkgOf ep)

/-! ## Fields of records held as bytes -/

/-- `n` bytes of a byte map from an offset, as a little-endian number. -/
def bytesNat (m : SMap Byte) (off n : Nat) : Nat := leNat ((List.range n).map fun i => m.getD (off + i) 0)

/-- Writes bytes into a byte map, zero bytes unlisted. -/
def putBytes (m : SMap Byte) : Nat → List Byte → SMap Byte
  | _, [] => m
  | off, b :: bs => putBytes (m.put 0 off b) (off + 1) bs

/-- A field of the dike record that a stack keeps (R14). -/
def Stack.dike (k : Stack) (d off n : Nat) : Nat := bytesNat k.drec (256 * d + off) n

/-- The record is valid (R14): flags [0], its own number, a partition below the top 8 MiB (R12), and every zero field zero. -/
def Stack.dikeValid (k : Stack) (d : Nat) : Bool :=
  k.dike d 2 1 % 2 == 1 && k.dike d 0 2 == d && decide (1 ≤ d) && k.dike d 2 1 / 8 == 0 && k.dike d 3 1 == 0
    && decide (k.dike d 4 4 < 2 ^ 20) && decide (k.dike d 24 2 + k.dike d 26 2 ≤ 896) && k.dike d 28 4 == 0 && k.dike d 60 4 == 0 && k.dike d 73 3 == 0
    && k.dike d 100 4 == 0 && k.dike d 120 8 == 0 && k.dike d 137 1 == 0 && k.dike d 142 2 == 0 && k.dike d 152 104 == 0

/-- Sets a field of the dike record. -/
def Stack.setDike (k : Stack) (d off : Nat) (bs : List Byte) : Stack :=
  { k with drec := putBytes k.drec (256 * d + off) bs }

/-- A field of a work-queue record (R399). -/
def Stack.queue (k : Stack) (q off n : Nat) : Nat := bytesNat k.wq (32 * q + off) n

/-- Sets a field of a work-queue record. -/
def Stack.setQueue (k : Stack) (q off : Nat) (bs : List Byte) : Stack :=
  { k with wq := putBytes k.wq (32 * q + off) bs }

/-! ## Endpoints (R16, R17, R200) -/

/-- The core is mapped by the fuses of its group (R200, R201). -/
def State.mapped (s : State) (core : Nat) : Bool :=
  let p := s.polder (core / 8)
  let w := if core % 8 < 4 then p.bond0 else p.bond1
  w.getLsbD (34 + core % 4)

/-- An identifier is well formed (R16), and names a mapped core (R200). -/
def State.epWf (s : State) (ep : Nat) : Bool :=
  decide (ep < 2 ^ 32) && decide (sliceNo ep < 160) && ep % 2 == 0 && s.mapped (coreOf ep)

/-- What naming an endpoint raises (R17), for code in `who`: malformed, outside the dike, slot 7 named by job code. -/
def State.epFault (s : State) (who ep : Nat) : Option Nat :=
  if !s.epWf ep then some 0x05
  else if s.jobOf ep ≠ s.jobOf who ∨ s.jobOf who = 0 then some 0x06
  else if slotNo ep = 7 ∧ slotNo who ≠ 7 then some 0x02
  else none

/-- A continuation: bit 37 kind, [36:32] number, [31:0] endpoint (R19). -/
def contOf (kind number ep : Nat) : Nat := kind * 2 ^ 37 + number * 2 ^ 32 + ep

/-- The register a continuation names. -/
def contReg? (c : Nat) : Desig := if c / 2 ^ 37 % 2 = 1 then .v (c / 2 ^ 32 % 32) else .s (c / 2 ^ 32 % 32)

/-- A continuation is malformed (R19). -/
def State.contWf (s : State) (c : Nat) : Bool :=
  decide (c < 2 ^ 38) && !(c / 2 ^ 37 % 2 == 1 && decide (16 ≤ c / 2 ^ 32 % 32))
    && !(c / 2 ^ 37 % 2 == 0 && c / 2 ^ 32 % 32 == 0) && s.epWf (c % 2 ^ 32)

end Sys2Proof.Machine
end

