-- ==== Sys2Proof/Machine/Memory.lean ====
section
/-! DEFINITION. Sys2Proof/Machine/Memory.lean: bytes behind physical addresses, poison, full/empty bits, L2 lines, far lines,
replicas and release signatures (chapters 03 and 07). Memory holds one value for every byte of the pod; a home line or a
replica has no bytes of its own, because a write performs at the home after every replica is gone (R58). A far line does. -/

namespace Sys2Proof.Machine

/-! ## The layout of a physical address (R20) -/

/-- What an offset within a stack names (R20). -/
inductive Region where
  | dram | sram | spad | tcm | control | reserved
  deriving DecidableEq, Repr

/-- The stack of a physical address: package in [55:46], stack in [45:44] (R20). -/
def stkOfPa (pa : Nat) : Nat := pa / 2 ^ 44

/-- The offset within the stack (R20). -/
def offOfPa (pa : Nat) : Nat := pa % 2 ^ 44

def regionOfOff (x : Nat) : Region :=
  if x < 0x00C00000000 then .dram
  else if 0x80000000000 ≤ x ∧ x < 0x80004000000 then .sram
  else if 0x90000000000 ≤ x ∧ x < 0x90014000000 then .spad
  else if 0xA0000000000 ≤ x ∧ x < 0xA0014000000 then .tcm
  else if 0xF0000000000 ≤ x then .control
  else .reserved

def region (pa : Nat) : Region := if pa < 2 ^ 56 then regionOfOff (offOfPa pa) else .reserved

def dramPa (stk off : Nat) : Nat := stk * 2 ^ 44 + off
def sramPa (stk off : Nat) : Nat := stk * 2 ^ 44 + 0x80000000000 + off

/-- A scratchpad byte of a polder key (R20). -/
def spadPa (pol off : Nat) : Nat := stkOfPol pol * 2 ^ 44 + 0x90000000000 + polIndex pol * 0x10000 + off

/-- A TCM byte of a core key (R20). -/
def tcmPa (core off : Nat) : Nat := stkOfCore core * 2 ^ 44 + 0xA0000000000 + core % 2 ^ 16 * 0x2000 + off

/-- The polder whose scratchpad holds the byte, and the core whose TCM holds it. -/
def polOfSpad (pa : Nat) : Nat := stkOfPa pa * 8192 + (offOfPa pa - 0x90000000000) / 0x10000
def coreOfTcm (pa : Nat) : Nat := stkOfPa pa * 65536 + (offOfPa pa - 0xA0000000000) / 0x2000

/-- The home slice and channel of a DRAM offset (R56). -/
def homeSlice (off : Nat) : Nat := off / 256 % 160

/-- The size of the poison granule: the sector, or the word of a TCM or scratchpad (R177). -/
def granuleSize (pa : Nat) : Nat :=
  match region pa with
  | .spad | .tcm => 4
  | _ => 32

def granule (pa : Nat) : Nat := pa / granuleSize pa * granuleSize pa

/-! ## Bytes, poison, full and empty -/

/-- One byte of memory: what it was last written, zero after the wipe (R184). (DESIGN CHOICE, log 90.) -/
def State.byte (s : State) (pa : Nat) : Byte := s.mem.getD pa 0

def State.setByte (s : State) (pa : Nat) (b : Byte) : State := { s with mem := s.mem.put 0 pa b }

def State.bytes (s : State) (pa n : Nat) : List Byte := (List.range n).map fun i => s.byte (pa + i)

def State.setBytes (s : State) : Nat → List Byte → State
  | _, [] => s
  | pa, b :: bs => (s.setByte pa b).setBytes (pa + 1) bs

/-- A number of `n` bytes in memory, little-endian. -/
def State.num (s : State) (pa n : Nat) : Nat := leNat (s.bytes pa n)

/-- Full/empty of the word that holds a byte (R66). -/
def State.wordFull (s : State) (pa : Nat) : Bool := !s.empties.has (pa / 4 * 4)
def State.setFull (s : State) (pa : Nat) : State := { s with empties := s.empties.del (pa / 4 * 4) }
def State.setEmpty (s : State) (pa : Nat) : State := { s with empties := s.empties.add (pa / 4 * 4) }

/-! ## Release signatures (R73) -/

/-- The rows of the hash matrix (R73). -/
def sigRows : List Nat :=
  [0x10081, 0x20102, 0x10204, 0x20408, 0x10810, 0x21020, 0x12040, 0x24080,
   0x18100, 0x30200, 0x30400, 0x20801, 0x11002, 0x22004, 0x14008, 0x28010]

/-- The parity of the low `n` bits. -/
def parity : Nat → Nat → Nat
  | 0, _ => 0
  | n + 1, x => (x % 2 + parity n (x / 2)) % 2

/-- The 16 hash bits of a line (R73). -/
def sigHash (a : Nat) : Nat :=
  (sigRows.zipIdx.map fun r => parity 18 (Nat.land a r.1) * 2 ^ r.2).foldl (· + ·) 0

/-- The four signature bits of a line address (R73). -/
def sigBits (addr : Nat) : List Nat :=
  let h := sigHash (addr / 64 % 2 ^ 18)
  [h % 256, 256 + h / 16 % 256, 512 + h / 256 % 256, 768 + (h % 16 * 16 + h / 4096 % 16)]

/-- The signature of one line. -/
def sigOf (addr : Nat) : BitVec 1024 := (sigBits addr).foldl (fun b i => b ||| (1#1024 <<< i)) 0

/-- The line matches the signature (R73). -/
def sigMatch (b : BitVec 1024) (addr : Nat) : Bool := (sigBits addr).all fun i => b.getLsbD i

/-- Adds a line to a stack's accumulator (R72). -/
def State.accumulate (s : State) (stk addr : Nat) : State :=
  s.modStack stk fun k => { k with acc := { k.acc with sig := k.acc.sig ||| sigOf addr } }

/-- T becomes at least a time (R116, R117, R118, R119). -/
def State.raiseT (s : State) (stk t : Nat) : State :=
  s.modStack stk fun k => { k with acc := { k.acc with t := max k.acc.t t } }

/-! ## L2 lines -/

/-- The key of a device line and of a host line. -/
def devLine (pa : Nat) : Nat := pa / 64
def hostLine (ha : Nat) : Nat := 2 ^ 60 + ha / 64

/-- The slice of a stack that serves a device line: its home, or the proxy for a line homed elsewhere (R56, R69). -/
def proxyDev (stk pa : Nat) : Nat := stk * 256 + homeSlice (offOfPa pa)
def proxyHost (stk ha : Nat) : Nat := stk * 256 + ha / 256 % 160

/-- The slice that holds a line in a stack. -/
def proxyOf (stk line : Nat) : Nat := if line < 2 ^ 60 then proxyDev stk (line * 64) else proxyHost stk ((line - 2 ^ 60) * 64)

def State.line? (s : State) (sl line : Nat) : Option Line := (s.slice sl).lines.find? line
def State.setLine (s : State) (sl line : Nat) (l : Line) : State :=
  s.modSlice sl fun x => { x with lines := x.lines.insert line l }
def State.dropLine (s : State) (sl line : Nat) : State :=
  s.modSlice sl fun x => { x with lines := x.lines.erase line }

/-- A line with nothing valid. -/
def Line.blank (kind : LineKind) : Line :=
  { kind := kind, dir := 0, wv := 0, wd := 0, stamp := 0, sig := none, pins := 0, poison := 0, cover := 0, attr := HostAttr.plain,
    data := 0, used := 0 }

/-- The 256 ns unit of a pod time that a far line's stamp holds (R57). -/
def stampOf (t : Nat) : Nat := t / 1024 % 2 ^ 16

/-- A byte of a far line. -/
def Line.byte (l : Line) (i : Nat) : Byte := (l.data >>> (8 * i)).setWidth 8

def Line.setByte (l : Line) (i : Nat) (b : Byte) : Line :=
  { l with data := (l.data &&& ~~~(0xFF#512 <<< (8 * i))) ||| (b.setWidth 512 <<< (8 * i)) }

/-- The poison bit of the sector that an address of the line lies in (R57). -/
def Line.bad (l : Line) (a : Nat) : Bool := l.poison.getLsbD (a % 64 / 32)

def Line.setBad (l : Line) (a : Nat) (b : Bool) : Line :=
  { l with poison := (l.poison &&& ~~~(1#2 <<< (a % 64 / 32))) ||| (if b then 1#2 <<< (a % 64 / 32) else 0) }

/-- Sector `j` of the line holds only valid words, or some dirty word (R57). -/
def Line.whole (l : Line) (j : Nat) : Bool := l.wv.toNat / 256 ^ j % 256 == 255
def Line.dirty (l : Line) (j : Nat) : Bool := l.wd.toNat / 256 ^ j % 256 != 0

/-- The line of an address in its home slice. -/
def State.homeLine? (s : State) (pa : Nat) : Option Line := s.line? (proxyDev (stkOfPa pa) pa) (devLine pa)

def State.setHomeLine (s : State) (pa : Nat) (l : Line) : State := s.setLine (proxyDev (stkOfPa pa) pa) (devLine pa) l

/-! ## Poison (R173, R177, R178)

`State.poison` holds what the memories themselves carry: the pattern of a DRAM sector, the bits of stack SRAM sectors and of
scratchpad and TCM words. A home line carries the poison of its sectors while it is held; it takes them from the array when it is
allocated, and gives them back when a dirty sector is written. (DEDUCED, log 94.) -/

/-- A byte of a failed channel whose line the home does not hold: reads give poison (R173). -/
def State.deadDram (s : State) (pa : Nat) : Bool :=
  region pa == .dram && (s.slice (proxyDev (stkOfPa pa) pa)).chan.failed && (s.homeLine? pa).isNone

/-- The granule of a byte is poisoned: in the home line, or in the memory itself. -/
def State.poisoned (s : State) (pa : Nat) : Bool :=
  match (if region pa = .dram then s.homeLine? pa else none) with
  | some l => l.bad pa
  | none => s.poison.has (granule pa) || s.deadDram pa

/-- The poison pattern of an array sector, or the poison of any other granule. -/
def State.setPattern (s : State) (g : Nat) (b : Bool) : State :=
  { s with poison := if b then s.poison.add g else s.poison.del g }

/-- Poisons or clears a granule where it is held: in the home line, or in the memory itself. -/
def State.mark (s : State) (pa : Nat) (b : Bool) : State :=
  match (if region pa = .dram then s.homeLine? pa else none) with
  | some l => s.setHomeLine pa (l.setBad pa b)
  | none => s.setPattern (granule pa) b

def State.setPoison (s : State) (pa : Nat) : State := s.mark pa true
def State.clearPoison (s : State) (pa : Nat) : State := s.mark pa false

/-- The lowest poisoned byte of a run (R179). -/
def State.poisonIn (s : State) (pa n : Nat) : Option Nat :=
  ((List.range n).map (pa + ·)).find? fun a => s.poisoned a

/-! ## Error records (R176) -/

/-- A record of R176. -/
def errRecord (time addr kind agent sym attempts flags chan ep : Nat) : List Byte :=
  leBytes 8 time ++ leBytes 8 addr ++ leBytes 1 kind ++ leBytes 1 agent ++ leBytes 1 sym ++ leBytes 1 attempts
    ++ leBytes 2 flags ++ leBytes 2 chan ++ leBytes 4 ep ++ leBytes 4 0

/-- Adds a record to a ring of `n`: the newest overwrites the oldest and the overflow counts (R176, R154). -/
def ringAdd (n : Nat) (log : List (List Byte)) (r : List Byte) : List (List Byte) × Bool :=
  if log.length < n then (log ++ [r], false) else (log.drop 1 ++ [r], true)

/-- The management vector is signalled for records of kinds 2, 5, 6 and 9 (R176); its number is 0 (DESIGN CHOICE, log 9). -/
def State.logSignal (s : State) (stk kind : Nat) : State :=
  if kind = 2 ∨ kind = 5 ∨ kind = 6 ∨ kind = 9 then s.emit (.msix stk 0) else s

/-- An array record (kinds 1, 2, 7), a transfer record (kinds 3 to 6) of a channel, or a record of the SRAM log. -/
def State.logError (s : State) (stk addr kind agent sym attempts flags ep : Nat) : State :=
  let chan := homeSlice (offOfPa addr)
  let t := s.podTime (stk / 4)
  if kind = 8 ∨ kind = 9 ∨ kind = 10 then
    (s.modStack stk fun k =>
      let (log, o) := ringAdd 64 k.sramLog (errRecord t addr kind agent sym attempts flags 0xFFFF ep)
      { k with sramLog := log, sramOvf := if o then k.sramOvf + 1 else k.sramOvf }).logSignal stk kind
  else
    (s.modSlice (stk * 256 + chan) fun x =>
      let r := errRecord t addr kind agent sym attempts flags chan ep
      if kind = 1 ∨ kind = 2 ∨ kind = 7 then
        let (log, o) := ringAdd 64 x.chan.arrayLog r
        { x with chan := { x.chan with
            arrayLog := log, arrayOvf := if o then x.chan.arrayOvf + 1 else x.chan.arrayOvf,
            corrected := if kind = 1 ∧ x.chan.corrected ≠ 0xFFFFFFFF then x.chan.corrected + 1 else x.chan.corrected } }
      else
        let (log, o) := ringAdd 64 x.chan.xferLog r
        { x with chan := { x.chan with xferLog := log, xferOvf := if o then x.chan.xferOvf + 1 else x.chan.xferOvf } }).logSignal stk kind

/-! ## Errors that a read meets (R170, R177, R182, R183) -/

/-- A fault of the array or the vertical bus, not of an SRAM word. -/
def UpsetKind.array : UpsetKind → Bool
  | .symbol => true
  | .symbols => true
  | .lane => true
  | .lost => true
  | _ => false

/-- The armed pair as an upset of its sector; a type-4 injection changes one bit of a sector that its fill makes resident (R183). -/
def Stack.armed (k : Stack) (fresh : Bool) : List Upset :=
  if k.injctl.getLsbD 63 then
    let kind : UpsetKind := match k.injctl.toNat % 8 with
      | 1 => .symbol
      | 2 => .symbols
      | 3 => .lane
      | 4 => if fresh then .bit else .bits
      | _ => .bits
    [{ kind := kind, addr := k.injaddr.toNat / 32 * 32, sel := k.injctl.toNat / 256 % 256, injected := true }]
  else []

/-- The upset meets a read: of its sector, or of its word where a word of an SRAM changed by itself. -/
def Upset.meets (u : Upset) (pa n : Nat) : Bool :=
  let size := if u.injected || u.kind.array then 32 else 4
  decide (u.addr / size * size < pa + n) && decide (pa < u.addr / size * size + size)

/-- The upsets that a read of `n` bytes meets; each is gone by that read, and an armed pair has fired. -/
def State.takeUpsets (s : State) (array fresh : Bool) (pa n : Nat) : List Upset × State :=
  let stk := stkOfPa pa
  let k := s.stack stk
  let met (u : Upset) : Bool := u.kind.array == array && u.meets pa n
  let l := (k.armed fresh ++ k.upsets).filter met
  if l = [] then ([], s)
  else (l, s.modStack stk fun k =>
    { k with upsets := k.upsets.filter fun u => !met u,
             injctl := if l.any (·.injected) then (k.injctl &&& ~~~(1#64 <<< 63)) ||| (1#64 <<< 62) else k.injctl })

/-- A transfer of a channel has passed: its counts of consecutive failures are reset (R172). -/
def State.passTransfer (s : State) (sl : Nat) : State :=
  if (s.slice sl).chan.fails = [] then s else s.modSlice sl fun x => { x with chan := { x.chan with fails := [] } }

/-- The flags of a record: [0] INJECTED, [1] poison pattern written (R176). -/
def upsetFlags (u : Upset) (wrote : Bool) : Nat := (if u.injected then 1 else 0) + (if wrote then 2 else 0)

/-- What one upset does to a read of an array sector that does not hold the pattern: whether it is uncorrectable. A merge or a
scrub then writes the pattern (R175). -/
def State.arrayUpset (s : State) (g agent ep : Nat) (u : Upset) : Bool × State :=
  let stk := stkOfPa g
  match u.kind with
  | .symbol => (false, s.logError stk g 1 agent u.sel 1 (upsetFlags u false) ep)
  | .symbols => (true, s.logError stk g 2 agent u.sel 1 (upsetFlags u (agent == 2 || agent == 4 || agent == 7)) ep)
  | .lost => (true, s)
  | _ => (false, s.logError stk g 3 agent u.sel 2 (upsetFlags u false) ep)

/-- A read of one sector of the array: whether its data is unusable. A failed channel answers with poison and leaves no record,
the pattern leaves one of kind 7 (R170, R173). -/
def State.arraySector (s : State) (g agent ep : Nat) : Bool × State :=
  let sl := proxyDev (stkOfPa g) g
  if (s.slice sl).chan.failed then (true, s)
  else
    let (l, s) := (s.passTransfer sl).takeUpsets true false g 32
    let pattern := s.poison.has g
    let (bad, s) := (l.filter fun u => !pattern || u.kind == .lane || u.kind == .lost).foldl (fun (bad, s) u =>
      let (b, s) := s.arrayUpset g agent ep u
      (bad || b, s)) (false, s)
    if pattern then (true, s.logError (stkOfPa g) g 7 agent 0 1 (if l.any (·.injected) then 1 else 0) ep) else (bad, s)

/-- A read of SRAM words: one wrong bit is corrected, two poison the granule, and each is recorded (R177). -/
def State.sramRead (s : State) (pa n : Nat) (fresh : Bool) (agent ep : Nat) : State :=
  let (l, s) := s.takeUpsets false fresh pa n
  l.foldl (fun s u =>
    if u.kind = .bits then (s.setPoison u.addr).logError (stkOfPa pa) (granule u.addr) 9 agent 0 1 (upsetFlags u false) ep
    else s.logError (stkOfPa pa) (granule u.addr) 8 agent 0 1 (upsetFlags u false) ep) s

/-! ## Home lines and replicas (R58 to R61) -/

/-- Frees a flag line's signature slot (R75). -/
def State.freeSig (s : State) (sl line : Nat) : State :=
  match s.line? sl line with
  | some l =>
    match l.sig with
    | some n => (s.modSlice sl fun x => { x with sigs := x.sigs.erase n }).setLine sl line { l with sig := none }
    | none => s
  | none => s

/-- Removes every replica of a home line and clears dir (R58). -/
def State.invalidateReplicas (s : State) (stk pa : Nat) : State :=
  let sl := proxyDev stk pa
  match s.line? sl (devLine pa) with
  | some l =>
    if l.dir = 0 then s
    else
      let s := (List.range 160).foldl (fun s n => if l.dir.getLsbD n then s.dropLine (stk * 256 + n) (devLine pa) else s) s
      s.setLine sl (devLine pa) { l with dir := 0 }
  | none => s

/-- The word mask of a run of bytes inside a line. -/
def wordMask (pa n : Nat) : BitVec 16 :=
  ((List.range n).map fun i => (pa + i) % 64 / 4).foldl (fun m w => m ||| (1#16 <<< w)) 0

/-- The words that a run of bytes covers only in part. -/
def partMask (pa n : Nat) : BitVec 16 :=
  (if pa % 4 = 0 then 0 else wordMask pa 1) ||| (if (pa + n) % 4 = 0 ∨ n = 0 then 0 else wordMask (pa + n - 1) 1)

/-- The sectors that a run of bytes touches. -/
def sectorsOf (pa n : Nat) : List Nat := (List.range ((pa % 32 + n + 31) / 32)).map fun i => pa / 32 * 32 + 32 * i

/-- The sectors of the line at `pa` come from the array: every word becomes valid, and a sector with invalid words takes the
poison of what was read. A sector whose words are all valid keeps its bit. (DEDUCED, log 94.) -/
def State.fillHome (s : State) (pa agent ep : Nat) : State :=
  let base := pa / 64 * 64
  let s := (List.range 2).foldl (fun s j =>
    let (bad, s) := s.arraySector (base + 32 * j) agent ep
    match s.homeLine? pa with
    | some l => if bad && !l.whole j then s.setHomeLine pa (l.setBad (32 * j) true) else s
    | none => s) s
  let s := match s.homeLine? pa with
    | some l => s.setHomeLine pa { l with wv := 0xFFFF }
    | none => s
  s.sramRead base 64 true agent ep

/-- A home line as a slice allocates it, without its words: the poison of its sectors is known (R59, R181). -/
def State.newHome (s : State) (pa : Nat) : Line :=
  let base := pa / 64 * 64
  { Line.blank .home with
    poison := (if s.poison.has base then 1 else 0) ||| (if s.poison.has (base + 32) then 2 else 0), used := s.seq }

/-- A write that reaches the home of a DRAM line: replicas go, the line's slot is freed, and the home stack's accumulator names the
line (R58, R72, R75). A held line takes the words, after a merging fill of those the write covers in part; otherwise the channel
reads, merges and writes back each sector that the write does not cover, and a failed channel discards the write (R59, R173). -/
def State.homePut (s : State) (pa : Nat) (bs : List Byte) (agent ep : Nat) : State :=
  let stk := stkOfPa pa
  let sl := proxyDev stk pa
  let n := bs.length
  let s := ((s.invalidateReplicas stk pa).freeSig sl (devLine pa)).accumulate stk pa
  match s.homeLine? pa with
  | some l =>
    let s := if l.wv &&& partMask pa n = partMask pa n then s else s.fillHome pa 1 ep
    let s := s.setBytes pa bs
    match s.homeLine? pa with
    | some l => s.setHomeLine pa { l with wv := l.wv ||| wordMask pa n, wd := l.wd ||| wordMask pa n, used := s.seq }
    | none => s
  | none =>
    let s := (sectorsOf pa n).foldl (fun s g =>
      if pa ≤ g ∧ g + 32 ≤ pa + n then s
      else
        let (bad, s) := s.arraySector g agent ep
        if bad && !(s.slice sl).chan.failed then s.setPattern g true else s) s
    if (s.slice sl).chan.failed then s else (s.passTransfer sl).setBytes pa bs

/-! ## Far lines (R61, R69, R76, R178) -/

/-- The dirty words of a far line go to its home, where they merge per word (R61, R69, R72). A poisoned sector leaves its home sector
poisoned, and one that a single store covered clears it (R178, R181). A writeback allocates nothing at the home. (DEDUCED, log 94.) -/
def State.writebackLine (s : State) (stk line : Nat) : State :=
  let sl := proxyOf stk line
  match s.line? sl line with
  | some l =>
    if l.kind = .far ∧ l.wd ≠ 0 then
      let words := (List.range 16).filter fun w => l.wd.getLsbD w
      let s := words.foldl (fun s w =>
        let bs := (List.range 4).map fun i => l.byte (4 * w + i)
        if line < 2 ^ 60 then s.homePut (line * 64 + 4 * w) bs 7 0
        else s.emit (.hostWrite ((line - 2 ^ 60) * 64 + 4 * w) l.attr bs)) s
      let s := if line < 2 ^ 60 then
        (List.range 2).foldl (fun s j =>
          if !l.dirty j then s
          else if l.bad (32 * j) then s.setPoison (line * 64 + 32 * j)
          else if l.cover.getLsbD j then s.clearPoison (line * 64 + 32 * j)
          else s) s
        else s
      let s := s.accumulate stk (if line < 2 ^ 60 then line * 64 else (line - 2 ^ 60) * 64)
      s.setLine sl line { l with wd := 0, cover := 0 }
    else s
  | none => s

/-- Writes a far line back and drops it, unless it is pinned (R63, R76). -/
def State.dropFar (s : State) (stk line : Nat) : State :=
  let sl := proxyOf stk line
  match s.line? sl line with
  | some l => if l.kind = .far ∧ l.pins = 0 then (s.writebackLine stk line).dropLine sl line else s
  | none => s

/-- The far lines of one slice of a stack. -/
def State.farLines (s : State) (sl : Nat) : List Nat :=
  ((s.slice sl).lines.filter fun e => e.2.kind == .far).map (·.1)

/-- Every far line of a stack. -/
def State.allFar (s : State) (stk : Nat) : List Nat := (List.range 160).flatMap fun n => s.farLines (stk * 256 + n)

/-- Step 2 of R74: every dirty far line of the stack is written back. -/
def State.writebackFar (s : State) (stk : Nat) : State := (s.allFar stk).foldl (fun s l => s.writebackLine stk l) s

/-- Drops every far line that a test selects, writing dirty words back first. -/
def State.dropFarIf (s : State) (stk : Nat) (p : Nat → Line → Bool) : State :=
  (s.allFar stk).foldl (fun s line =>
    match s.line? (proxyOf stk line) line with
    | some l => if p line l then s.dropFar stk line else s
    | none => s) s

/-- A far line that a test selects is pinned: whoever drops it waits (R76). -/
def State.farPinned (s : State) (stk : Nat) (p : Nat → Line → Bool) : Bool :=
  (s.allFar stk).any fun line => match s.line? (proxyOf stk line) line with
    | some l => l.pins != 0 && p line l
    | none => false

/-- The stamp is at most the stamp of a time plus 1, counted modulo 2^16 (R75, R118, R119): not more than half the range behind it.
(DESIGN CHOICE, log 95.) -/
def stampOld (t : Nat) (l : Line) : Bool := decide ((stampOf t + 1 + 2 ^ 16 - l.stamp) % 2 ^ 16 < 2 ^ 15)

/-- A home line's dirty sectors are written to the array: whole, or by a read-merge when the line lacks words (R61). A poisoned
sector is written as the pattern, and a failed channel discards the write (R173, R178). -/
def State.writebackHome (s : State) (pa : Nat) : State :=
  match s.homeLine? pa with
  | some l =>
    let sl := proxyDev (stkOfPa pa) pa
    let s := (List.range 2).foldl (fun s j =>
      let g := pa / 64 * 64 + 32 * j
      if !l.dirty j ∨ (s.slice sl).chan.failed then s
      else
        let (bad, s) := if l.whole j then (false, s.passTransfer sl) else s.arraySector g 7 0
        s.setPattern g (l.bad (32 * j) || bad)) s
    s.setHomeLine pa { l with wd := 0 }
  | none => s

/-- The memory of an address is being wiped (R184), or its channel swaps a lane (R172). -/
def State.addrHeld (s : State) (pa : Nat) : Bool :=
  let w := (s.stack (stkOfPa pa)).wiping
  w == 1 || (region pa == .dram && (w != 0 || (s.slice (proxyDev (stkOfPa pa) pa)).chan.holding))

/-- Evicts a line of a slice (R61). -/
def State.evict (s : State) (sl line : Nat) : State :=
  match s.line? sl line with
  | some l =>
    let stk := stkOfSlice sl
    match l.kind with
    | .far => (s.writebackLine stk line).dropLine sl line
    | .replica =>
      let h := proxyDev stk (line * 64)
      let s := match s.line? h line with
        | some hl => s.setLine h line { hl with dir := hl.dir &&& ~~~(1#160 <<< (sl % 256)) }
        | none => s
      s.dropLine sl line
    | .home => (((s.invalidateReplicas stk (line * 64)).freeSig sl line).writebackHome (line * 64)).dropLine sl line
  | none => s

/-- The lines of a line's set: 1,024 sets of 16 ways (R57). -/
def State.waysOf (s : State) (sl line : Nat) : SMap Line := (s.slice sl).lines.filter fun e => e.1 % 1024 == line % 1024

/-- The line is not held, and all 16 ways of its set are pinned: an allocation waits (R61). -/
def State.noRoom (s : State) (sl line : Nat) : Bool :=
  (s.line? sl line).isNone && decide (16 ≤ (s.waysOf sl line).length) && (s.waysOf sl line).all fun e => e.2.pins != 0

/-- Makes room for a line that is not held: the least recently used line of its set without pins leaves a full set (R57, R61). -/
def State.makeRoom (s : State) (sl line : Nat) : State :=
  if (s.line? sl line).isSome ∨ (s.waysOf sl line).length < 16 then s
  else
    match ((s.waysOf sl line).filter fun e => e.2.pins == 0).foldl (fun best e => match best with
        | none => some e
        | some b => if e.2.used < b.2.used then some e else some b) none with
    | some e => s.evict sl e.1
    | none => s

/-- Allocates a line. -/
def State.alloc (s : State) (sl line : Nat) (l : Line) : State := (s.makeRoom sl line).setLine sl line { l with used := s.seq }

/-- Pins or unpins a line for the matrix unit (R76); a line that is not held is allocated without a fetch. -/
def State.pin (s : State) (stk line : Nat) : State :=
  let sl := proxyOf stk line
  let home : Bool := decide (line < 2 ^ 60) && stkOfPa (line * 64) == stk
  match s.line? sl line with
  | some l => s.setLine sl line { l with pins := l.pins + 1 }
  | none =>
    s.alloc sl line { Line.blank (if home then .home else .far) with
      pins := 1, stamp := if home then 0 else stampOf (s.podTime (stk / 4)) }

def State.unpin (s : State) (stk line : Nat) : State :=
  let sl := proxyOf stk line
  match s.line? sl line with
  | some l => s.setLine sl line { l with pins := l.pins - 1 }
  | none => s

/-! ## Reading and writing device memory for an agent of a stack -/

/-- What a read finds: the bytes, and which of them are poisoned. -/
structure Got where
  data : List Byte
  bad : List Nat
  deriving DecidableEq, Repr

/-- The bytes of a run in one line that a sector mask names. -/
def badIn (mask : BitVec 2) (pa n : Nat) : List Nat :=
  ((List.range n).map (pa + ·)).filter fun a => mask.getLsbD (a % 64 / 32)

/-- A read at the home slice (R58 to R60): the sectors that are bad. A held line answers, after a merging fill of words it lacks; a
line that is not held is allocated and filled, or, on a page that is not cached, only read. An agent that finds every way of the set pinned
is answered in that way too. (DESIGN CHOICE, log 63.) -/
def State.homeFetch (s : State) (pa n : Nat) (cached : Bool) (agent ep : Nat) : BitVec 2 × State :=
  let h := proxyDev (stkOfPa pa) pa
  let line := devLine pa
  let held (s : State) : BitVec 2 × State :=
    match s.homeLine? pa with
    | some l => (l.poison, s.setHomeLine pa { l with used := s.seq })
    | none => (0, s)
  match s.homeLine? pa with
  | some l =>
    if l.wv &&& wordMask pa n = wordMask pa n then held (s.sramRead pa n false agent ep) else held (s.fillHome pa 1 ep)
  | none =>
    if cached && !s.noRoom h line then
      let s := s.makeRoom h line
      held ((s.setHomeLine pa (s.newHome pa)).fillHome pa agent ep)
    else
      (sectorsOf pa n).foldl (fun (m, s) g =>
        let (bad, s) := s.arraySector g agent ep
        (if bad then m ||| (1#2 <<< (g % 64 / 32)) else m, s)) (0, s)

/-- The replica that serves a load of the own slice (R58). -/
def State.replica? (s : State) (sl : Option Nat) (pa n : Nat) : Option Line :=
  match sl.bind fun own => s.line? own (devLine pa) with
  | some l => if l.kind = .replica ∧ l.wv &&& wordMask pa n = wordMask pa n then some l else none
  | none => none

/-- A load that the home line of another slice of the stack has served leaves a replica in the own slice: the line's valid words
and its poison bits (R58, R178). -/
def State.installReplica (s : State) (own pa : Nat) : State :=
  let h := proxyDev (stkOfPa pa) pa
  if own = h ∨ s.noRoom own (devLine pa) then s
  else
    let s := s.makeRoom own (devLine pa)
    match s.homeLine? pa with
    | some l =>
      (s.setHomeLine pa { l with dir := l.dir ||| (1#160 <<< (own % 256)) }).setLine own (devLine pa)
        { Line.blank .replica with wv := l.wv, poison := l.poison, used := s.seq }
    | none => s

/-- A read that a replica answers meets the errors of its L2 words: two wrong bits poison the sector, in the replica and at the home
(R177, R183). (DEDUCED, log 94.) -/
def State.replicaRead (s : State) (own : Nat) (l : Line) (pa n agent ep : Nat) : Line × State :=
  let t := s.sramRead pa n false agent ep
  let bits (s : State) : BitVec 2 := match s.homeLine? pa with
    | some h => h.poison
    | none => 0
  let l' := { l with poison := l.poison ||| (bits t &&& ~~~bits s) }
  if l' = l then (l, t) else (l', t.setLine own (devLine pa) l')

/-- Fills the invalid words of a far line from its home (R60, R69): the bytes, and the poison of each sector that lacked words. -/
def State.fillFar (s : State) (line : Nat) (l : Line) (agent ep : Nat) : Line × State :=
  let pa := line * 64
  let (bad, s) := s.homeFetch pa 64 true agent ep
  let l' := (List.range 64).foldl (fun l i => if l.wv.getLsbD (i / 4) then l else l.setByte i (s.byte (pa + i))) l
  let l' := (List.range 2).foldl (fun l' j => if bad.getLsbD j && !l.whole j then l'.setBad (32 * j) true else l') l'
  ({ l' with wv := 0xFFFF }, s)

/-- Bytes of device memory as an agent of `stk` reads them, inside one line (R50). `sl` is the agent's slice when a replica may
serve it or be left there (R58); `bypass` passes every far line and replica (R75). -/
def State.readDev (s : State) (stk : Nat) (sl : Option Nat) (pa n : Nat) (cached bypass : Bool) (agent ep : Nat) : Got × State :=
  if region pa ≠ .dram then
    let s := s.sramRead pa n false agent ep
    ({ data := s.bytes pa n, bad := ((List.range n).map (pa + ·)).filter fun a => s.poisoned a }, s)
  else if stkOfPa pa ≠ stk ∧ cached ∧ !bypass then
    let p := proxyDev stk pa
    let line := devLine pa
    let use (l : Line) (s : State) : Got × State :=
      ({ data := (List.range n).map fun i => l.byte (pa % 64 + i), bad := badIn l.poison pa n },
       s.setLine p line { l with used := s.seq })
    match s.line? p line with
    | some l =>
      if l.wv &&& wordMask pa n = wordMask pa n then use l s
      else
        let (l, s) := s.fillFar line l 1 ep
        use l s
    | none =>
      if s.noRoom p line then
        let (bad, s) := s.homeFetch pa n cached agent ep
        ({ data := s.bytes pa n, bad := badIn bad pa n }, s)
      else
        let (l, s) := (s.makeRoom p line).fillFar line
          { Line.blank .far with stamp := stampOf (s.podTime (stkOfPa pa / 4)) } agent ep
        use l s
  else
    match (if cached && !bypass then s.replica? sl pa n else none) with
    | some l =>
      let (l, s) := s.replicaRead (sl.getD 0) l pa n agent ep
      ({ data := s.bytes pa n, bad := badIn l.poison pa n }, s)
    | none =>
      let (bad, s) := s.homeFetch pa n cached agent ep
      let s := match (if cached && !bypass && stkOfPa pa == stk then sl else none) with
        | some own => s.installReplica own pa
        | none => s
      ({ data := s.bytes pa n, bad := badIn bad pa n }, s)

/-- A store or an engine write at the memory of its bytes, inside one line: a DRAM line that its home does not hold is allocated
there unless the page is not cached (R59). -/
def State.writeOwn (s : State) (pa : Nat) (bs : List Byte) (cached : Bool) (ep : Nat) : State :=
  if region pa ≠ .dram then s.setBytes pa bs
  else
    let h := proxyDev (stkOfPa pa) pa
    let s := if cached ∧ (s.homeLine? pa).isNone ∧ !s.noRoom h (devLine pa) then
        let s := s.makeRoom h (devLine pa)
        s.setHomeLine pa (s.newHome pa)
      else s
    s.homePut pa bs 2 ep

/-- A far line as a store allocates it, without its words (R59, R69). (DEDUCED, log 94.) -/
def State.newFar (s : State) (stk pa : Nat) : Line :=
  { Line.blank .far with
    stamp := stampOf (s.podTime (stk / 4)),
    poison := (if s.poisoned (pa / 64 * 64) then 1 else 0) ||| (if s.poisoned (pa / 64 * 64 + 32) then 2 else 0) }

/-- Words of a line that a write makes valid and dirty. -/
def Line.write (l : Line) (a : Nat) (bs : List Byte) (used : Nat) : Line :=
  let l := bs.zipIdx.foldl (fun l e => l.setByte ((a + e.2) % 64) e.1) l
  { l with wv := l.wv ||| wordMask a bs.length, wd := l.wd ||| wordMask a bs.length, used := used }

/-- Bytes written to device memory by an agent of `stk`, inside one line (R59, R69). A write that covers part of an invalid
word of a far line fills that line first. -/
def State.writeDev (s : State) (stk : Nat) (pa : Nat) (bs : List Byte) (cached bypass : Bool) (ep : Nat) : State :=
  let p := proxyDev stk pa
  let line := devLine pa
  if stkOfPa pa = stk ∨ region pa ≠ .dram ∨ !cached ∨ bypass ∨ s.noRoom p line then s.writeOwn pa bs cached ep
  else
    let s := s.makeRoom p line
    let l := (s.line? p line).getD (s.newFar stk pa)
    let m := partMask pa bs.length
    let (l, s) := if l.wv &&& m = m then (l, s) else s.fillFar line l 1 ep
    s.setLine p line (l.write pa bs s.seq)

/-- Cuts a run of bytes at line boundaries: (address, length, offset in the run). -/
def cutLines : Nat → Nat → Nat → Nat → List (Nat × Nat × Nat)
  | 0, _, _, _ => []
  | fuel + 1, pa, n, k =>
    if n = 0 then []
    else
      let m := min n (64 - pa % 64)
      (pa, m, k) :: cutLines fuel (pa + m) (n - m) (k + m)

/-- Reads a run of any length. -/
def State.readRun (s : State) (stk : Nat) (sl : Option Nat) (pa n : Nat) (cached bypass : Bool) (agent ep : Nat) : Got × State :=
  (cutLines (n / 64 + 2) pa n 0).foldl (fun (g, s) c =>
    let (g2, s) := s.readDev stk sl c.1 c.2.1 cached bypass agent ep
    ({ data := g.data ++ g2.data, bad := g.bad ++ g2.bad }, s)) ({ data := [], bad := [] }, s)

/-- Writes a run of any length. -/
def State.writeRun (s : State) (stk pa : Nat) (bs : List Byte) (cached bypass : Bool) (ep : Nat) : State :=
  (cutLines (bs.length / 64 + 2) pa bs.length 0).foldl
    (fun s c => s.writeDev stk c.1 ((bs.drop c.2.2).take c.2.1) cached bypass ep) s

/-- A sector of a far line that one store covers whole: clear, and its home will be when it is written back (R181). -/
def Line.coverSector (l : Line) (a : Nat) : Line := { l.setBad a false with cover := l.cover ||| (1#2 <<< (a % 64 / 32)) }

/-- Clears the poison of a granule where an agent of `stk` covers it whole: at the home, or in the far line (R181). -/
def State.clearAt (s : State) (stk : Nat) (g : Target) (bypass : Bool) : State :=
  let far (line a : Nat) : State := match s.line? (proxyOf stk line) line with
    | some l => s.setLine (proxyOf stk line) line (l.coverSector a)
    | none => s
  match g with
  | .dev pa cached _ =>
    if stkOfPa pa = stk ∨ region pa ≠ .dram ∨ !cached ∨ bypass ∨ (s.line? (proxyDev stk pa) (devLine pa)).isNone then s.clearPoison pa
    else far (devLine pa) pa
  | .host ha cached _ => if cached ∧ !bypass then far (hostLine ha) ha else s
  | _ => s

/-! ## Whole accesses, piece by piece -/

/-- The device bytes of the pieces. -/
def coveredBytes (ps : List Piece) : List (Nat × Bool) :=
  ps.flatMap fun p => match p.tgt with
    | .dev pa cached _ => (List.range p.len).map fun i => (pa + i, cached)
    | _ => []

/-- The place `i` bytes after a target. -/
def Target.plus (t : Target) (i : Nat) : Target :=
  match t with
  | .dev pa c m => .dev (pa + i) c m
  | .host ha c a => .host (ha + i) c a
  | .kdir off => .kdir (off + i)
  | .census off => .census (off + i)

/-- The size of the granule at a target, when a granule begins there. -/
def Target.granule? : Target → Option Nat
  | .dev pa _ _ => if pa = granule pa then some (granuleSize pa) else none
  | .host ha _ _ => if ha % 32 = 0 then some 32 else none
  | _ => none

/-- The granules that the pieces cover whole (R181). -/
def coveredGranules (ps : List Piece) : List Target :=
  let ts := ps.flatMap fun p => (List.range p.len).map fun i => p.tgt.plus i
  ts.filter fun t => match t.granule? with
    | some n => (List.range n).all fun i => ts.contains (t.plus i)
    | none => false

/-- Bytes of a host line that enter the far line, or leave as posted writes (R50, R69). A write that covers only part of a word that
the far line lacks leaves it, when no merging fill came before. -/
def State.writeHost (s : State) (stk ha : Nat) (bs : List Byte) (cached bypass : Bool) (attr : HostAttr) : State :=
  let line := hostLine ha
  let sl := proxyOf stk line
  let l := (s.line? sl line).getD { Line.blank .far with stamp := stampOf (s.podTime (stk / 4)) }
  let m := partMask ha bs.length
  if cached ∧ !bypass ∧ !s.noRoom sl line ∧ l.wv &&& m = m then
    (s.makeRoom sl line).setLine sl line { l.write ha bs s.seq with attr := attr }
  else (s.dropFar stk line).emit (.hostWrite ha attr bs)

/-- A store's bytes reach their memories (R59, R66, R69, R181); `fill` sets the words full. -/
def State.writePieces (s : State) (stk : Nat) (ps : List Piece) (data : List Byte) (fill bypass : Bool) (ep : Nat) : State :=
  let s := ps.foldl (fun s p =>
    let bs := (data.drop p.lo).take p.len
    match p.tgt with
    | .dev pa cached _ =>
      let s := s.writeRun stk pa bs cached bypass ep
      if fill then (List.range p.len).foldl (fun s i => s.setFull (pa + i)) s else s
    | .host ha cached attr =>
      (cutLines (bs.length / 64 + 2) ha bs.length 0).foldl (fun s c =>
        s.writeHost stk c.1 ((bs.drop c.2.2).take c.2.1) cached bypass attr) s
    | _ => s) s
  (coveredGranules ps).foldl (fun s g => s.clearAt stk g bypass) s

/-- Host bytes of which the far lines of a stack lack none. -/
def State.hostHeld (s : State) (stk ha n : Nat) : Bool :=
  (cutLines (n / 64 + 2) ha n 0).all fun c => match s.line? (proxyOf stk (hostLine c.1)) (hostLine c.1) with
    | some l => l.wv &&& wordMask c.1 c.2.1 == wordMask c.1 c.2.1
    | none => false

/-- Host bytes as the far lines of a stack hold them, with the places of poisoned ones. -/
def State.readHost (s : State) (stk ha n : Nat) : Got :=
  (cutLines (n / 64 + 2) ha n 0).foldl (fun g c => match s.line? (proxyOf stk (hostLine c.1)) (hostLine c.1) with
    | some l =>
      { data := g.data ++ (List.range c.2.1).map fun i => l.byte (c.1 % 64 + i),
        bad := g.bad ++ ((List.range c.2.1).filter fun i => l.bad (c.1 + i)).map (c.2.2 + ·) }
    | none => { g with data := g.data ++ List.replicate c.2.1 0 }) { data := [], bad := [] }

/-- The pieces of an access that lie in host memory and are not held in far lines: they need a host read. -/
def State.hostMissing (s : State) (stk : Nat) (ps : List Piece) : List (Nat × Nat) :=
  ps.zipIdx.flatMap fun e => match e.1.tgt with
    | .host ha cached _ => if cached && s.hostHeld stk ha e.1.len then [] else [(e.2, ha)]
    | _ => []

/-- A 32-byte entry of a polder's keyed-tile directory (R371). -/
def KEnt.bytes (e : KEnt) : List Byte :=
  leBytes 8 e.key.toNat ++ leBytes 8 e.addr.toNat ++ leBytes 4 e.len ++ leBytes 1 e.state ++ leBytes 3 0
    ++ leBytes 8 e.tested.toNat

/-- A 64-byte record of the census window (R372); stacks other than the asker's show the counts as 0. -/
def Census.bytes (c : Census) (stk : Nat) : List Byte :=
  let n (x : Nat) : Nat := if stkOf c.asker = stk then x else 0
  leBytes 8 c.key.toNat ++ leBytes 8 c.arg.toNat ++ leBytes 4 c.asker ++ leBytes 1 c.state
    ++ leBytes 1 c.scope.code ++ leBytes 1 c.comb.code ++ leBytes 1 0 ++ leBytes 4 (n c.expected)
    ++ leBytes 4 (n c.reported) ++ leBytes 4 (n c.spawned) ++ leBytes 4 (n c.done) ++ leBytes 4 (n c.holds.toNat)
    ++ leBytes 4 0 ++ leBytes 8 c.time ++ leBytes 8 0

/-- The bytes of the keyed-tile window of a polder (R9, R371). -/
def State.kdirBytes (s : State) (pol off n : Nat) : List Byte :=
  (List.range n).map fun i =>
    ((((s.polder pol).kdir.getD ((off + i) / 32) KEnt.free).bytes).drop ((off + i) % 32)).headD 0

/-- The bytes of the census window of a dike as a stack shows them (R9, R372). -/
def State.censusBytes (s : State) (dike stk off n : Nat) : List Byte :=
  (List.range n).map fun i =>
    match s.census.find? (dike * 64 + (off + i) / 64) with
    | some c => ((c.bytes stk).drop ((off + i) % 64)).headD 0
    | none => 0

/-- The pieces of an access, read for an agent of endpoint `ep` in stack `stk`. Host pieces come from far lines; `host`
supplies the bytes that a completion brought. -/
def State.readPieces (s : State) (stk ep : Nat) (sl : Option Nat) (ps : List Piece) (bypass : Bool) (agent : Nat)
    (host : List (Nat × List Byte)) : Got × State :=
  ps.zipIdx.foldl (fun (g, s) e =>
    let p := e.1
    match p.tgt with
    | .dev pa cached _ =>
      let (g2, s) := s.readRun stk sl pa p.len cached bypass agent ep
      ({ data := g.data ++ g2.data, bad := g.bad ++ g2.bad.map fun a => p.lo + (a - pa) }, s)
    | .host ha _ _ =>
      match host.find? (·.1 == e.2) with
      | some h => ({ g with data := g.data ++ h.2 }, s)
      | none =>
        let g2 := s.readHost stk ha p.len
        ({ data := g.data ++ g2.data, bad := g.bad ++ g2.bad.map (p.lo + ·) }, s)
    | .kdir off => ({ g with data := g.data ++ s.kdirBytes (polOf ep) off p.len }, s)
    | .census off => ({ g with data := g.data ++ s.censusBytes (s.jobOf ep) stk off p.len }, s)) ({ data := [], bad := [] }, s)

end Sys2Proof.Machine
end

