-- ==== Sys2Proof/Machine/Translate.lean ====
section
/-! DEFINITION. Sys2Proof/Machine/Translate.lean: windows (R8 to R13, R454), page tables and walks (R21 to R28), TLBs (R26) and
the host side (R34 to R36). A translation answers a target, a fault in the order of R25, or what it must wait for. -/

namespace Sys2Proof.Machine

/-- The answer of a translation. -/
inductive XRes where
  | ok (t : Target)
  | fault (cause : Nat)
  | walk
  | host (ua : Nat)
  deriving DecidableEq, Repr

/-- Bits [63:52] all equal bit 51 (R8). -/
def canonical (va : Nat) : Bool := decide (va < 2 ^ 51) || (decide (2 ^ 64 - 2 ^ 51 ≤ va) && decide (va < 2 ^ 64))

/-- The window region (R9). -/
def inWindows (va : Nat) : Bool := decide (0xFFFFFFFFC0000000 ≤ va)

/-- A scratchpad byte is in the spill area of a configured channel (R212). -/
def State.spill (s : State) (pol off : Nat) : Bool :=
  decide (0xC000 ≤ off) && (s.core (pol * 8 + (off - 0xC000) / 0x800)).up != 8

/-- A physical address that no agent may present gets an error reply, which a core raises as `ACCESS` and an engine records (R20). -/
def reachable (pa : Nat) : Bool := region pa != .control && region pa != .reserved

/-- A byte of the dike's partition of stack SRAM, below the top 8 MiB that no job reaches (R12, R14). -/
def State.partition? (s : State) (stk dike x : Nat) : Option Nat :=
  let k := s.stack stk
  let a := 65536 * k.dike dike 24 2 + x
  if x < 65536 * k.dike dike 26 2 ∧ a < 65536 * 896 then some (sramPa stk a) else none

/-- The windows of the core that issues (R9 to R13). `thread` is false for an engine, which never reads the record windows
(R10) and is never roaming. -/
def State.window (s : State) (ep va : Nat) (wr thread : Bool) : XRes :=
  let t := s.thread (thrOf ep)
  let roam := thread && t.roam
  let x := va - 0xFFFFFFFFC0000000
  let dike := s.jobOf ep
  if x < 0x3800000 then
    if roam then .fault 0x0D
    else match s.partition? (stkOf ep) dike x with
      | some pa => .ok (.dev pa false false)
      | none => .fault 0x05
  else if 0x10000000 ≤ x ∧ x < 0x10002000 then
    if wr ∨ !thread then .fault 0x05 else .ok (.kdir (x - 0x10000000))
  else if 0x18000000 ≤ x ∧ x < 0x18001000 then
    if wr ∨ !thread then .fault 0x05 else .ok (.census (x - 0x18000000))
  else if 0x20000000 ≤ x ∧ x < 0x20200000 then
    let off := x - 0x20000000
    let pol := sliceOf ep * 32 + off / 0x10000
    if roam then .fault 0x0D
    else if (s.polder pol).dike ≠ dike then .fault 0x06
    else if s.spill pol (off % 0x10000) then .fault 0x05
    else .ok (.dev (spadPa pol (off % 0x10000)) false false)
  else if 0x30000000 ≤ x ∧ x < 0x30010000 then
    let off := x - 0x30000000
    if roam then .fault 0x0D
    else if s.spill (polOf ep) off then .fault 0x05
    else .ok (.dev (spadPa (polOf ep) off) false false)
  else if 0x38000000 ≤ x ∧ x < 0x38002000 then
    if roam then .fault 0x0D else .ok (.dev (tcmPa (coreOf ep) (x - 0x38000000)) false false)
  else .fault 0x05

/-! ## Page tables (R21 to R23) -/

/-- The low bit of the index of a level, its bits and the table's size (R21). -/
def levelLo : Nat → Nat
  | 3 => 39 | 2 => 30 | 1 => 21 | _ => 16

def levelBits : Nat → Nat
  | 3 => 13 | 2 => 9 | 1 => 9 | _ => 5

/-- The index of a level (R21); addresses are 52 bits. -/
def levelIndex (l va : Nat) : Nat := va / 2 ^ levelLo l % 2 ^ levelBits l

/-- How a walk ends. -/
inductive WalkEnd where
  | leaf (l : Leaf) (pte : Nat)
  | fault (cause : Nat) (err : Option Nat)
  deriving DecidableEq, Repr

/-- A table address must lie in DRAM and be aligned to its table (R23). -/
def tableOk (l addr : Nat) : Bool := region addr == .dram && addr % (8 * 2 ^ levelBits l) == 0

/-- A must-be-zero bit of an entry is set (R22, R23). -/
def entryBits (e : Nat) : Bool := e.testBit 56 || e / 4 % 64 != 0

/-- The leaf of an entry at a level, when it is well formed (R22, R23). -/
def leafOf (l e : Nat) : Option Leaf :=
  let out := e / 256 % 2 ^ 48 * 256
  let bit (n : Nat) : Bool := e.testBit n
  if l = 3 ∨ entryBits e ∨ out % 2 ^ levelLo l ≠ 0 ∨ (!bit 61 && region out != .dram) ∨ (bit 61 && bit 60) then none
  else some { out := out, size := levelLo l, cached := bit 59, mig := bit 60, host := bit 61, pin := bit 62,
              ptrap := bit 63, wr := bit 58 }

/-- What a walk has read: the table entries, as (level, prefix, table address). -/
abbrev Seen := List (Nat × Nat × Nat)

/-- The walk from a level down; it reads each entry at its home L2 (R21 to R23, R27). -/
def State.walkDown (s : State) (va : Nat) : Nat → Nat → Seen → WalkEnd × Seen × State
  | l, table, seen =>
    let pte := table + 8 * levelIndex l va
    match s.readDev (stkOfPa pte) none pte 8 true true 5 0 with
    | ({ bad := _ :: _, .. }, s) => (.fault 0x07 (some pte), seen, s)
    | ({ data := bs, bad := [] }, s) =>
      let e := leNat bs
      match e % 4 with
      | 0 => (.fault 0x04 (if entryBits e then some pte else none), seen, s)
      | 2 =>
        match leafOf l e with
        | some lf => (.leaf lf pte, seen, s)
        | none => (.fault 0x04 (some pte), seen, s)
      | 1 =>
        let next := e / 256 % 2 ^ 48 * 256
        match l with
        | 0 => (.fault 0x04 (some pte), seen, s)
        | l + 1 =>
          if e / 2 ^ 56 = 0 ∧ !entryBits e ∧ tableOk l next then
            s.walkDown va l next ((l, va % 2 ^ 52 / 2 ^ levelLo (l + 1), next) :: seen)
          else (.fault 0x04 (some pte), seen, s)
      | _ => (.fault 0x04 (some pte), seen, s)

/-- The lowest table the walk cache holds for an address: (level, table address) (R26). -/
def Stack.cachedTable (k : Stack) (dike va : Nat) : Option (Nat × Nat) :=
  let hit (l : Nat) := k.wcache.find? fun e => e.1 == dike && e.2.1 == l && e.2.2.1 == va % 2 ^ 52 / 2 ^ levelLo (l + 1)
  match hit 0, hit 1, hit 2 with
  | some e, _, _ => some (0, e.2.2.2)
  | _, some e, _ => some (1, e.2.2.2)
  | _, _, some e => some (2, e.2.2.2)
  | _, _, _ => none

/-- A whole walk for a dike in a stack: the end, and the state after the walk cache, the acc bit (R28) and the walk-error
register (R23) have changed. In stage-one service, or with no root, every translated access is not present (R186). The walk cache is
fully associative and keeps the newest 256 entries: a hit does not renew one. (DESIGN CHOICE, log 96.) -/
def State.walkNow (s : State) (stk dike va : Nat) : WalkEnd × State :=
  let k := s.stack stk
  let root := k.dike dike 8 8
  if root = 0 ∨ k.service ≠ 2 ∨ !k.dikeValid dike then (.fault 0x04 none, s)
  else
    let (l0, t0) := (k.cachedTable dike va).getD (3, root)
    match s.walkDown va l0 t0 [] with
    | (.leaf lf pte, seen, s) =>
      let s := s.modStack stk fun k =>
        { k with wcache := (seen.map (fun e => (dike, e.1, e.2.1, e.2.2)) ++ k.wcache).take 256 }
      let e := s.num pte 8
      let s := if e.testBit 57 then s else s.writeOwn pte (leBytes 8 (e + 2 ^ 57)) true 0
      (.leaf lf pte, s)
    | (.fault c err, _, s) =>
      match err with
      | some a => (.fault c err, s.modStack stk fun k => { k with walkErr := a })
      | none => (.fault c err, s)

/-- A page-table entry that a walk would read lies in memory that is being wiped, or behind a channel that swaps a lane (R172, R184). -/
def State.entriesHeld (s : State) (va : Nat) : Nat → Nat → Bool
  | l, table =>
    let pte := table + 8 * levelIndex l va
    let e := s.num pte 8
    s.addrHeld pte || (match l with
      | 0 => false
      | l + 1 => e % 4 == 1 && s.entriesHeld va l (e / 256 % 2 ^ 48 * 256))

/-- A walk waits. -/
def State.walkHeld (s : State) (stk dike va : Nat) : Bool :=
  let root := (s.stack stk).dike dike 8 8
  root != 0 && s.entriesHeld va 3 root

/-! ## TLBs (R26) -/

def TlbEnt.covers (e : TlbEnt) (dike va : Nat) : Bool := e.dike == dike && e.vpn == va % 2 ^ 52 / 2 ^ e.leaf.size

/-- A hit moves to the front: the order is that of use. -/
def tlbHit (l : List TlbEnt) (dike va : Nat) : Option (TlbEnt × List TlbEnt) :=
  match l.find? (·.covers dike va) with
  | some e => some (e, e :: l.filter (fun x => !x.covers dike va))
  | none => none

/-- A new entry of a polder TLB; the least recently used of 64 leaves (R26). -/
def tlbAdd (l : List TlbEnt) (e : TlbEnt) : List TlbEnt :=
  (e :: l.filter fun x => !(x.dike == e.dike && x.vpn == e.vpn && x.leaf.size == e.leaf.size)).take 64

/-- A new entry of a slice TLB, pinned translations outside replacement up to 256 (R24, R26). Each page size has an array of its own
of 256 sets of 8 ways, so the array of a size holds the 2,048 entries of the table, and the set is the page number modulo 256.
(DESIGN CHOICE, log 10.) -/
def stlbAdd (l : List TlbEnt) (e : TlbEnt) : List TlbEnt :=
  let l := l.filter fun x => !(x.dike == e.dike && x.vpn == e.vpn && x.leaf.size == e.leaf.size)
  if e.leaf.pin ∧ (l.filter (·.kept)).length < 256 then { e with kept := true } :: l
  else
    let same (x : TlbEnt) : Bool := !x.kept && x.leaf.size == e.leaf.size && x.vpn % 256 == e.vpn % 256
    if (l.filter same).length < 8 then { e with kept := false } :: l
    else match (l.filter same).getLast? with
      | some old => { e with kept := false } :: l.filter (· != old)
      | none => { e with kept := false } :: l

/-- The translation cached for a polder, with the TLBs after the use: the polder's, else the slice's, which fills the
polder's. -/
def State.tlbLook (s : State) (pol va : Nat) : Option Leaf × State :=
  let p := s.polder pol
  match tlbHit p.tlb p.dike va with
  | some (e, l) => (some e.leaf, s.setPolder pol { p with tlb := l })
  | none =>
    let sl := pol / 32
    match tlbHit (s.slice sl).stlb p.dike va with
    | some (e, l) =>
      (some e.leaf, (s.modSlice sl fun x => { x with stlb := l }).setPolder pol { p with tlb := tlbAdd p.tlb e })
    | none => (none, s)

/-- The entry of a finished walk goes to the slice TLB and to a polder's TLB. -/
def State.tlbFill (s : State) (pol dike va : Nat) (lf : Leaf) : State :=
  let e : TlbEnt := { dike := dike, vpn := va % 2 ^ 52 / 2 ^ lf.size, leaf := lf, kept := false }
  (s.modSlice (pol / 32) fun x => { x with stlb := stlbAdd x.stlb e }).modPolder pol fun p => { p with tlb := tlbAdd p.tlb e }

/-- Removes the entries that cover an address (R28) or overlap a range (R30). -/
def tlbDrop (l : List TlbEnt) (dike lo hi : Nat) : List TlbEnt :=
  l.filter fun e => !(e.dike == dike && decide (e.vpn * 2 ^ e.leaf.size < hi) && decide (lo < (e.vpn + 1) * 2 ^ e.leaf.size))

/-! ## Host translations (R34 to R36) -/

def AtcEnt.covers (e : AtcEnt) (pasid ua : Nat) : Bool := e.pasid == pasid && decide (e.ua ≤ ua) && decide (ua < e.ua + e.size)

/-- The ATC entry for an access, with the ATC after the use: a write through an entry without W counts as a miss (R36), and a hit
makes the entry the most recently used (R35). -/
def Stack.atcLook (k : Stack) (pasid ua : Nat) (wr : Bool) : Option (AtcEnt × List AtcEnt) :=
  (k.atc.find? fun e => e.covers pasid ua && (if wr then e.w else e.r)).map fun e => (e, e :: k.atc.erase e)

/-- What a leaf gives for an address: the permission and attribute checks of R25 after translation, then the target (R24,
R34, R36). -/
def State.useLeaf (s : State) (stk dike va : Nat) (wr : Bool) (lf : Leaf) : XRes × State :=
  let out := lf.out + va % 2 ^ lf.size
  if wr ∧ !lf.wr then (.fault 0x05, s)
  else if lf.ptrap then (.fault 0x07, s)
  else if lf.host then
    let pasid := (s.stack stk).dike dike 4 4
    if pasid = 0 then (.fault 0x05, s)
    else match (s.stack stk).atcLook pasid out wr with
      | some (e, l) =>
        (.ok (.host (if e.u then out else e.ta + (out - e.ua)) lf.cached { noSnoop := e.n, untranslated := e.u }),
         s.modStack stk fun k => { k with atc := l })
      | none => (.host out, s)
  else (if reachable out then .ok (.dev out lf.cached lf.mig) else .fault 0x05, s)

/-- A translation for a thread (R8 to R13, R25): windows, then the TLBs. -/
def State.xlate (s : State) (ep va : Nat) (wr : Bool) : XRes × State :=
  if !canonical va then (.fault 0x05, s)
  else if inWindows va then (s.window ep va wr true, s)
  else match s.tlbLook (polOf ep) va with
    | (some lf, s) => s.useLeaf (stkOf ep) (s.jobOf ep) va wr lf
    | (none, s) => (.walk, s)

/-- A translation for an agent that waits for its own walk: the copy and put engines, which decode windows against a core
(R454), or an agent of the stack, which has none. -/
def State.xlateAgent (s : State) (stk dike : Nat) (core : Option Nat) (va : Nat) (wr : Bool) : XRes × State :=
  if !canonical va then (.fault 0x05, s)
  else if inWindows va then
    match core with
    | some ep => (s.window ep va wr false, s)
    | none => (.fault 0x05, s)
  else match s.walkNow stk dike va with
    | (.leaf lf _, s) => s.useLeaf stk dike va wr lf
    | (.fault c _, s) => (.fault c, s)

/-- The pieces of `n` bytes from a virtual address, cut at 4 KiB, for an agent; the first byte that fails gives the answer. -/
def State.agentPieces (s : State) (stk dike : Nat) (core : Option Nat) (wr : Bool) :
    Nat → Nat → Nat → Nat → (Except (Nat × Nat × Option Nat) (List Piece)) × State
  | 0, _, _, _ => (.ok [], s)
  | fuel + 1, va, n, lo =>
    if n = 0 then (.ok [], s)
    else
      let m := min n (4096 - va % 4096)
      match s.xlateAgent stk dike core va wr with
      | (.ok t, s) =>
        match s.agentPieces stk dike core wr fuel (va + m) (n - m) (lo + m) with
        | (.ok ps, s) => (.ok ({ lo := lo, len := m, tgt := t } :: ps), s)
        | (.error e, s) => (.error e, s)
      | (.fault c, s) => (.error (c, va, none), s)
      | (.walk, s) => (.error (0x04, va, none), s)
      | (.host ua, s) => (.error (0x12, va, some ua), s)

/-- The far lines of an access leave the stack, as before an atomic (R63, R122); of a pinned one only the dirty words go (R76). -/
def State.dropLines (s : State) (stk : Nat) (ps : List Piece) : State :=
  ps.foldl (fun s p => match p.tgt with
    | .dev pa _ _ => (cutLines (p.len / 64 + 2) pa p.len 0).foldl (fun s c =>
        (s.writebackLine stk (devLine c.1)).dropFar stk (devLine c.1)) s
    | _ => s) s

/-- A system area of a dike with no page table is the stack controller's own: it is held by dike and address. (DESIGN CHOICE, log 97.) -/
def areaKey (dike va : Nat) : Nat := dike * 2 ^ 64 + va

/-- A dike that reaches memory only through windows (R14, R186). -/
def Stack.rootless (k : Stack) (dike : Nat) : Bool := k.dike dike 8 8 == 0

/-- A system area read in the dike's space by an agent of the stack, at its home (R15, R406, R454): the bytes, or the
fault. A host page is `ACCESS` there. -/
def State.sysRead (s : State) (stk dike va n : Nat) : Except (Nat × Nat) (List Byte) × State :=
  if inWindows va ∨ !canonical va then (.error (0x05, va), s)
  else if (s.stack stk).rootless dike then
    (.ok ((List.range n).map fun i => (s.stack stk).areas.getD (areaKey dike (va + i)) 0), s)
  else match s.agentPieces stk dike none false (n / 4096 + 2) va n 0 with
  | (.ok ps, s) =>
    if ps.any fun p => match p.tgt with | .dev _ _ _ => false | _ => true then (.error (0x05, va), s)
    else
      let (g, s) := (s.dropLines stk ps).readPieces stk 0 none ps true 3 []
      match g.bad with
      | b :: _ => (.error (0x07, va + b), s)
      | [] => (.ok g.data, s)
  | (.error (c, a, ua), s) => (.error (if ua.isSome then 0x05 else c, a), s)

/-- A system area written by an agent of the stack. -/
def State.sysWrite (s : State) (stk dike va : Nat) (bs : List Byte) : Except (Nat × Nat) Unit × State :=
  if inWindows va ∨ !canonical va then (.error (0x05, va), s)
  else if (s.stack stk).rootless dike then (.ok (), s.modStack stk fun k => { k with areas := putBytes k.areas (areaKey dike va) bs })
  else match s.agentPieces stk dike none true (bs.length / 4096 + 2) va bs.length 0 with
  | (.ok ps, s) =>
    if ps.any fun p => match p.tgt with | .dev _ _ _ => false | _ => true then (.error (0x05, va), s)
    else (.ok (), (s.dropLines stk ps).writePieces stk ps bs false true 0)
  | (.error (c, a, ua), s) => (.error (if ua.isSome then 0x05 else c, a), s)

end Sys2Proof.Machine
end

