-- ==== Sys2Proof/Machine/Work.lean ====
section
/-! DEFINITION. Sys2Proof/Machine/Work.lean: the shared records of work: fault queues (R47 to R49), faults on system areas
(R15), task control blocks (R404), the ready queue (R409), the levels and their counters (R216, R217, R403). -/

namespace Sys2Proof.Machine

/-! ## The fault queue (R47 to R49) -/

/-- A fault-queue record (R48). (DEDUCED, log 27.) -/
def faultRecord (time va ua ep pc kind cause flags tag prgi resp efn recPa done : Nat) : List Byte :=
  leBytes 8 time ++ leBytes 8 va ++ leBytes 8 ua ++ leBytes 4 ep ++ leBytes 4 pc ++ leBytes 1 kind ++ leBytes 1 cause
    ++ leBytes 2 flags ++ leBytes 2 tag ++ leBytes 2 prgi ++ leBytes 2 resp ++ leBytes 2 efn ++ leBytes 4 0
    ++ leBytes 8 recPa ++ leBytes 8 done

/-- Writes a record to the dike's ring, advances tail, and signals when the ring leaves empty; a full or disabled ring sets
ovf (R47, R48, R49). -/
def State.faultQueue (s : State) (stk dike : Nat) (r : List Byte) : State :=
  let k := s.stack stk
  let ctl := k.dike dike 40 8
  let base := k.dike dike 32 8
  let lsize := ctl / 2 ^ 32 % 32
  let tail := ctl / 2 ^ 16 % 2 ^ 16
  let head := ctl % 2 ^ 16
  let on := ctl / 2 ^ 63 = 1 ∧ 6 ≤ lsize ∧ lsize ≤ 16
  if on ∧ (tail + 1) % 2 ^ lsize ≠ head then
    let s := s.writeRun stk (base / 4096 * 4096 + 64 * tail) r true true 0
    let ctl' := ctl - tail * 2 ^ 16 + (tail + 1) % 2 ^ lsize * 2 ^ 16
    let s := s.modStack stk fun k => k.setDike dike 40 (leBytes 8 ctl')
    if tail = head then s.emit (.msix stk (ctl / 2 ^ 37 % 2 ^ 11)) else s
  else s.modStack stk fun k => k.setDike dike 40 (leBytes 8 (if ctl.testBit 62 then ctl else ctl + 2 ^ 62))

/-- A fault on a system area: dispatch to the dike stops in the stack, a kind-6 record, the management vector (R15). No page request
stands behind the record, and its response code is 0xFFFF. (DESIGN CHOICE, log 99.) -/
def State.sysFault (s : State) (stk dike cause va : Nat) : State :=
  let s := s.modStack stk fun k => { k with dikeStopped := k.dikeStopped.add dike }
  (s.faultQueue stk dike (faultRecord (s.podTime (stk / 4)) va 0 0 0 6 cause 0 0 0 0xFFFF 0 0 0)).emit (.msix stk 0)

/-- A field of a system area; a fault is handled by R15 and reads as 0. -/
def State.sysNum (s : State) (stk dike va n : Nat) : Nat × State :=
  match s.sysRead stk dike va n with
  | (.ok bs, s) => (leNat bs, s)
  | (.error (c, a), s) => (0, s.sysFault stk dike c a)

/-- Sets a field of a system area. -/
def State.sysPut (s : State) (stk dike va : Nat) (bs : List Byte) : State :=
  match s.sysWrite stk dike va bs with
  | (.ok _, s) => s
  | (.error (c, a), s) => s.sysFault stk dike c a

/-! ## Task control blocks (R404) -/

/-- Whether a value is the handle of a TCB of the dike's pool, and its index. -/
def State.tcbIndex (s : State) (stk dike h : Nat) : Option Nat :=
  let b := (s.stack stk).dike dike 48 8
  let n := (s.stack stk).dike dike 56 4
  if b ≤ h ∧ (h - b) % 64 = 0 ∧ (h - b) / 64 < n then some ((h - b) / 64) else none

/-- Where a TCB's entry digest lies: B + 64n + 32i (R404). -/
def State.tcbDigest (s : State) (stk dike h : Nat) : Nat :=
  let b := (s.stack stk).dike dike 48 8
  let n := (s.stack stk).dike dike 56 4
  b + 64 * n + (h - b) / 64 * 32

/-- The lowest-numbered free TCB of the pool (R444; for a responder of R414 DEDUCED, log 11). -/
def State.tcbFree (s : State) (stk dike : Nat) : Option Nat × State :=
  let b := (s.stack stk).dike dike 48 8
  let n := (s.stack stk).dike dike 56 4
  let rec go (fuel i : Nat) (s : State) : Option Nat × State :=
    match fuel with
    | 0 => (none, s)
    | fuel + 1 =>
      match s.sysNum stk dike (b + 64 * i + 3) 1 with
      | (0, s) => (some (b + 64 * i), s)
      | (_, s) => go fuel (i + 1) s
  go n 0 s

/-- What a TCB starts with (R402, R404, R414). -/
structure TcbInit where
  imp : Nat
  prio : Nat
  status : Nat
  counter : Nat
  regs : List Nat
  ltag : Nat
  graph : Nat
  phase : Nat
  responder : Bool
  ranged : Bool
  digest : Nat
  deriving DecidableEq, Repr

/-- The 64 bytes of a new TCB (R404). -/
def TcbInit.bytes (i : TcbInit) : List Byte :=
  leBytes 2 i.imp ++ leBytes 1 i.prio ++ leBytes 1 i.status ++ leBytes 4 i.counter ++ leBytes 8 0
    ++ (List.range 5).flatMap (fun k => leBytes 8 (i.regs.getD k 0)) ++ leBytes 2 i.ltag ++ leBytes 1 i.graph
    ++ leBytes 1 (i.phase + (if i.responder then 16 else 0) + (if i.ranged then 32 else 0)) ++ leBytes 4 0

/-- Writes a new TCB and its digest. -/
def State.tcbWrite (s : State) (stk dike h : Nat) (i : TcbInit) : State :=
  (s.sysPut stk dike h i.bytes).sysPut stk dike (s.tcbDigest stk dike h) (leBytes 32 i.digest)

/-! ## Levels (R216, R217) -/

/-- DESIGN CHOICE, log 25. -/
def memberKey (dike task : Nat) : Nat := dike * 2 ^ 64 + task
def graphKey (dike phase graph : Nat) : Nat := 2 ^ 40 + (dike * 16 + phase) * 256 + graph
def phaseKey (dike phase : Nat) : Nat := 2 ^ 41 + dike * 16 + phase
def jobKey (dike : Nat) : Nat := 2 ^ 42 + dike

def LevelSt.none : LevelSt := { live := 0, closed := false, cancelled := false }
/-- The launch a task counts in; 0 for none. Every accepted record creates a launch of its own (R402), also one whose tag another
live launch of the dike bears. -/
def State.launchOf (s : State) (dike task : Nat) : Nat := s.members.getD (memberKey dike task) 0

/-- DEDUCED, log 86. -/
def State.level (s : State) (k : Nat) : LevelSt := s.levels.getD k LevelSt.none
def State.setLevel (s : State) (k : Nat) (l : LevelSt) : State := { s with levels := s.levels.insert k l }

/-- Whether level `n` (1 launch to 4 job) of a launch, or a level above it, is cancelled (R217, R370). -/
def State.cancelledAt (s : State) (dike lid graph phase n : Nat) : Bool :=
  let launch := match s.launches.find? lid with | some l => l.cancelled | none => false
  (decide (n ≤ 1) && launch) || (decide (n ≤ 2) && (s.level (graphKey dike phase graph)).cancelled)
    || (decide (n ≤ 3) && (s.level (phaseKey dike phase)).cancelled) || (s.level (jobKey dike)).cancelled

/-- Marks a level (R370). -/
def State.cancelLevel (s : State) (dike lid graph phase n : Nat) : State :=
  let mark (k : Nat) : State := s.setLevel k { s.level k with cancelled := true }
  match n with
  | 1 =>
    match s.launches.find? lid with
    | some l => { s with launches := s.launches.insert lid { l with cancelled := true } }
    | none => s
  | 2 => mark (graphKey dike phase graph)
  | 3 => mark (phaseKey dike phase)
  | _ => mark (jobKey dike)

/-- A job starts: its level is there, without phases (R216). (DEDUCED, log 86.) -/
def State.jobStarts (s : State) (dike : Nat) : State :=
  if (s.levels.find? (jobKey dike)).isSome then s else s.setLevel (jobKey dike) LevelSt.none

/-- A phase of a job completes: with the last one the job does, and its mark goes (R216). -/
def State.phaseDone (s : State) (dike : Nat) : State :=
  let j := s.level (jobKey dike)
  if j.live ≤ 1 then { s with levels := s.levels.erase (jobKey dike) } else s.setLevel (jobKey dike) { j with live := j.live - 1 }

/-- A child of a level ends: the counter drops, and a level that reaches zero and is closed passes it on (R216). -/
def State.graphChildDone (s : State) (dike phase graph : Nat) : State :=
  let k := graphKey dike phase graph
  let l := s.level k
  let s := s.setLevel k { l with live := l.live - 1 }
  if l.live = 1 ∧ l.closed then
    let s := { s with levels := s.levels.erase k }
    let p := s.level (phaseKey dike phase)
    let s := s.setLevel (phaseKey dike phase) { p with live := p.live - 1 }
    if p.live = 1 ∧ p.closed then
      { s with levels := s.levels.erase (phaseKey dike phase) }.phaseDone dike
    else s
  else s

/-- The launch completes when its counter reaches zero: its graph loses a child; the record and the vector follow with
COMPLETION_RECORD_WRITE (R216, R403). -/
def State.taskEnded (s : State) (dike lid : Nat) (failed : Bool) (fault : Nat) (ran : Bool) : State :=
  match s.launches.find? lid with
  | some l =>
    let l := { l with live := l.live - 1, run := if ran then l.run + 1 else l.run,
                      failed := if failed then l.failed + 1 else l.failed,
                      fault := if failed ∧ l.fault = 0 then fault else l.fault }
    if l.live ≠ 0 then { s with launches := s.launches.insert lid l }
    else
      let c : Comp := { queue := l.queue, time := s.podTime (l.stk / 4), ltag := l.ltag, status := if l.failed = 0 then 0 else 1,
                        fault := l.fault, failed := l.failed, run := l.run, record := l.record, signal := l.signal,
                        vector := l.vector }
      let s := s.modStack l.stk fun k => { k with comps := k.comps ++ [c] }
      { s with launches := s.launches.erase lid }.graphChildDone dike l.phase l.graph
  | none => s

/-- A new child task of a launch (R216). -/
def State.taskAdded (s : State) (dike lid task : Nat) : State :=
  let s := { s with ended := s.ended.del (memberKey dike task) }
  match s.launches.find? lid with
  | some l => { s with launches := s.launches.insert lid { l with live := l.live + 1 },
                       members := s.members.insert (memberKey dike task) lid }
  | none => { s with members := s.members.erase (memberKey dike task) }

/-! ## The ready queue (R409) -/

/-- Effective priority (R409). -/
def effPrio (now prio release : Nat) : Nat := min 7 (prio + (now - release) / 4000000)

/-- The order of R409. -/
def ReadyEnt.before (now : Nat) (a b : ReadyEnt) : Bool :=
  let ea := effPrio now a.prio a.release
  let eb := effPrio now b.prio b.release
  decide (eb < ea) || (ea == eb && (decide (a.release < b.release) || (a.release == b.release && decide (a.index < b.index))))

/-- The first entry in the order among those a test accepts. -/
def ReadyEnt.first (now : Nat) (p : ReadyEnt → Bool) (l : List ReadyEnt) : Option ReadyEnt :=
  (l.filter p).foldl (fun best e => match best with
    | none => some e
    | some b => if e.before now b then some e else some b) none

/-- Enters a task in a stack's ready queue with TCB status 2, or 4 when its context is saved. -/
def State.makeReady (s : State) (stk dike task release : Nat) (attrs : Option Nat) (saved : Bool) : State :=
  let (prio, s) := s.sysNum stk dike (task + 2) 1
  let s := if saved then s.sysPut stk dike (task + 3) (leBytes 1 4) else s.sysPut stk dike (task + 3) (leBytes 1 2)
  let e : ReadyEnt := { task := task, dike := dike, prio := prio % 8, release := release,
                        index := (s.tcbIndex stk dike task).getD 0, attrs := attrs, polder := none,
                        since := s.podTime (stk / 4), wide := false, saved := saved, ordered := false }
  s.modStack stk fun k => { k with ready := k.ready ++ [e] }

/-- Subtracts 1 from a task's counter by one atomic at the TCB; at 0 the task joins the ready queue (R367, R406). A task that
has been retired does not join it again. -/
def State.releaseOne (s : State) (stk dike task time : Nat) : State :=
  let (c, s) := s.sysNum stk dike (task + 4) 4
  if c = 0 then s
  else
    let s := s.sysPut stk dike (task + 4) (leBytes 4 (c - 1))
    let (st, s) := s.sysNum stk dike (task + 3) 1
    if c = 1 ∧ st = 1 then s.makeReady stk dike task time none false else s

/-- The level identifiers in a TCB: launch tag, graph, phase (R404). -/
def State.tcbLevels (s : State) (stk dike task : Nat) : (Nat × Nat × Nat) × State :=
  let (l, s) := s.sysNum stk dike (task + 56) 2
  let (g, s) := s.sysNum stk dike (task + 58) 1
  let (p, s) := s.sysNum stk dike (task + 59) 1
  ((l, g, p % 16), s)

/-! ## Census packets (R100, R101) -/

/-- The merge of two values (R101). -/
def combine (c : Comb) (a b : W64) : W64 :=
  match c with
  | .addI64 => a + b
  | .maxI64 => if a.sle b then b else a
  | .minI64 => if a.sle b then a else b
  | .orI64 => a ||| b
  | .addF32 => (f32Add (a.setWidth 32) (b.setWidth 32)).setWidth 64
  | .maxF32 => (f32Max (a.setWidth 32) (b.setWidth 32)).setWidth 64
  | .count => 0

/-- A lone value as a merge leaves it: a NaN of the f32 operations is canonical (R268). -/
def combineOne (c : Comb) (a : W64) : W64 :=
  match c with
  | .addF32 | .maxF32 => if 0x7F800000 < a.toNat % 2 ^ 31 then 0x7FC00000 else a
  | _ => a

/-- The merge of values of which either may be missing. -/
def combineOpt (c : Comb) : Option W64 → Option W64 → Option W64
  | none, b => b.map (combineOne c)
  | a, none => a.map (combineOne c)
  | some a, some b => some (combine c a b)

/-- Packets of one census (R100). -/
def CensusPkt.same (a b : CensusPkt) : Bool := a.dike == b.dike && a.slot == b.slot && a.asker == b.asker

/-- Two packets merge: values combine and counts sum (R100). -/
def CensusPkt.merge (a b : CensusPkt) : CensusPkt :=
  { a with val := combineOpt a.comb a.val b.val, done := a.done + b.done, spawned := a.spawned + b.spawned,
           reported := a.reported + b.reported, holds := a.holds + b.holds }

/-- A census packet comes to a node of its route: a slice's router, a sluice, or a package's transit node (R100). (DESIGN CHOICE, log
59.) -/
def State.censusSend (s : State) (slice : Nat) (p : CensusPkt) : State :=
  s.modSlice slice fun x => { x with cin := x.cin ++ [p] }

/-- The key of a census slot of a dike. -/
def censusKey (dike c : Nat) : Nat := dike * 64 + c

/-- A responder counts as done, with a value or none (R376). Its handle stands in the `s5` of its TCB (R375). (DEDUCED, log 60.) -/
def State.responderDone (s : State) (stk slice dike task : Nat) (val : Option W64) : State :=
  let (b, s) := s.sysNum stk dike (task + 59) 1
  if b.testBit 4 then
    let (h, s) := s.sysNum stk dike (task + 48) 8
    let comb := match s.census.find? (censusKey dike (h % 64)) with | some c => c.comb | none => .count
    let s := { s with polders := s.polders.map fun (e : Nat × Polder) =>
      if e.2.dike = dike then (e.1, { e.2 with responders := e.2.responders.filter fun r => r.1 != task }) else e }
    s.censusSend slice { dike := dike, slot := h % 64, asker := h / 2 ^ 32, comb := comb, val := val, done := 1, spawned := 0,
                         reported := 0, holds := 0 }
  else s

/-- The range object of a ranged task frees when it ends (R15): the `s2` of its TCB names it. -/
def State.freeRange (s : State) (stk dike task : Nat) : State :=
  let (b, s) := s.sysNum stk dike (task + 59) 1
  if b.testBit 5 then
    let (obj, s) := s.sysNum stk dike (task + 24) 8
    { s with stackRecs := s.stackRecs.map fun (e : Nat × Stack) =>
        let base := e.2.dike dike 88 8
        if base ≤ obj ∧ obj < base + 32 * e.2.dike dike 96 4 then
          (e.1, { e.2 with ranges := e.2.ranges.del (dike * 2 ^ 32 + (obj - base) / 32) })
        else e }
  else s

/-- A task ends with a status and a fault code: the TCB (R404), its launch (R216), a responder's done count with its value
(R376), and, when its successors are released, the successor list to the slice's release unit with the pod time (R368,
R406). -/
def State.endTask (s : State) (stk slice dike task status fault : Nat) (ran : Bool) (val : Option W64) : State :=
  if task = 0 then s
  else
    let s := (s.responderDone stk slice dike task val).freeRange stk dike task
    let s := s.sysPut stk dike (task + 3) (leBytes 1 status)
    let s := if fault = 0 then s else s.sysPut stk dike (task + 62) (leBytes 1 fault)
    let s := if status = 6 then s
      else
        let (list, s) := s.sysNum stk dike (task + 8) 8
        let s := s.sysPut stk dike (task + 8) (leBytes 8 0)
        if list = 0 then s
        else s.modSlice slice fun x => { x with rel := x.rel ++ [(dike, list, s.podTime (stk / 4))] }
    s.taskEnded dike (s.launchOf dike task) (status != 5) fault ran

/-- A strand ends its task, unless another strand has (R407). (DEDUCED, log 111.) -/
def State.endOnce (s : State) (stk slice dike task status fault : Nat) (val : Option W64) : State :=
  if s.ended.has (memberKey dike task) then s
  else { s with ended := s.ended.add (memberKey dike task) }.endTask stk slice dike task status fault true val

/-- A stack region as a thread carries it: the stack whose area it lies in (R14, R408), and its index. -/
def regionOf (stk r : Nat) : Nat := stk * 2 ^ 32 + r
def regStk (g : Nat) : Nat := g / 2 ^ 32
def regNo (g : Nat) : Nat := g % 2 ^ 32

/-- The address of the context record of a region (R14, R426). -/
def State.ctxAddr (s : State) (dike g : Nat) : Nat := (s.stack (regStk g)).dike dike 80 8 + 4096 * regNo g

/-- A strand of a task leaves its stack region (R407, R408). -/
def State.leaveRegion (s : State) (dike g : Nat) : State :=
  let key := dike * 2 ^ 32 + regNo g
  s.modStack (regStk g) fun k =>
    match k.regions.find? key with
    | some n => { k with regions := if n ≤ 1 then k.regions.erase key else k.regions.insert key (n - 1) }
    | none => k

/-- Another strand uses a region (R408). -/
def State.joinRegion (s : State) (dike g : Nat) : State :=
  let key := dike * 2 ^ 32 + regNo g
  s.modStack (regStk g) fun k => { k with regions := k.regions.insert key (k.regions.getD key 0 + 1) }

end Sys2Proof.Machine
end

