-- ==== Sys2Proof/Machine/Code.lean ====
section
/-! DEFINITION. Sys2Proof/Machine/Code.lean: images, code stores and their directories (chapter 06): what an image's bytes say, what
the loader accepts, which slot an image takes, and how a thread finds the image it names. Digests are the 32 bytes as
they stand in memory, read little-endian. -/

namespace Sys2Proof.Machine

/-! ## Code words -/

/-- The offsets of the first words of a code's instructions (R221); `skip` says that the next word is a second word. -/
def startsFrom : Bool → Nat → List (BitVec 32) → List Nat
  | _, _, [] => []
  | true, off, _ :: ws => startsFrom false (off + 4) ws
  | false, off, w :: ws => off :: startsFrom (twoWords w.toNat) (off + 4) ws

/-- Decoding from offset 0 ends exactly at the code length (R145). -/
def endsWhole : Bool → List (BitVec 32) → Bool
  | skip, [] => !skip
  | true, _ :: ws => endsWhole false ws
  | false, w :: ws => endsWhole (twoWords w.toNat) ws

/-- A code word by its index; 0 past the end. -/
def codeWord (code : List (BitVec 32)) (i : Nat) : Nat := (code.getD i 0).toNat

/-- A target of a transfer is inside the code, a first word, and whole (R221). -/
def targetOk (code : List (BitVec 32)) (off : Nat) : Bool :=
  decide (off < 4 * code.length) && (startsFrom false 0 code).contains off
    && (!twoWords (codeWord code (off / 4)) || decide (off / 4 + 1 < code.length))

/-- The words of every instruction with their offsets. -/
def codeWalk (code : List (BitVec 32)) : List (Nat × Nat × Nat) :=
  (startsFrom false 0 code).map fun off => (off, codeWord code (off / 4), codeWord code (off / 4 + 1))

/-- A call-type instruction's site ordinal and import index; `callm` and `tailm` have no import (R165, R293). -/
def siteOf (w w2 : Nat) : Option (Nat × Option Nat) :=
  match decodeWords w w2 with
  | .ok (.call n imp) => some (n, some imp)
  | .ok (.tail n imp) => some (n, some imp)
  | .ok (.callm _ n) => some (n, none)
  | .ok (.tailm _ n) => some (n, none)
  | .ok (.spawn n imp) => some (n, some imp)
  | _ => none

/-- The import that an instruction names (R145). -/
def importOf (w w2 : Nat) : Option Nat :=
  match decodeWords w w2 with
  | .ok (.call _ imp) => some imp
  | .ok (.tail _ imp) => some imp
  | .ok (.spawn _ imp) => some imp
  | .ok (.sol _ _ _ imp _ _) => some imp
  | _ => none

/-- A `callm` or `tailm` whose `imp` is not 0 (R145). -/
def badImp (w : Nat) : Bool := fld 26 6 w == 0x12 && (fld 3 8 w == 2 || fld 3 8 w == 3) && fld 11 5 w != 0

/-- A plain `ld`, a roam point (R143, R148). -/
def isPlainLd (w w2 : Nat) : Bool :=
  match decodeWords w w2 with
  | .ok (.ld _ _ _ _) => true
  | _ => false

/-- Encodings outside the portable profile (R242). -/
def unportable (w : Nat) : Bool :=
  (fld 26 6 w == 0x29 && decide (fld 0 7 w ≤ 2)) || (fld 26 6 w == 0x27 && fld 0 7 w == 1)
    || (fld 26 6 w == 0x31 && fld 5 6 w == 0 && fld 3 2 w != 0)

/-! ## Images from bytes (R143 to R150) -/

/-- `n` bytes from an offset as a number. -/
def leAt (bs : List Byte) (off n : Nat) : Nat := leNat ((bs.drop off).take n)

/-- `n` 32-bit words from an offset. -/
def wordsAt (bs : List Byte) (off n : Nat) : List (BitVec 32) := (List.range n).map fun i => BitVec.ofNat 32 (leAt bs (off + 4 * i) 4)

/-- Digests from an offset. -/
def digestsAt (bs : List Byte) (off n : Nat) : List Nat := (List.range n).map fun i => leAt bs (off + 32 * i) 32

/-- The number of 256-byte blocks of a stored image (R160). -/
def blocksFor (stored : Nat) : Nat := (stored + 255) / 256

/-- The image of a portable image's bytes, when it passes R145. -/
def parsePortable (digest : Nat) (bs : List Byte) : Option Image :=
  let attrs := leAt bs 2 2
  let clen := leAt bs 8 4
  let nimp := leAt bs 12 2
  let nsite := leAt bs 14 2
  let klen := leAt bs 16 4
  let nroam := leAt bs 20 4
  let code := wordsAt bs 32 (clen / 4)
  let walk := codeWalk code
  let sites := walk.filterMap fun e => (siteOf e.2.1 e.2.2).map fun x => (x.1, x.2.isNone, e.1 + (if twoWords e.2.1 then 8 else 4))
  let roams := if attrs % 2 = 1 then walk.filterMap fun e => if isPlainLd e.2.1 e.2.2 then some e.1 else none else []
  let stored := clen + 32 * nimp + klen + 8 * (nsite + roams.length)
  if 32 ≤ bs.length ∧ leAt bs 0 2 = 1 ∧ attrs < 32 ∧ ¬(attrs / 4 % 4 = 3) ∧ leAt bs 4 4 % 64 = 0 ∧ clen % 4 = 0 ∧ 4 ≤ clen
      ∧ nsite ≤ 1024 ∧ klen % 8 = 0 ∧ leAt bs 24 8 = 0 ∧ bs.length = 32 + clen + 32 * nimp + klen
      ∧ (attrs % 2 = 1 ∨ nroam = 0) ∧ stored ≤ 32768 ∧ endsWhole false code
      ∧ (walk.all fun e => match importOf e.2.1 e.2.2 with | some i => decide (i < nimp) | none => true)
      ∧ sites.length = nsite ∧ ((List.range nsite).all fun i => sites.any fun x => x.1 == i)
      ∧ (sites.all fun x => !x.2.1 || decide (x.1 < 32)) ∧ (attrs % 2 = 0 ∨ roams.length = nroam)
      ∧ (walk.all fun e => !unportable e.2.1 && !badImp e.2.1) then
    let at? (i : Nat) : Nat := match sites.find? fun x => x.1 == i with | some x => x.2.2 | none => 0
    some { digest := digest, tag := 0, transl := false, attrs := attrs, frame := leAt bs 4 4, code := code,
           imports := digestsAt bs (32 + clen) nimp, pool := (bs.drop (32 + clen + 32 * nimp)).take klen,
           sites := ((List.range nsite).map fun i => (at? i, at? i)) ++ roams.map fun o => (o, o),
           nsite := nsite, blocks := blocksFor stored, users := 0, frames := 0, lastUse := 0, pinned := false }
  else none

/-- The image of a translation record, when it is well formed: check 1 of R153. (DEDUCED, log 54.) -/
def parseNative (bs : List Byte) : Option Image :=
  let clen := leAt bs 40 4
  let nent := leAt bs 44 2
  let nimp := leAt bs 48 2
  let nsite := leAt bs 50 2
  let klen := leAt bs 52 4
  let attrs := leAt bs 60 2
  let stored := clen + 32 * nimp + klen + 8 * nent
  let sitesAt := 96 + clen + 32 * nimp + klen
  if 96 ≤ bs.length ∧ leAt bs 46 2 < 2 ∧ leAt bs 62 2 = 0 ∧ leAt bs 68 28 = 0 ∧ clen % 4 = 0 ∧ 4 ≤ clen ∧ klen % 8 = 0
      ∧ attrs < 32 ∧ bs.length = 96 + stored + 64 ∧ stored ≤ 32768 ∧ leAt bs 64 4 ≠ 0 ∧ nsite ≤ 1024
      ∧ (if attrs % 2 = 1 then nsite ≤ nent else nent = nsite) then
    some { digest := leAt bs 0 32, tag := leAt bs 64 4, transl := true, attrs := attrs, frame := leAt bs 56 4,
           code := wordsAt bs 96 (clen / 4), imports := digestsAt bs (96 + clen) nimp,
           pool := (bs.drop (96 + clen + 32 * nimp)).take klen,
           sites := (List.range nent).map fun i => (leAt bs (sitesAt + 8 * i) 4, leAt bs (sitesAt + 8 * i + 4) 4),
           nsite := nsite, blocks := blocksFor stored, users := 0, frames := 0, lastUse := 0, pinned := false }
  else none

/-- The translation's counts agree with a portable image that the loader also holds (R149). -/
def countsAgree (transl portable : List Byte) : Bool :=
  leAt transl 50 2 == leAt portable 14 2 && leAt transl 44 2 == leAt portable 14 2 + leAt portable 20 4

/-- Checks 1 to 5 of R153 on a translation for a digest in a stack: the image, or the reason. The portable header that the loader also holds
is that of a portable image in its stack's code cache. (DESIGN CHOICE, log 106.) -/
def checkNative (k : Stack) (digest : Nat) (bs : List Byte) : Except Nat Image :=
  match parseNative bs with
  | none => .error 7
  | some im =>
    if k.ccache.any (fun c => c.digest == digest && !c.transl && leAt bs 0 32 == digest && !countsAgree bs c.bytes) then .error 7
    else if leAt bs 32 4 ≠ k.model.toNat then .error 1
    else match k.trust.find? fun t => t.key == leAt bs 36 4 with
      | none => .error 2
      | some t => if t.revoked then .error 3 else if im.digest ≠ digest then .error 5 else .ok im

/-- Check 6 of R153; the key's two coordinates stand big-endian (DESIGN CHOICE, log 12). -/
def checkSig (k : Stack) (bs : List Byte) : Bool :=
  match k.trust.find? fun t => t.key == leAt bs 36 4 with
  | none => false
  | some t => verifySig (leBytes 64 t.pub) (bs.take (bs.length - 64)) (bs.drop (bs.length - 64))

/-- The checks of R153 on a portable image. -/
def checkPortable (digest : Nat) (bs : List Byte) : Except Nat Image :=
  if sha256 bs ≠ digest then .error 6
  else match parsePortable digest bs with
    | some im => .ok im
    | none => .error 8

/-! ## The directory of a polder (R160 to R163) -/

/-- The entry of a digest: its slot and image. -/
def Polder.imageOf (p : Polder) (digest : Nat) : Option (Nat × Image) := List.find? (fun e => e.2.digest == digest) p.code

/-- Changes the image of a slot. -/
def State.modImage (s : State) (pol slot : Nat) (f : Image → Image) : State :=
  match (s.polder pol).code.find? slot with
  | some im => s.modPolder pol fun p => { p with code := p.code.insert slot (f im) }
  | none => s

def State.addUser (s : State) (pol slot : Nat) : State := s.modImage pol slot fun im => { im with users := im.users + 1 }
def State.dropUser (s : State) (pol slot : Nat) : State := s.modImage pol slot fun im => { im with users := im.users - 1 }

/-- `frames` saturates above and stays at 0 below (R160). -/
def State.addFrame (s : State) (pol slot : Nat) : State :=
  s.modImage pol slot fun im => { im with frames := min (im.frames + 1) 0xFFFFFFFF }
def State.dropFrame (s : State) (pol slot : Nat) : State := s.modImage pol slot fun im => { im with frames := im.frames - 1 }

/-- Last use becomes the pod time (R160). -/
def State.touchImage (s : State) (pol slot : Nat) : State :=
  s.modImage pol slot fun im => { im with lastUse := s.podTime (pol / 2 ^ 15) }

/-- The victim of R163: users 0, unpinned; frames 0 before others, the oldest use first, the lower slot on a tie. -/
def victim (code : SMap Image) : Option Nat :=
  let c := code.filter fun e => !e.2.pinned && e.2.users == 0
  let pick (l : SMap Image) : Option (Nat × Image) := l.foldl (fun b e => match b with
    | none => some e
    | some x => if e.2.lastUse < x.2.lastUse then some e else some x) none
  match pick (c.filter fun e => e.2.frames == 0) with
  | some e => some e.1
  | none => (pick c).map (·.1)

/-- The lowest free slot (R436). -/
def freeSlot (code : SMap Image) : Option Nat := (List.range 16).find? fun i => (code.find? i).isNone

/-- An image fits: a slot, the unpinned entries below the limit, and free blocks (R162, R163). -/
def fits (lim : Nat) (code : SMap Image) (im : Image) : Bool :=
  (freeSlot code).isSome && (im.pinned || decide ((code.filter fun e => !e.2.pinned).length < lim))
    && decide ((code.map fun e => e.2.blocks).foldl (· + ·) 0 + im.blocks ≤ 256)

/-- Evicts one entry at a time until the image fits or no candidate is left (R163). -/
def makeFit : Nat → Nat → SMap Image → Image → SMap Image
  | 0, _, code, _ => code
  | n + 1, lim, code, im =>
    if fits lim code im then code
    else match victim code with
      | some v => makeFit n lim (code.erase v) im
      | none => code

/-- Installs an image in a polder, when it fits: the lowest free slot, published last (R124, R436). What was evicted stays evicted (R163). -/
def State.install (s : State) (pol : Nat) (im : Image) : Bool × State :=
  let p := s.polder pol
  let code := makeFit 17 p.cslim p.code im
  match (if fits p.cslim code im then freeSlot code else none) with
  | some n => (true, s.setPolder pol { p with code := code.insert n { im with lastUse := s.podTime (pol / 2 ^ 15) } })
  | none => (false, s.setPolder pol { p with code := code })

/-- The 512 bits of a slot's directory entry, as system software reads it through control space (R160). -/
def Polder.entryBits (p : Polder) (slot : Nat) : Nat :=
  match p.code.find? slot with
  | none => slot % 16 * 2 ^ 108
  | some im =>
    im.digest % 2 ^ 256 * 2 ^ 256 + im.lastUse % 2 ^ 64 * 2 ^ 192 + im.tag % 2 ^ 32 * 2 ^ 160 + im.frames % 2 ^ 32 * 2 ^ 128
      + im.users % 2 ^ 16 * 2 ^ 112 + slot % 16 * 2 ^ 108 + (if im.transl then 2 ^ 106 else 0) + (if im.pinned then 2 ^ 105 else 0)
      + 2 ^ 104 + im.blocks % 2 ^ 8 * 2 ^ 96

/-- The code-store slot of the image that a thread executes, or executed last while it has none (R159). -/
def Thread.efnSlot (t : Thread) : Nat := if t.img = 16 then t.was else t.img

/-- An entry leaves the store under a running thread (R169, R416): its threads look for the image again. -/
def State.loseImage (s : State) (pol slot : Nat) : State :=
  let s := s.modPolder pol fun p => { p with code := p.code.erase slot }
  let lose (t : Thread) : Thread :=
    { t with img := if t.img = slot then 16 else t.img, was := if t.img = slot then slot else t.was, runs := t.runs.map fun r => (r.1, if r.2 = slot then 16 else r.2) }
  let saved (l : List Saved) : List Saved := l.map fun x => if polOf x.ep = pol then { x with thr := lose x.thr } else x
  let s := s.modPolder pol fun p => { p with tcache := saved p.tcache }
  let s := s.modStack (stkOfPol pol) fun k => { k with saved := saved k.saved }
  { s with threads := s.threads.map fun e => if e.1 / 64 = pol ∧ e.2.live then (e.1, lose e.2) else e }

/-! ## The stack code cache and the code log (R154, R156) -/

/-- The entries, newest first, up to the first that 7 MiB no longer hold (R155). -/
def cacheFits : Nat → List CacheImg → List CacheImg
  | _, [] => []
  | n, x :: l => if n + x.bytes.length ≤ 7 * 2 ^ 20 then x :: cacheFits (n + x.bytes.length) l else []

/-- Inserts an accepted image, the newest first; the least recently used leave beyond 7 MiB (R155, R156). -/
def cacheInsert (l : List CacheImg) (c : CacheImg) : List CacheImg :=
  let same (x : CacheImg) : Bool := x.digest == c.digest && x.model == c.model && x.tag == c.tag
  let l := match l.find? same with
    | some x => x :: l.filter (fun y => !same y)
    | none => c :: l
  cacheFits 0 l

/-- A record of the code log (R154). -/
def State.codeRecord (s : State) (pol digest source reason key model answer : Nat) : State :=
  let r := leBytes 8 (s.podTime (pol / 2 ^ 15)) ++ leBytes 32 digest ++ leBytes 1 source ++ leBytes 1 reason
    ++ leBytes 2 (polIndex pol) ++ leBytes 4 key ++ leBytes 4 model ++ leBytes 4 answer ++ leBytes 8 0
  s.modStack (stkOfPol pol) fun k =>
    let (log, o) := ringAdd 256 k.codeLog r
    { k with codeLog := log, codeOvf := if o then k.codeOvf + 1 else k.codeOvf }

/-! ## Code faults (R164) -/

/-- A fetch that begins at a source. -/
def Fetch.new (digest : Nat) (tag : Option Nat) (thrs : List Nat) (wanted : Bool) (source since : Nat) : Fetch :=
  { digest := digest, tag := tag, thrs := thrs, wanted := wanted, source := source, since := since, queued := false,
    reply := none, checking := none, rest := [], install := none, ask := 0, orig := (0, 0, 0) }

/-- A thread joins the fetch of a digest, or starts one at source 1 (R155, R164). (DEDUCED, log 53.) -/
def State.requestCode (s : State) (pol thr digest : Nat) (tag : Option Nat) : State :=
  s.modPolder pol fun p =>
    if p.fetches.any fun f => f.digest == digest then
      { p with fetches := p.fetches.map fun f =>
          if f.digest = digest ∧ !f.thrs.contains thr then { f with thrs := f.thrs ++ [thr] } else f }
    else { p with fetches := p.fetches ++ [Fetch.new digest tag [thr] false 1 (s.podTime (pol / 2 ^ 15))] }

/-- How a lookup ends: the slot and the image, a code fault that parks, or a fetch that found nothing (R159, R164). -/
inductive Look where
  | hit (slot : Nat) (im : Image)
  | miss
  | unresolved
  deriving DecidableEq, Repr

/-- Looks a digest up for a thread; `tag` restricts the image (R161, R167). -/
def State.look (s : State) (thr digest : Nat) (tag : Option Nat) : Look × State :=
  let pol := thr / 64
  match (s.polder pol).imageOf digest with
  | some (slot, im) =>
    if tag = none ∨ tag = some im.tag then (.hit slot im, s)
    else if im.pinned ∨ (s.thread thr).prog = .unresolved then (.unresolved, s)
    else (.miss, s.requestCode pol thr digest tag)
  | none =>
    if (s.thread thr).prog = .unresolved then (.unresolved, s)
    else (.miss, s.requestCode pol thr digest tag)

end Sys2Proof.Machine
end

