-- ==== Sys2Proof/Machine/Ops.lean ====
section
/-! DEFINITION. Sys2Proof/Machine/Ops.lean: the named operations of an instruction: registers and their states (R191), channel ends
(R213), parking and retiring, translation with its waits (R27, R37), the inbox (R428), a kill (R199, R432), taking a trap
(R420, R421, R423) and returning from one (R422). Each operation takes what follows it as a function, so that a trap or a park
ends the instruction where it happens. -/

namespace Sys2Proof.Machine

/-- What a meaning answers. -/
abbrev Answer := Host.Outcome State Fault Refusal

/-! ## Registers (R191, R209) -/

/-- A scalar register; `s0` is always full and zero. -/
def Thread.sreg (t : Thread) (n : Nat) : Cell 64 := if n = 0 then Cell.zero 64 else t.s.getD n (Cell.zero 64)
def Thread.vreg (t : Thread) (n : Nat) : Cell 1024 := t.v.getD n (Cell.idle 1024)

/-- A predicate; `p0` is always full with every lane true. -/
def Thread.preg (t : Thread) (n : Nat) : Cell 32 :=
  if n = 0 then { st := .full, val := 0xFFFFFFFF, mark := Option.none } else t.p.getD n (Cell.zero 32)

def Thread.setS (t : Thread) (n : Nat) (c : Cell 64) : Thread := if n = 0 then t else { t with s := t.s.put (Cell.zero 64) n c }
def Thread.setV (t : Thread) (n : Nat) (c : Cell 1024) : Thread := { t with v := t.v.put (Cell.idle 1024) n c }
def Thread.setP (t : Thread) (n : Nat) (c : Cell 32) : Thread := if n = 0 then t else { t with p := t.p.put (Cell.zero 32) n c }

/-- A full register without a mark. -/
def Cell.full {n : Nat} (x : BitVec n) : Cell n := { st := .full, val := x, mark := none }

/-- The designator of R191: kind in bit 5, number below. A predicate takes 64 above its number, a value R191 does not give
(DESIGN CHOICE, log 13). -/
def Desig.code : Desig → Nat
  | .s n => n
  | .v n => 32 + n
  | .p n => 64 + n

def Thread.stOf (t : Thread) : Desig → RegState
  | .s n => (t.sreg n).st
  | .v n => (t.vreg n).st
  | .p n => (t.preg n).st

def Thread.markOf (t : Thread) : Desig → Option Mark
  | .s n => (t.sreg n).mark
  | .v n => (t.vreg n).mark
  | .p n => (t.preg n).mark

/-- Sets a register's state and keeps its bits. -/
def Thread.setSt (t : Thread) (d : Desig) (st : RegState) : Thread :=
  match d with
  | .s n => t.setS n { t.sreg n with st := st }
  | .v n => t.setV n { t.vreg n with st := st }
  | .p n => t.setP n { t.preg n with st := st }

/-- Writes a register: full, with a mark or none. -/
def Thread.put (t : Thread) (d : Desig) (x : RVal) (m : Option Mark) : Thread :=
  match d, x with
  | .s n, .s v => t.setS n { st := .full, val := v, mark := m }
  | .v n, .v v => t.setV n { st := .full, val := v, mark := m }
  | .p n, .p v => t.setP n { st := .full, val := v, mark := m }
  | _, _ => t

def RegState.isOwed : RegState → Bool
  | .owed _ => true
  | _ => false

/-- The 32-bit lanes of a thread's view (R205). -/
def State.lanes (s : State) (thr : Nat) : Nat :=
  if (s.thread thr).long then
    match (s.core (thr / 8)).gang.width with
    | 1 => 16
    | _ => 32
  else 8

/-! ## The record of the slot that issues -/

def State.thr (s : State) : Nat := thrOf s.cur

/-- Stays at the instruction for a reason (R192). -/
def State.park (s : State) (why : Park) : State := s.modMe fun t => { t with wait := why }

/-- Goes to the next instruction (R188); what the instruction carried while parked is over. -/
def State.goto (s : State) (pc : Nat) : State :=
  s.modMe fun t => { t with pc := pc, wait := .no, prog := .none, xfault := none, hgot := [] }
def State.advance (s : State) (size : Nat) : State := s.goto (s.me.pc + size)

/-! ## Channel ends (R211 to R213, R325, R439) -/

/-- The cores upstream and downstream of the core that issues, when the ends are configured. -/
def State.upCore (s : State) : Option Nat := if s.myCore.up < 8 then some (coreOf s.cur / 8 * 8 + s.myCore.up) else none
def State.downCore (s : State) : Option Nat := if s.myCore.down < 8 then some (coreOf s.cur / 8 * 8 + s.myCore.down) else none

/-- The upstream and the downstream channel exist: each side names the other (R211). -/
def State.upLink (s : State) : Bool :=
  match s.upCore with
  | some c => (s.core c).down == coreNo s.cur
  | none => false
def State.downLink (s : State) : Bool :=
  match s.downCore with
  | some c => (s.core c).up == coreNo s.cur
  | none => false

/-- The core downstream of a core. -/
def State.down? (s : State) (core : Nat) : Option Nat := if (s.core core).down < 8 then some (core / 8 * 8 + (s.core core).down) else none

/-- The downstream channel holds 260 entries (R212). -/
def State.downFull (s : State) : Bool :=
  match s.downCore with
  | some c => decide (260 ≤ (s.core c).chan.length)
  | none => true

/-- The oldest entry of the upstream channel. -/
def State.qinHead (s : State) : W64 := s.myCore.chan.headD 0

/-- Any push or pop in a set resets its count (R431). -/
def State.channelMoved (s : State) : State :=
  s.modMyPolder fun p => { p with dead := p.dead.filter fun e => !(e.1.testBit (coreNo s.cur)) }

def State.popQin (s : State) : State := (s.modMyCore fun c => { c with chan := c.chan.drop 1 }).channelMoved

def State.pushQout (s : State) (x : W64) : State :=
  match s.downCore with
  | some c => (s.modCore c fun k => { k with chan := k.chan ++ [x], spilled := k.spilled || decide (4 ≤ k.chan.length) }).channelMoved
  | none => s

/-- The spill area of a core is free again (R212, R325). The entries that it held are gone, and the rules do not place them in it: its bytes
are open. (DESIGN CHOICE, log 108.) -/
def State.freeSpill (s : State) (core : Nat) : State :=
  if (s.core core).spilled then
    ((List.range 256).foldl (fun (s : State) i =>
      s.setBytes (spadPa (core / 8) (0xC000 + core % 8 * 0x800 + 8 * i)) (leBytes 8 (Config.openWord (2 ^ 64 * (i + 1) + s.fresh)).toNat))
      s).modCore core fun k => { k with spilled := false }
  else s

/-! ## Operands ready (R191, R179, R213) -/

/-- What stands between an instruction and its operands, in the order of R191 and R213. -/
inductive Gate where
  | go
  | park (why : Park)
  | illegal (code : Nat)
  | late (m : Mark)
  | roam
  deriving DecidableEq, Repr

/-- A register that the slot's captured block reads is not written before the block is done (R301). -/
def State.blockReads (s : State) (d : Desig) : Bool :=
  match s.myCore.seqr with
  | some b => b.slot == slotNo s.cur && b.reads.has d.code
  | none => false

def State.gate (s : State) (srcs dsts : List Desig) : Gate :=
  let t := s.me
  match (srcs ++ dsts).find? fun d => (t.stOf d).isOwed with
  | some d => .park (.reg d.code)
  | none =>
    if dsts.any s.blockReads then .park .sequencer
    else
    match srcs.find? fun d => t.stOf d == .idle with
    | some d => .illegal d.code
    | none =>
      match srcs.findSome? t.markOf with
      | some m => .late m
      | none =>
        if srcs.contains (.s 28) ∧ t.roam then .roam
        else if srcs.contains (.s 28) ∧ s.myCore.up = 8 then .illegal 28
        else if srcs.contains (.s 28) ∧ (!s.upLink ∨ s.myCore.chan = []) then .park .qin
        else if dsts.contains (.s 29) ∧ t.roam then .roam
        else if dsts.contains (.s 29) ∧ s.myCore.down = 8 then .illegal 29
        else if dsts.contains (.s 29) ∧ (!s.downLink ∨ s.downFull) then .park .qout
        else .go

/-- The value of a scalar source; `qin` shows the oldest entry. -/
def State.sval (s : State) (n : Nat) : W64 := if n = 28 then s.qinHead else (s.me.sreg n).val

/-- Writes a scalar destination: `s0` discards, `qout` pushes (R213, R283). -/
def State.putS (s : State) (n : Nat) (x : W64) : State :=
  if n = 29 then s.pushQout x else s.modMe fun t => t.setS n (Cell.full x)

/-- `qin` pops once, however often it is named (R213). -/
def State.popIf (s : State) (srcs : List Nat) : State := if srcs.contains 28 then s.popQin else s

/-! ## Bytes of an access -/

/-- A number that names one byte: device bytes by physical address, host bytes above 2^64. -/
def Target.key : Target → Nat
  | .dev pa _ _ => pa
  | .host ha _ _ => 2 ^ 64 + ha
  | .kdir off => 2 ^ 66 + off
  | .census off => 2 ^ 67 + off

/-- The keys of an access's bytes with their places in the value. -/
def pieceKeys (ps : List Piece) : List (Nat × Nat) := ps.flatMap fun p => (List.range p.len).map fun i => (p.tgt.key + i, p.lo + i)

/-- The byte that a pending store holds for a key. -/
def StoreEnt.byteAt (e : StoreEnt) (key : Nat) : Option Byte :=
  match (pieceKeys e.pieces).find? fun k => k.1 == key with
  | some k => if e.kind = .clean ∨ e.kind = .inval then none else some (e.data.getD k.2 0)
  | none => none

/-- The pending stores of a slot, youngest first (R64). -/
def Core.pending (c : Core) (slot : Nat) : List StoreEnt := (c.sb.filter fun e => e.slot == slot && e.phase != .performed).reverse

/-- A value with the slot's own pending stores laid over it (R64). -/
def overlay (pend : List StoreEnt) (ps : List Piece) (data : List Byte) : List Byte :=
  (pieceKeys ps).map fun k => match pend.findSome? fun e => e.byteAt k.1 with
    | some b => b
    | none => data.getD k.2 0

/-! ## Traps: recording -/

/-- The cause, `c.addr`, `c.epc`, `c.origin`, `c.efn` and late of a trap (R418). -/
structure TrapInfo where
  cause : Nat
  addr : Nat
  epc : Nat
  origin : Nat
  efn : Nat
  late : Bool
  deriving DecidableEq, Repr

def TrapInfo.bank (i : TrapInfo) : Bank :=
  { cause := BitVec.ofNat 8 i.cause, addr := BitVec.ofNat 64 i.addr, epc := BitVec.ofNat 32 i.epc,
    efn := BitVec.ofNat 4 i.efn, origin := BitVec.ofNat 32 i.origin, user := 0, late := i.late }

/-! ## The inbox (R428) -/

/-- `halt` ends in every slot 7 of a polder (R395). -/
def State.unhalt (s : State) (pol : Nat) : State :=
  (List.range 8).foldl (fun s c =>
    if (s.thread (pol * 64 + c * 8 + 7)).halted then s.modThread (pol * 64 + c * 8 + 7) fun t => { t with halted := false } else s) s

/-- Adds 1 to the undeliverable count, saturating (R423). -/
def State.undeliver (s : State) (pol : Nat) : State :=
  s.modPolder pol fun p => { p with undeliverable := min (p.undeliverable + 1) (2 ^ 64 - 1) }

/-- The polder has entries in the stack's overflow ring. -/
def State.inRing (s : State) (pol : Nat) : Bool := (s.stack (stkOfPol pol)).ovf.any fun e => e.1 == pol

/-- Puts an entry in the inbox or the overflow ring; whether it was accepted (R428). -/
def State.inboxPut (s : State) (pol : Nat) (e : InboxEnt) : Bool × State :=
  let p := s.polder pol
  if !s.inRing pol ∧ p.inbox.length < 16 then
    (true, (s.setPolder pol { p with inbox := p.inbox ++ [e] }).unhalt pol)
  else if (s.stack (stkOfPol pol)).ovf.length < 4096 then
    (true, (s.modStack (stkOfPol pol) fun k => { k with ovf := k.ovf ++ [(pol, e)] }).unhalt pol)
  else (false, s)

/-- The pending entry of the lowest slot. -/
def lowestPend (l : List InboxEnt) : Option InboxEnt :=
  l.foldl (fun b e => match b with
    | none => some e
    | some x => if e.ep < x.ep then some e else some x) none

/-- Writes pending entries while they fit, lowest slot first (R428). -/
def State.drainPend (s : State) (pol : Nat) : Nat → State
  | 0 => s
  | n + 1 =>
    match lowestPend (s.polder pol).pend with
    | none => s
    | some e =>
      match s.inboxPut pol e with
      | (true, s) => (s.modPolder pol fun p => { p with pend := p.pend.erase e }).drainPend pol n
      | (false, s) => s

/-- An entry arrives at a polder. Fills that find no room are discarded and counted, escalations and kill reports become
pending, a `sysc` request is refused (R428). -/
def State.inboxPush (s : State) (pol : Nat) (e : InboxEnt) : Bool × State :=
  let s := s.drainPend pol 16
  let full := (s.polder pol).pend != []
  let (ok, s) := if full then (false, s) else s.inboxPut pol e
  if ok then (true, s)
  else if e.kind = 1 ∨ e.kind = 2 then (true, (s.undeliver pol).emit (.msix (stkOfPol pol) 0))
  else if e.kind = 3 then (false, s)
  else if e.kind = 5 ∧ ((s.polder pol).pend.any fun x => x.kind == 5 && x.ep == e.ep) then (true, s.undeliver pol)
  else (true, (s.modPolder pol fun p => { p with pend := p.pend ++ [e] }).emit (.msix (stkOfPol pol) 0))

/-- An entry of kind 3, 4 or 5 (R428). -/
def mkEnt (kind val val2 ep num time : Nat) : InboxEnt :=
  { kind := kind, val := BitVec.ofNat 64 val, val2 := BitVec.ofNat 64 val2, ep := ep, desig := 0, num := num, time := time,
    cross := false, sent := 0, load := false, mark := none }

/-! ## Gangs (R202, R205, R208, R415) -/

/-- Leaving the long view: registers keep their low 256 bits, predicates their low 8, and their states (R205). -/
def Thread.leaveLong (t : Thread) : Thread :=
  if t.long then
    let t' : Thread := { t with long := false, v := [], p := [] }
    let t' := t.v.foldl (fun u e => u.setV e.1 { e.2 with val := e.2.val &&& BitVec.ofNat 1024 (2 ^ 256 - 1) }) t'
    t.p.foldl (fun u e => u.setP e.1 { e.2 with val := e.2.val &&& 0xFF }) t'
  else t

/-- The donors of a leader for a width code: 1 gang2, 2 gang4 (R202). -/
def donorsOf (core width : Nat) : List Nat := if width = 1 then [core + 1] else [core + 1, core + 2, core + 3]

/-- The core may lead a gang of the width. -/
def leads (core width : Nat) : Bool := if width = 1 then core % 2 == 0 else core % 4 == 0

/-- Releases the gang of a leader (R208): its long slots leave the view, the donors' vector banks are zeroed, and the donors go
back to the scheduler. -/
def State.releaseGang (s : State) (core : Nat) : State :=
  let w := (s.core core).gang.width
  let free : Gang := { width := 0, leader := false, donor := false, reserved := false }
  let s := (List.range 8).foldl (fun s i =>
    if (s.thread (core * 8 + i)).long then s.modThread (core * 8 + i) fun t => t.leaveLong else s) s
  let s := s.modCore core fun c => { c with gang := free }
  if w = 0 then s
  else (donorsOf core w).foldl (fun s d =>
    let s := s.modCore d fun c => { c with gang := free }
    if (s.thread (d * 8 + 7)).live then
      s.modThread (d * 8 + 7) fun t => { t with v := t.v.map fun e => (e.1, { e.2 with val := 0 }) }
    else s) s

/-- The gang tasks of a polder that a test selects hold their donors no longer: the gang is released, and the donors go back to the
scheduler, also when the task never bound them (R208, R415). -/
def State.dropGang (s : State) (pol : Nat) (p : Nat × Nat × Nat → Bool) : State :=
  let gone := (s.polder pol).gangs.filter p
  let s := gone.foldl (fun s g =>
    let s := if (s.core g.2.1).gang.leader then s.releaseGang g.2.1 else s
    (donorsOf g.2.1 g.2.2).foldl (fun s d => s.modCore d fun c => { c with gang := { c.gang with reserved := false } }) s) s
  s.modPolder pol fun x => { x with gangs := x.gangs.filter fun g => !p g }

/-- A gang task has ended. -/
def State.endGang (s : State) (pol task : Nat) : State := if task = 0 then s else s.dropGang pol fun g => g.1 == task

/-! ## A slot is emptied -/

/-- Takes a thread's requests out of the wait tables of the memories that may serve it: its awaits, and its loads too when it
leaves (R67, R380). -/
def State.leaveTables (s : State) (thr : Nat) (loads : Bool) : State :=
  let keep (w : WaitEnt) : Bool := w.thr != thr || (w.load.isSome && !loads)
  let s := s.modPolder (thr / 64) fun p => { p with wait := p.wait.filter keep }
  let s := s.modCore (thr / 8) fun c => { c with wait := c.wait.filter keep }
  let s := s.modStack (stkOfPol (thr / 64)) fun k => { k with sramWait := k.sramWait.map fun e => (e.1, e.2.filter keep) }
  { s with slices := s.slices.map fun e => (e.1, { e.2 with wait := e.2.wait.filter keep }) }

/-- The number of no thread: what a host answer names once its thread has left. -/
def noThread : Nat := 2 ^ 64

/-- A thread leaves its slot: nothing that waits for it names it any more. (DEDUCED, log 66.) -/
def State.forget (s : State) (thr : Nat) : State :=
  let pol := thr / 64
  let core := thr / 8
  let stk := stkOfPol pol
  let s := s.modPolder pol fun p =>
    { p with fetches := p.fetches.map fun f => { f with thrs := f.thrs.erase thr },
             exch := match p.exch.find? (core % 8) with
               | some e => if e.slot = thr % 8 then p.exch.erase (core % 8) else p.exch
               | none => p.exch }
  let s := s.leaveTables thr true
  s.modStack stk fun k =>
    { k with walks := k.walks.map fun w => { w with thrs := w.thrs.erase thr },
             walkq := k.walkq.map fun w => { w with thrs := w.thrs.erase thr },
             hreqs := k.hreqs.map fun h => { h with thrs := h.thrs.filter fun x => x.1 != thr },
             hwaitq := k.hwaitq.map fun h => { h with thrs := h.thrs.filter fun x => x.1 != thr },
             acqs := k.acqs.filter fun a => a.thr != thr,
             hreads := k.hreads.map fun h => if h.thr = thr then { h with thr := noThread } else h }

/-- The slot is free. -/
def State.freeSlot (s : State) (thr : Nat) : State := (s.forget thr).setThread thr Thread.none

/-- The key of a task's kept region and kill count (R432, R446). -/
def keptKey (dike task : Nat) : Nat := dike * 2 ^ 64 + task

/-- A core's turn at the matrix unit ends early when its queue is empty (R359). -/
def State.turnEnds (s : State) (core : Nat) : State :=
  if (s.core core).mq = [] then
    s.modPolder (core / 8) fun p =>
      if p.turn = core % 8 ∧ 0 < p.budget then { p with turn := (core % 8 + 1) % 8, budget := 0 } else p
  else s

/-- Drops everything of a slot that a kill discards: results in flight, divisions, its block, matrix commands that have not
started, deque entries, image users (R199, R302, R361, R365, R161). -/
def State.discardSlot (s : State) (thr : Nat) : State :=
  let t := s.thread thr
  let pol := thr / 64
  let slot := thr % 8
  let dead := (s.core (thr / 8)).mq.filter fun e => e.slot == slot && !e.started
  let s := (dead.flatMap fun e => e.pins).foldl (fun s l => s.unpin (stkOfPol pol) l) s
  let s := s.modCore (thr / 8) fun c =>
    { c with divq := c.divq.filter fun e => e.slot != slot,
             seqr := match c.seqr with
               | some b => if b.slot = slot then none else c.seqr
               | none => none,
             mq := c.mq.filter fun e => e.slot != slot || e.started,
             deque := c.deque.filter fun e => e.slot != slot,
             mcfgBusy := if c.mcfgBusy = some slot then none else c.mcfgBusy }
  let s := s.turnEnds (thr / 8)
  (t.runs.map fun r => r.2).foldl (fun s i => s.dropUser pol i) (s.dropUser pol t.img)

/-- A kill with a cause and the value its report carries (R199, R432, R365): the slot's bank is gone, its results are discarded, a kill report goes to the inbox, and
the task fails or is created again when its entry image carries `.attr retry` and it was killed at most three times before. -/
def State.killWith (s : State) (thr cause val : Nat) : State :=
  let t := s.thread thr
  let pol := thr / 64
  let stk := stkOfPol pol
  let ep := thr * 2
  let dike := (s.polder pol).dike
  let task := t.task.toNat
  let s := t.deferred.foldl (fun s _ => s.undeliver pol) s
  let s := ((s.discardSlot thr).freeSlot thr).endGang pol task
  let s := (s.inboxPush pol (mkEnt 5 val 0 ep cause (s.timeAt ep))).2
  if task = 0 then s
  else if t.attrs.testBit 1 ∧ t.kills < 3 then
    let s := s.sysPut stk dike (s.ctxAddr dike (t.region.getD 0) + 45) (leBytes 1 (t.kills + 1))
    let s := (s.sysPut stk dike (task + 3) (leBytes 1 1)).sysPut stk dike (task + 4) (leBytes 4 1)
    s.modStack stk fun k => { k with kept := k.kept.insert (keptKey dike task) (t.region.getD 0, t.kills + 1) }
  else
    let s := match t.region with | some g => s.leaveRegion dike g | none => s
    let s := s.modStack stk fun k => { k with kept := k.kept.erase (keptKey dike task) }
    s.endOnce stk (pol / 32) dike task 6 cause none

/-- A kill whose report carries no value. -/
def State.kill (s : State) (thr cause : Nat) : State := s.killWith thr cause 0

/-! ## Escalation (R423) -/

/-- The thread waits for the system slot; its banks stay as they are. -/
def State.escalate (s : State) (cause addr record : Nat) : State :=
  let t := s.me
  let s := s.modMe fun t =>
    { t with escal := some { cause := cause, epc := t.pc, addr := addr, record := record }, entry := none, wait := .no,
             prog := .none, xfault := none, hgot := [] }
  (s.inboxPush (polOf s.cur) (mkEnt 4 addr t.pc s.cur cause (s.timeAt s.cur))).2

/-- A fault inside an entry: the level being entered has ack = 0 (R421). -/
def State.entryFault (s : State) (cause addr : Nat) : State :=
  if s.me.esc then s.kill s.thr 0x10 else s.escalate cause addr 0

/-! ## Translation of a thread's access (R25 to R28, R37) -/

/-- The page of a walk, and of a host translation, as `xfault` keys them. -/
def walkKey (va : Nat) : Nat := va % 2 ^ 52 / 2 ^ 16
def hostKey (ua : Nat) : Nat := 2 ^ 60 + ua / 4096

/-- A miss joins a walk of the same key, or waits for a walker (R27). -/
def State.joinWalk (s : State) (va : Nat) : State :=
  let dike := s.jobOf s.cur
  let key := walkKey va
  let join (w : Walk) : Walk :=
    if w.dike = dike ∧ w.vpn = key then
      { w with thrs := if w.thrs.contains s.thr then w.thrs else w.thrs ++ [s.thr],
               polders := if w.polders.contains (polOf s.cur) then w.polders else w.polders ++ [polOf s.cur] }
    else w
  let same (w : Walk) : Bool := w.dike == dike && w.vpn == key
  let k := s.myStack
  if (k.walks ++ k.walkq).any same then
    s.modMyStack fun k => { k with walks := k.walks.map join, walkq := k.walkq.map join }
  else if k.walkq.length < 1024 then
    s.modMyStack fun k => { k with walkq := k.walkq ++ [{ dike := dike, vpn := key, thrs := [s.thr], slice := sliceOf s.cur,
                                                          polders := [polOf s.cur], started := false, redo := false }] }
  else s

/-- The permission that a read-only translation refuses is walked once more first (R28). -/
def State.readOnlyHit (s : State) (va : Nat) : Bool :=
  canonical va && !inWindows va &&
    (match (s.tlbLook (polOf s.cur) va).1 with
     | some lf => !lf.wr
     | none => false)

/-- How an address of the issuing thread is reached: its place, a fault, a host page without a translation, or a walk that the thread
waits for, parked. -/
inductive Reach where
  | ok (t : Target)
  | fault (cause : Nat)
  | host (ua : Nat)
  | wait
  deriving DecidableEq, Repr

/-- Reaches one address of the issuing thread: a miss of the TLBs joins a walk, and the thread waits for its end (R27; DEDUCED, log 15);
a write that a cached translation refuses discards it and walks once more (R28). -/
def State.reach (s : State) (va : Nat) (wr : Bool) : Reach × State :=
  let wait (s : State) : Reach × State := (.wait, (s.joinWalk va).park .walk)
  match s.xlate s.cur va wr with
  | (.ok t, s) => (.ok t, s)
  | (.fault c, s2) =>
    if c = 0x05 ∧ wr ∧ s.readOnlyHit va ∧ s.me.xfault ≠ some (walkKey va, { cause := 0, addr := 0 }) then
      let s := s.modMyPolder fun p => { p with tlb := tlbDrop p.tlb p.dike (va % 2 ^ 52) (va % 2 ^ 52 + 1) }
      wait (s.modSlice (sliceOf s.cur) fun x =>
        { x with stlb := tlbDrop x.stlb s.myPolder.dike (va % 2 ^ 52) (va % 2 ^ 52 + 1) })
    else (.fault c, s2)
  | (.walk, s) =>
    match s.me.xfault with
    | some (key, f) => if key = walkKey va ∧ f.cause ≠ 0 then (.fault f.cause, s) else wait s
    | none => wait s
  | (.host ua, s) => (.host ua, s)

/-- A translation that walks at once and fills the TLBs, for an instruction that never parks (R318). (DESIGN CHOICE, log 98.) -/
def State.xlateNow (s : State) (va : Nat) (wr : Bool) : XRes × State :=
  match s.xlate s.cur va wr with
  | (.walk, s) =>
    match s.walkNow (stkOf s.cur) (s.jobOf s.cur) va with
    | (.leaf lf _, s) =>
      let s := s.tlbFill (polOf s.cur) (s.jobOf s.cur) va lf
      s.useLeaf (stkOf s.cur) (s.jobOf s.cur) va wr lf
    | (.fault c _, s) => (.fault c, s)
  | r => r

/-! ## Reads of a trap entry (R420) -/

/-- The places of a value's bytes that a pending store of the slot covers. -/
def State.ownCovers (s : State) (ps : List Piece) (i : Nat) : Bool :=
  (pieceKeys ps).any fun k => k.2 == i && (s.myCore.pending (slotNo s.cur)).any fun e => (e.byteAt k.1).isSome

/-- The slot's pending stores laid over what memory holds; bytes that they cover are not poisoned (R64, R179). -/
def State.overOwn (s : State) (ps : List Piece) (g : Got) : Got :=
  { data := overlay (s.myCore.pending (slotNo s.cur)) ps g.data, bad := g.bad.filter fun i => !s.ownCovers ps i }

/-- Bytes of the issuing thread's own view: memory with its pending stores over it. -/
def State.readOwn (s : State) (ps : List Piece) : Got × State :=
  let (g, s) := s.readPieces (stkOf s.cur) s.cur (some (sliceOf s.cur)) ps false 0 []
  (s.overOwn ps g, s)

/-- What a read of a handler entry or of its end gives: the bytes, a fault with its address, or a walk that the thread waits for. -/
inductive EntryGot where
  | ok (bytes : List Byte)
  | fault (cause addr : Nat)
  | wait
  deriving DecidableEq, Repr

/-- `n` bytes for a trap entry, or its fault; a host page is `ACCESS` here, because the tables and stacks of an entry are
pinned device pages (R24; DEDUCED, log 14). -/
def State.entryRead (s : State) (va n : Nat) : EntryGot × State :=
  match s.reach va false with
  | (.ok t, s) =>
    match s.readOwn [{ lo := 0, len := n, tgt := t }] with
    | (g, s) => match g.bad with
      | i :: _ => (.fault 0x07 (va + i), s)
      | [] => (.ok g.data, s)
  | (.fault c, s) => (.fault c va, s)
  | (.host _, s) => (.fault 0x05 va, s)
  | (.wait, s) => (.wait, s)

/-! ## Store-buffer entries -/

/-- A new entry of the issuing slot (R64), whose address was translated under the given epochs of R30 and R43. -/
def State.enterUnder (s : State) (epoch hepoch : Bool) (kind : StoreKind) (va : Nat) (ps : List Piece) (data : List Byte) : State :=
  let s := s.nextSeq
  let e : StoreEnt := { slot := slotNo s.cur, seq := s.seq, kind := kind, pieces := ps, data := data, phase := .waiting,
                        released := false, va := va, pc := s.me.pc, img := s.me.img, epoch := epoch, hepoch := hepoch }
  s.modMyCore fun c => { c with sb := c.sb ++ [e] }

/-- A new entry of the issuing slot, stamped with the current epochs. -/
def State.enterStore (s : State) (kind : StoreKind) (va : Nat) (ps : List Piece) (data : List Byte) : State :=
  s.enterUnder s.myPolder.epoch s.myStack.hepoch kind va ps data

/-- Free entries of the core's store buffer. -/
def State.sbFree (s : State) : Nat := 16 - s.myCore.sb.length

/-- A record of 64 bytes enters as eight doubleword stores (R165, R294). -/
def State.enterRecord (s : State) (va : Nat) (t : Target) (bytes : List Byte) : State :=
  (List.range 8).foldl (fun s i =>
    s.enterStore .plain (va + 8 * i) [{ lo := 0, len := 8, tgt := t.plus (8 * i) }] ((bytes.drop (8 * i)).take 8)) s

/-! ## Trap entry (R420) -/

/-- The trap record (R420). -/
def trapRecord (t : Thread) (transl : Bool) : List Byte :=
  leBytes 32 t.digest ++ leBytes 2 0xFFFF ++ leBytes 2 (if transl then 1 else 0) ++ leBytes 4 t.tag
    ++ leBytes 4 t.bank1.epc.toNat ++ leBytes 4 0 ++ leBytes 8 (t.sreg 30).val.toNat ++ leBytes 8 (t.sreg 31).val.toNat

/-- The running image of the thread, when the code store still holds it. -/
def State.myImage (s : State) : Option Image := s.myPolder.code.find? s.me.img

/-- The handler's digest: the table entry for the cause, else entry 0 (R419). -/
def State.handlerDigest (s : State) : EntryGot × State :=
  let t := s.me
  let base := t.tvec.toNat / 1024 % 2 ^ 42 * 1024
  if base = 0 then (.ok [], s)
  else
    let va (i : Nat) : Nat := if base < 2 ^ 51 then base + 32 * i else base + 32 * i + (2 ^ 64 - 2 ^ 52)
    match s.entryRead (va (t.bank1.cause.toNat % 32)) 32 with
    | (.ok bs, s) => if leNat bs ≠ 0 then (.ok bs, s) else s.entryRead (va 0) 32
    | r => r

/-- The handler run that an escalated thread leaves: `fp` and `sp` come from its trap record, its image loses the run's user, and the
level is what it was before the run (R423). -/
def State.abandonRun (s : State) (bs : List Byte) : State :=
  match s.me.runs with
  | [] => s
  | (_, islot) :: rest =>
    (s.dropUser (polOf s.cur) s.me.img).modMe fun t =>
      let t := (t.setS 30 (Cell.full (BitVec.ofNat 64 (leAt bs 48 8)))).setS 31 (Cell.full (BitVec.ofNat 64 (leAt bs 56 8)))
      { t with pc := t.bank1.epc.toNat, img := islot, digest := leAt bs 0 32, tag := leAt bs 36 4, runs := rest,
               level := t.level - 1, ack := t.level == 2, entry := some { written := false, abandon := 0 } }

/-- The entry from the table read on; bank 1 holds the trap. It waits for walks (R27), for store-buffer entries and for the handler's
image, and repeats from its first step. -/
def State.tableEntry (s : State) : State :=
  let t := s.me
  let sp := (t.sreg 31).val.toNat
  let rec_ := (sp / 64 * 64 + 2 ^ 64 - 64) % 2 ^ 64
  let e := t.entry.getD { written := false, abandon := 0 }
  match s.handlerDigest with
  | (.wait, s) => s
  | (.fault c a, s) => s.entryFault c a
  | (.ok bs, s) =>
    let h := leNat bs
    if h = 0 then s.kill s.thr t.bank1.cause.toNat
    else match s.reach rec_ true with
      | (.wait, s) => s
      | (.fault c, s) => s.entryFault c rec_
      | (.host _, s) => s.entryFault 0x05 rec_
      | (.ok tgt, s) =>
        if !e.written ∧ s.sbFree < 8 then (s.modMe fun t => { t with entry := some e }).park .storeBuf
        else
          let transl := match s.myImage with | some im => im.transl | none => false
          let s := if e.written then s else s.enterRecord rec_ tgt (trapRecord t transl)
          let s := s.modMe fun t => { t with entry := some { e with written := true } }
          match s.look s.thr h none with
          | (.unresolved, s) => s.entryFault 0x08 0
          | (.miss, s) => s.park (.code h)
          | (.hit slot im, s) =>
            if !im.attrs.testBit 4 then s.entryFault 0x01 (Config.faultAddr s.fresh).toNat
            else
              let s := (s.addUser (polOf s.cur) slot).touchImage (polOf s.cur) slot
              s.modMe fun t =>
                let t := (t.setS 30 (Cell.full (BitVec.ofNat 64 rec_))).setS 31
                  (Cell.full (BitVec.ofNat 64 (rec_ + 2 ^ 64 - im.frame)))
                { t with pc := 0, img := slot, digest := im.digest, tag := im.tag, level := t.level + 1, ack := false,
                         runs := (rec_, t.img) :: t.runs, entry := none, wait := .no, prog := .none,
                         xfault := none, hgot := [] }

/-- A handler entry: the run that an escalated thread leaves is abandoned first. -/
def State.runEntry (s : State) : State :=
  match s.me.entry with
  | some { abandon := n + 1, .. } =>
    match s.entryRead (n + 1) 64 with
    | (.wait, s) => s
    | (.fault c a, s) => s.entryFault c a
    | (.ok bs, s) => (s.abandonRun bs).tableEntry
  | _ => s.tableEntry

/-- Takes a trap (R420, R421): entry at level 0, nested entry at level 1 after `eack`, escalation before it, a kill otherwise.
Bank 1 is captured, and bank 0 takes the old bank 1 at a nested entry, before anything else of the entry. -/
def State.takeTrap (s : State) (i : TrapInfo) : State :=
  let s := s.modMyCore fun c => { c with mcfgBusy := if c.mcfgBusy = some (slotNo s.cur) then none else c.mcfgBusy }
  let s := if s.me.wait ≠ .no then s.leaveTables s.thr false else s
  let t := s.me
  if t.level = 0 ∨ (t.level = 1 ∧ t.ack) then
    let s := s.modMe fun t =>
      { t with bank0 := if t.level = 1 then t.bank1 else t.bank0, bank1 := i.bank, prog := .none, xfault := none,
               hgot := [], late := none, entry := some { written := false, abandon := 0 } }
    s.runEntry
  else if t.ack then s.kill s.thr i.cause
  else if t.esc then s.kill s.thr 0x10
  else s.escalate i.cause i.addr (match t.runs with | r :: _ => r.1 | [] => 0)

/-- A precise trap at the instruction that issues (R418, R424). -/
def State.trap (s : State) (cause addr : Nat) : State :=
  s.takeTrap { cause := cause, addr := addr, epc := s.me.pc, origin := s.me.pc, efn := s.me.efnSlot, late := false }

/-- A precise trap whose rule gives no `c.addr`: the address is a free value (log 18). -/
def State.trapOpen (s : State) (cause : Nat) : State := s.trap cause (Config.faultAddr s.fresh).toNat

/-- A late trap: a mark is read (R424). -/
def State.trapMark (s : State) (m : Mark) : State :=
  s.takeTrap { cause := m.cause, addr := m.addr, epc := s.me.pc, origin := m.origin, efn := m.efn, late := true }

/-! ## Operands, then the instruction -/

/-- Runs what follows once every operand is ready (R191, R179, R213). -/
def State.withGate (s : State) (srcs dsts : List Desig) (k : State → State) : State :=
  match s.gate srcs dsts with
  | .go => k s
  | .park why => s.park why
  | .illegal c => s.trap 0x01 c
  | .late m => s.trapMark m
  | .roam => s.trapOpen 0x0D

/-- An instruction that computes one scalar from scalars (R284, R287). -/
def State.scalarOp (s : State) (srcs : List Nat) (d : Nat) (size : Nat) (val : State → W64) : State :=
  s.withGate (srcs.map Desig.s) [.s d] fun s => ((s.putS d (val s)).popIf srcs).advance size

/-! ## Host pages and runs of bytes (R25, R36, R37) -/

/-- A miss in the ATC joins a Translation Request of the page, or sends one (R36, R37). -/
def State.joinHost (s : State) (va ua : Nat) (wr : Bool) : State :=
  let stk := stkOf s.cur
  let dike := s.jobOf s.cur
  let k := s.stack stk
  let pasid := k.dike dike 4 4
  let same (h : HostReq) : Bool := h.pasid == pasid && h.ua / 4096 == ua / 4096
  let join (h : HostReq) : HostReq :=
    if same h then { h with write := h.write || wr,
                            thrs := if (h.thrs.any fun x => x.1 == s.thr) then h.thrs else h.thrs ++ [(s.thr, va, wr)] }
    else h
  if (k.hreqs ++ k.hwaitq).any same then
    s.modStack stk fun k => { k with hreqs := k.hreqs.map join, hwaitq := k.hwaitq.map join }
  else if k.hreqs.length < 256 then
    let h : HostReq :=
      { pasid := pasid, ua := ua / 4096 * 4096, write := wr, thrs := [(s.thr, va, wr)], dike := dike, paging := false,
        sent := true, prgi := 0, rounds := 0, stale := false, engines := [], stopRec := [], asked := 0, paged := false }
    (s.modStack stk fun k => { k with hreqs := k.hreqs ++ [h] }).emit (.translationRequest pasid (ua / 4096 * 4096) (!wr))
  else s

/-- Translates one address of the issuing thread: what follows gets the target; a fault traps with the address, a miss parks
the thread at the instruction until the walk or the host has answered (R37; for device pages DEDUCED, log 15). -/
def State.withX (s : State) (va : Nat) (wr : Bool) (k : Target → State → State) : State :=
  let old := s.me.xfault
  match s.reach va wr with
  | (.ok t, s) => k t s
  | (.fault c, s) => s.trap c va
  | (.wait, s) => s
  | (.host ua, s) =>
    match old with
    | some (key, f) => if key = hostKey ua ∧ f.cause ≠ 0 then s.trap f.cause va else (s.joinHost va ua wr).park .host
    | none => (s.joinHost va ua wr).park .host

/-- Translates runs of bytes, lowest first: (place in the value, address, length), each inside a piece of 2 KiB (R25, R311). -/
def State.withRuns (s : State) (wr : Bool) : List (Nat × Nat × Nat) → List Piece → (List Piece → State → State) → State
  | [], acc, k => k acc s
  | r :: rs, acc, k => s.withX r.2.1 wr fun t s => s.withRuns wr rs (acc ++ [{ lo := r.1, len := r.2.2, tgt := t }]) k

/-- Cuts a run at multiples of 2 KiB: no piece crosses a page, or the edge of a spill area in the scratchpad window (R212). -/
def cutPages : Nat → Nat → Nat → Nat → List (Nat × Nat × Nat)
  | 0, _, _, _ => []
  | fuel + 1, lo, va, n =>
    if n = 0 then []
    else
      let m := min n (2048 - va % 2048)
      (lo, va, m) :: cutPages fuel (lo + m) ((va + m) % 2 ^ 64) (n - m)

/-- Translates a run of bytes. -/
def State.withPieces (s : State) (va n : Nat) (wr : Bool) (k : List Piece → State → State) : State :=
  s.withRuns wr (cutPages (n / 2048 + 2) 0 va n) [] k

/-! ## Reads that an instruction makes at issue -/

/-- The host bytes an instruction's read still lacks: pieces that neither a far line nor an answer supplies (R41, R50). -/
def State.hostLacks (s : State) (ps : List Piece) : List (Nat × Nat) :=
  (s.hostMissing (stkOf s.cur) ps).filter fun e =>
    !(s.me.hgot.any fun g => g.1 == e.2 && g.2.2.length == (ps.getD e.1 { lo := 0, len := 0, tgt := .kdir 0 }).len)

/-- A tag for a request to the host. -/
def State.hostAsk (s : State) (thr seq piece ha n : Nat) (attr : HostAttr) : State :=
  let stk := stkOf (thr * 2)
  let tag := (s.stack stk).htag
  let r : HostRd := { tag := tag, thr := thr, seq := seq, piece := piece, epoch := (s.stack stk).hepoch, attr := attr }
  (s.modStack stk fun k => { k with htag := (k.htag + 1) % 2 ^ 14, hreads := k.hreads ++ [r] }).emit (.hostRead tag ha n attr)

/-- The cacheable L2 lines of an access, device and host, with the words it touches (R57, R69). -/
def pieceLines (ps : List Piece) : List (Nat × BitVec 16) :=
  ps.flatMap fun p => match p.tgt with
    | .dev pa true _ =>
      if region pa = .dram then (cutLines (p.len / 64 + 2) pa p.len 0).map fun c => (devLine c.1, wordMask c.1 c.2.1) else []
    | .host ha true _ => (cutLines (p.len / 64 + 2) ha p.len 0).map fun c => (hostLine c.1, wordMask c.1 c.2.1)
    | _ => []

/-- The far lines of an access that a roaming thread must not hit (R118). -/
def State.roamStale (s : State) (thr : Nat) (ps : List Piece) : List Nat :=
  let t := s.thread thr
  let stk := stkOf (thr * 2)
  if !t.roam then []
  else ((pieceLines ps).filter fun e => match s.line? (proxyOf stk e.1) e.1 with
    | some l => l.kind == .far && stampOld t.roamTime l
    | none => false).map (·.1)

/-- An access waits while the memory that it reaches is being wiped (R184), or while a channel that it reaches swaps a lane
(R172). (DESIGN CHOICE, log 80.) -/
def State.memoryHeld (s : State) (ps : List Piece) : Bool :=
  ps.any fun p => match p.tgt with
    | .dev pa _ _ => s.addrHeld pa
    | _ => false

/-- Every load of the thread counts as performed at the core (R62). -/
def Thread.loadsDone (t : Thread) : Bool := t.loadq.all fun l => l.phase == .arrived

/-- The bytes of pieces for an instruction that reads at issue: older loads of the slot have performed, its pending stores are
forwarded, a far line older than a roaming thread's move goes first, and what lies in host memory is fetched (R50, R62, R64, R118). -/
def State.withBytes (s : State) (ps : List Piece) (k : Got → State → State) : State :=
  let stk := stkOf s.cur
  let stale := s.roamStale s.thr ps
  if !s.me.loadsDone ∨ s.memoryHeld ps then s.park .loads
  else if s.farPinned stk fun line _ => stale.contains line then s.park .matrix
  else
    let s := stale.foldl (fun s l => s.dropFar stk l) s
    let lacks := s.hostLacks ps
    if lacks ≠ [] then
      let asked (ha : Nat) : Bool := (s.stack stk).hreads.any fun h => h.thr == s.thr && h.seq == 0 && h.piece == ha
      (lacks.foldl (fun s e => if asked e.2 then s
        else match ps[e.1]? with
          | some { len := n, tgt := .host _ _ attr, .. } => s.hostAsk s.thr 0 e.2 e.2 n attr
          | _ => s) s).park .host
    else
      let got := (ps.zipIdx.filterMap fun e => match e.1.tgt with
        | .host ha _ _ =>
          (s.me.hgot.find? fun g => g.1 == ha && g.2.2.length == e.1.len).map fun g => (e.2, e.1.lo, g.2.1, g.2.2)
        | _ => none)
      let (g, s) := s.readPieces stk s.cur (some (sliceOf s.cur)) ps false 0 (got.map fun x => (x.1, x.2.2.2))
      let hostBad := (got.filter fun x => x.2.2.1).flatMap fun x => (List.range x.2.2.2.length).map (x.2.1 + ·)
      k (s.overOwn ps { g with bad := g.bad ++ hostBad }) s

/-- Reads `n` bytes at an address at issue; poison traps with the lowest poisoned byte (R179, R294). -/
def State.withRead (s : State) (va n : Nat) (k : List Byte → State → State) : State :=
  s.withPieces va n false fun ps s =>
    s.withBytes ps fun g s =>
      match g.bad.min? with
      | some i => s.trap 0x07 ((va + i) % 2 ^ 64)
      | none => k g.data s

/-! ## Register fills (R215, R324, R429) -/

/-- The register of a fill is owed to it (R191). -/
def Thread.awaits (t : Thread) (f : Fill) : Bool :=
  t.stOf f.dst == .owed f.due

/-- Writes a fill: a vector takes the payload in its low bits; a census also fills the next register (R324, R377). -/
def Thread.fill (t : Thread) (f : Fill) : Thread :=
  match f.dst with
  | .s n =>
    let t := t.put (.s n) (.s f.val) f.mark
    if f.due = .census then t.put (.s (n + 1)) (.s f.val2) Option.none else t
  | .v n => t.put (.v n) (.v (f.val.setWidth 1024)) f.mark
  | .p _ => t

/-- What R119 asks of a fill from another stack when it is delivered. -/
def State.fillOrder (s : State) (stk : Nat) (f : Fill) : State :=
  if f.cross then (s.dropFarIf stk fun _ l => stampOld f.time l).raiseT stk f.time else s

/-- The inbox entry of a fill (R428). -/
def fillEnt (f : Fill) (now : Nat) : InboxEnt :=
  { kind := if f.due = .census then 2 else 1, val := f.val, val2 := f.val2, ep := f.ep, desig := f.dst.code, num := 0, time := now,
    cross := f.cross, sent := f.time, load := f.due == .result, mark := f.mark }

/-- A fill that finds no register goes to the inbox (R215, R428). -/
def State.toInbox (s : State) (f : Fill) : State :=
  s.modPolder (polOf f.ep) fun p => { p with arriving := p.arriving ++ [fillEnt f (s.timeAt f.ep)] }

/-- A fill arrives at its polder: at the register, or else in the inbox (R215, R324, R429). (DEDUCED, log 41.) -/
def State.fillArrives (s : State) (f : Fill) : State :=
  let thr := thrOf f.ep
  let t := s.thread thr
  if t.live ∧ t.escal = none ∧ t.awaits f ∧ t.level = 0 then
    (s.fillOrder (stkOf f.ep) f).modThread thr fun t => t.fill f
  else s.toInbox f

/-- The fill that an inbox entry of kind 1 or 2 carries. -/
def InboxEnt.fill (e : InboxEnt) : Fill :=
  { ep := e.ep, dst := if 32 ≤ e.desig then .v (e.desig - 32) else .s e.desig,
    due := if e.kind = 2 then .census else if e.load then .result else .cont,
    val := e.val, val2 := e.val2, mark := e.mark, time := e.sent, cross := e.cross }

/-- An entry is a fill for a register of a thread that is owed to it (R429). -/
def State.fillFor (s : State) (thr : Nat) (e : InboxEnt) : Bool :=
  (e.kind == 1 || e.kind == 2) && e.ep == thr * 2 && (s.thread thr).awaits e.fill

/-- The entries of a polder in arrival order: its inbox, then the overflow ring, then what is on its way there. -/
def State.inboxAll (s : State) (pol : Nat) : List InboxEnt :=
  (s.polder pol).inbox ++ ((s.stack (stkOfPol pol)).ovf.filter fun x => x.1 == pol).map (·.2) ++ (s.polder pol).arriving

/-- The fills that a handler run has put off: those that were popped, then those that stand in the inbox (R422, R429). -/
def State.putOff (s : State) (thr : Nat) : List Fill :=
  (s.thread thr).deferred ++ ((s.inboxAll (thr / 64)).filter (s.fillFor thr)).map (·.fill)

/-! ## Return from a trap (R422) -/

/-- Delivers the fills that a handler run has put off, in arrival order (R422, R429). -/
def State.deliverDeferred (s : State) (thr : Nat) : State :=
  let pol := thr / 64
  let l := s.putOff thr
  let mine := s.fillFor thr
  let s := s.modThread thr fun t => { t with deferred := [] }
  let s := s.modPolder pol fun p =>
    { p with inbox := p.inbox.filter fun e => !mine e, arriving := p.arriving.filter fun e => !mine e }
  let s := s.modStack (stkOfPol pol) fun k => { k with ovf := k.ovf.filter fun x => x.1 != pol || !mine x.2 }
  l.foldl (fun s f =>
    let t := s.thread thr
    if t.awaits f then (s.fillOrder (stkOf f.ep) f).modThread thr fun t => t.fill f
    else s.toInbox f) s

/-- The rest of `eret` after its record has been read and checked: registers, image, pc and level; the
deferred fills are due at the end of the last run. The record's digest and tag serve when the interrupted image has gone
(R167). -/
def State.leaveHandler (s : State) (digest tag : Nat) (fp sp : W64) : State :=
  let t := s.me
  let pol := polOf s.cur
  match t.runs with
  | [] => s
  | (_, islot) :: rest =>
    let s := s.dropUser pol t.img
    let (dg, tg) := match (s.polder pol).code.find? islot with
      | some im => (im.digest, im.tag)
      | none => (digest, tag)
    let s := s.modMe fun t =>
      let t := (t.setS 30 (Cell.full fp)).setS 31 (Cell.full sp)
      let t := { t with pc := t.bank1.epc.toNat, img := islot, digest := dg, tag := tg, runs := rest, wait := .no,
                        prog := .none, xfault := none, hgot := [] }
      if t.level = 2 then { t with bank1 := t.bank0, level := 1, ack := true }
      else { t with level := 0, ack := false, esc := false }
    if s.me.level = 0 then s.deliverDeferred s.thr else s

/-- Does something as another slot would, keeping the slot that issues. -/
def State.asSlot (s : State) (ep : Nat) (k : State → State) : State :=
  let c := s.cur
  let s := k { s with cur := ep }
  { s with cur := c }

end Sys2Proof.Machine
end

