-- ==== Sys2Proof/Machine/Operands.lean ====
section
/-! DEFINITION. Sys2Proof/Machine/Operands.lean: effective addresses (R307, R311, R313), lanes and elements (R205, R329), and how a
load, an atomic or a store of a slot begins (R308, R309, R315). -/

namespace Sys2Proof.Machine

/-! ## Lanes and elements (R205) -/

/-- Element `k` of width `w` of a register's bits. -/
def elemOf (w : Nat) (x : Nat) (k : Nat) : Nat := x / 2 ^ (w * k) % 2 ^ w

/-- A register's bits from its elements, lowest first. -/
def ofElems (w : Nat) : List Nat → Nat
  | [] => 0
  | e :: es => e % 2 ^ w + 2 ^ w * ofElems w es

/-- Lane `i` of a vector register. -/
def laneOf (x : Nat) (i : Nat) : Nat := elemOf 32 x i

/-- Every lane of `n`, each from its number. -/
def ofLanes (n : Nat) (f : Nat → Nat) : Nat := ofElems 32 ((List.range n).map f)

/-- The active lanes among `n`. -/
def activeLanes (n : Nat) (p : PReg) : List Nat := (List.range n).filter fun i => p.getLsbD i

/-! ## Effective addresses -/

/-- `sA + SignExtend(off) × scale` modulo 2^64 (R307, R311). -/
def eaOf {n : Nat} (base : W64) (off : BitVec n) (scale : Nat) : Nat :=
  (base + BitVec.ofInt 64 (off.toInt * Int.ofNat scale)).toNat

/-- A lane's address of a gather or scatter (R313). -/
def laneEa (base : W64) (index : Nat) (sc : Nat) : Nat :=
  (base + BitVec.ofInt 64 (sgn 32 index * Int.ofNat (2 ^ sc))).toNat

/-- Every piece lies in a TCM or a scratchpad (R10). -/
def piecesLocal (ps : List Piece) : Bool :=
  ps.all fun p => match p.tgt with
    | .dev pa _ _ => region pa == .tcm || region pa == .spad
    | _ => false

/-- Every piece lies in a TCM (R52). -/
def piecesTcm (ps : List Piece) : Bool :=
  ps.all fun p => match p.tgt with
    | .dev pa _ _ => region pa == .tcm
    | _ => false

/-- The scopes of R74: a release or acquire on this target reaches the pod or the host. -/
def wideScope (ps : List Piece) : Bool :=
  ps.any fun p => match p.tgt with
    | .dev pa _ _ => region pa == .dram
    | .host _ _ _ => true
    | _ => false

/-- Donors issue no vector instruction in slot 7 (R203). -/
def State.notDonorSlot (s : State) (k : State → State) : State :=
  if s.myCore.gang.donor ∧ slotNo s.cur = 7 then s.trapOpen 0x0C else k s

/-! ## Loads (R62, R64, R308) -/

/-- An entry overlaps a byte key. -/
def StoreEnt.touches (e : StoreEnt) (keys : List (Nat × Nat)) : Bool :=
  (pieceKeys e.pieces).any fun k => keys.any fun x => x.1 == k.1

/-- The youngest pending store of the slot, older than a load, that overlaps it (R64). -/
def Core.hit (c : Core) (slot seq : Nat) (ps : List Piece) : Option StoreEnt :=
  (c.pending slot).find? fun e => decide (e.seq < seq) && e.kind != .clean && e.kind != .inval && e.touches (pieceKeys ps)

/-- How pending stores meet a load: no overlap, whole cover, or an overlap that the load waits for (R64). -/
inductive Forward where
  | memory
  | from (data : List Byte)
  | wait
  deriving DecidableEq, Repr

def Core.forward (c : Core) (slot seq : Nat) (ordered : Bool) (ps : List Piece) : Forward :=
  match c.hit slot seq ps with
  | none => .memory
  | some e =>
    if ordered then .wait
    else
      let bytes := (pieceKeys ps).map fun k => e.byteAt k.1
      if bytes.all Option.isSome then .from (bytes.map fun b => b.getD 0) else .wait

/-- A load that waits for full words, or is ordered, is never forwarded (R64). -/
def LoadKind.ordered : LoadKind → Bool
  | .plain => false
  | .gather => false
  | _ => true

/-- The value of a scalar load (R308). -/
def extendLoad (sz : Sz) (data : List Byte) : W64 :=
  if szSigned sz then sext64 (8 * szBytes sz) (leNat data) else BitVec.ofNat 64 (leNat data)

/-- The bits a vector load leaves: active lanes from memory, where their elements stand one after another, the others from the old value; a broadcast replicates its element
(R311). -/
def vectorLoad (old : VReg) (mask : PReg) (bc : Option Nat) (lanes : Nat) (data : List Byte) : VReg :=
  let x := leNat data
  let lane (i : Nat) : Nat :=
    match bc with
    | none => laneOf x (activeLanes i mask).length
    | some n => ofElems (8 * n) (List.replicate (4 / n) x)
  BitVec.ofNat 1024 (ofLanes lanes fun i => if mask.getLsbD i then lane i else laneOf old.toNat i)

/-- The register of a load. -/
def LoadDest.desig : LoadDest → Option Desig
  | .none => Option.none
  | .scalar n _ => if n = 0 then Option.none else some (.s n)
  | .vector n _ _ _ _ => some (.v n)

/-- The value that reaches the register; an atomic's old value is sign-extended (R315). -/
def LoadDest.value (d : LoadDest) (data : List Byte) : RVal :=
  match d with
  | .none => .s 0
  | .scalar _ sz => .s (extendLoad sz data)
  | .vector _ old mask bc lanes => .v (vectorLoad old mask bc lanes data)

/-- A mark that a load leaves: the poisoned byte's address, the load's offset and image (R179, R424). -/
def loadMark (pc img va : Nat) : Mark := { cause := 0x07, addr := va % 2 ^ 64, origin := pc, efn := img }

/-- The address of byte `i` of a value. -/
def vaOf (vas : List (Nat × Nat × Nat)) (i : Nat) : Nat :=
  match vas.find? fun r => decide (r.1 ≤ i) && decide (i < r.1 + r.2.2) with
  | some r => (r.2.1 + (i - r.1)) % 2 ^ 64
  | none => 0

/-- The lowest address of the poisoned bytes of a value (R179). -/
def badVa (vas : List (Nat × Nat × Nat)) (bad : List Nat) : Option Nat := (bad.map (vaOf vas)).min?

/-- Places a value in the destination of a load. (DEDUCED, log 57.) -/
def Thread.land (t : Thread) (d : LoadDest) (data : List Byte) (m : Option Mark) : Thread :=
  match d.desig with
  | some r => t.put r (d.value data) m
  | Option.none => t

/-- A load of the issuing slot begins: at once when R52 makes it fixed-latency, else in the load queue with its destination
owed. -/
def State.issueLoad (s : State) (size : Nat) (kind : LoadKind) (dest : LoadDest) (ps : List Piece) (vas : List (Nat × Nat × Nat))
    (pops : List Nat) : State :=
  let t := s.me
  if 8 ≤ t.loadq.length then s.park .loadQueue
  else
    let s := s.nextSeq
    let fwd := s.myCore.forward (slotNo s.cur) s.seq kind.ordered ps
    let invals := s.myCore.sb.any fun e => e.slot == slotNo s.cur && e.kind == .inval && e.phase != .performed
    if (kind = .plain ∨ kind = .acq) ∧ piecesTcm ps ∧ !t.long ∧ t.loadsDone ∧ !invals ∧ fwd ≠ .wait then
      match fwd with
      | .from data => ((s.modMe fun t => t.land dest data none).popIf pops).advance size
      | _ =>
        let (g, s) := s.readPieces (stkOf s.cur) s.cur none ps true 0 []
        ((s.modMe fun t => t.land dest g.data ((badVa vas g.bad).map (loadMark t.pc t.img))).popIf pops).advance size
    else
      let e : LoadEnt :=
        { seq := s.seq, kind := kind, dest := dest, pieces := ps, phase := .queued, data := [], mark := none, vas := vas,
          pc := t.pc, img := t.img, epoch := s.myPolder.epoch, hepoch := s.myStack.hepoch, held := false, level := t.level, got := [] }
      let s := s.modMe fun t =>
        let t := { t with loadq := t.loadq ++ [e] }
        match dest.desig with
        | some d => t.setSt d (.owed .result)
        | none => t
      (s.popIf pops).advance size

/-- Where a result goes: into the register now, or later as a long-latency result (R189, R190). -/
def State.result (s : State) (dst : Desig) (val : RVal) (late : Bool) : State :=
  s.modMe fun t =>
    if late then { t.setSt dst (.owed .result) with fills := t.fills ++ [{ dst := dst, val := val, mark := Option.none }] }
    else t.put dst val Option.none

/-! ## Host lines (R50, R69) -/

/-- The host lines of which an access of words lacks some: address of the line. -/
def State.hostWordsLacking (s : State) (stk ha n : Nat) (mask : Nat → Nat → BitVec 16) : List Nat :=
  (cutLines (n / 64 + 2) ha n 0).filterMap fun c =>
    let need := mask c.1 c.2.1
    match s.line? (proxyOf stk (hostLine c.1)) (hostLine c.1) with
    | some l => if l.wv &&& need = need then none else some (c.1 / 64 * 64)
    | none => if need = 0 then none else some (c.1 / 64 * 64)

/-- Host lines of a piece that lack words of it in L2. -/
def State.hostLinesLacking (s : State) (stk : Nat) (p : Piece) : List Nat :=
  match p.tgt with
  | .host ha _ _ => s.hostWordsLacking stk ha p.len wordMask
  | _ => []

/-- A host line that an answer has brought enters L2 as a far line, unless every way of its set is pinned; words that are valid keep
their bytes, and a sector that lacked words takes the answer's poison (R41, R57, R60, R61). -/
def State.installHostLine (s : State) (stk ln : Nat) (bs : List Byte) (bad : Bool) (attr : HostAttr) : State :=
  let key := hostLine ln
  let sl := proxyOf stk key
  if s.noRoom sl key then s
  else
    let s := s.makeRoom sl key
    let l := (s.line? sl key).getD { Line.blank .far with stamp := stampOf (s.podTime (stk / 4)) }
    let l' := bs.zipIdx.foldl (fun l' e => if l.wv.getLsbD (e.2 / 4) then l' else l'.setByte e.2 e.1) l
    let l' := (List.range 2).foldl (fun l' j => if bad && !l.whole j then l'.setBad (32 * j) true else l') l'
    s.setLine sl key { l' with wv := 0xFFFF, attr := attr, used := s.seq }

/-! ## What an instruction that must come after the slot's accesses waits for (R122, R445) -/

/-- Every older load of the slot counts as performed (R62). -/
def State.loadsDone (s : State) : Bool := s.me.loadsDone

/-- Every older store of the slot has performed. -/
def State.storesDone (s : State) : Bool := s.myCore.pending (slotNo s.cur) == []

/-- Waits for the slot's older stores, or its loads and stores. -/
def State.afterStores (s : State) (k : State → State) : State := if s.storesDone then k s else s.park .stores
def State.afterAccesses (s : State) (k : State → State) : State :=
  if !s.loadsDone then s.park .loads else if !s.storesDone then s.park .stores else k s

/-! ## Stores (R309) -/

/-- A store of the issuing slot enters the buffer, or parks while it is full (R64, R309). -/
def State.issueStore (s : State) (kind : StoreKind) (va : Nat) (ps : List Piece) (data : List Byte) (k : State → State) : State :=
  if s.sbFree = 0 then s.park .storeBuf else k (s.enterStore kind va ps data)

/-- The checked lanes of a scatter that fit enter the buffer, each as one store; the slot parks until the rest have entered (R313). -/
def State.enterLanes (s : State) (rest : List (Nat × Target × List Byte)) (epoch hepoch : Bool) : State :=
  let room := s.sbFree
  let s := (rest.take room).foldl (fun s e =>
    s.enterUnder epoch hepoch .plain e.1 [{ lo := 0, len := 4, tgt := e.2.1 }] e.2.2) s
  if room < rest.length then (s.modMe fun t => { t with prog := .scatter (rest.drop room) epoch hepoch }).park .storeBuf
  else s.advance 4

/-- Memory that the kind of store may not name: the read-only windows take none (R10), and the ordered forms of R66 only TCM
and scratchpad. -/
def onlyLocal (local_ : Bool) (ps : List Piece) : Bool := !local_ || piecesLocal ps

end Sys2Proof.Machine
end

