-- ==== Sys2Proof/Machine/Tasks.lean ====
section
/-! DEFINITION. Sys2Proof/Machine/Tasks.lean: how a strand and a task end (R365, R366, R368, R376), and atomics on shared words that a
task instruction performs at once. -/

namespace Sys2Proof.Machine

/-! ## The end of a strand and of a task -/

/-- The strand of a slot ends: its stack region loses a user, its image a user, and the slot is free (R161, R368, R408). -/
def State.strandEnds (s : State) (thr : Nat) : State :=
  let t := s.thread thr
  let s := match t.region with
    | some g => s.leaveRegion (s.jobOf (thr * 2)) g
    | none => s
  (s.discardSlot thr).freeSlot thr

/-- The issuing task ends (R368, R376): after its older stores, with step 2 of R74, the successor list, the counters, and the
slot. A `reply` does not release (R123). A thread of no task frees its slot. -/
def State.finishTask (s : State) (val : Option W64) (release : Bool) : State :=
  s.afterStores fun s =>
    let s := if release then s.writebackFar (stkOf s.cur) else s
    let task := s.me.task.toNat
    let dike := s.jobOf s.cur
    let s := s.modMyStack fun k => { k with kept := k.kept.erase (keptKey dike task) }
    let s := s.endOnce (stkOf s.cur) (sliceOf s.cur) dike task 5 0 val
    (s.strandEnds s.thr).endGang (polOf s.cur) task

/-! ## Atomics that an instruction performs at once (R122, R315) -/

/-- A shared object that an instruction changes by one atomic at its serving memory: translated for write, on no host page
(`ACCESS`), after the slot's older accesses, past the far line of the issuing stack, which goes once it is not pinned (R63, R74, R76).
Poison traps at the instruction. (DEDUCED, log 56.) -/
def State.withObject (s : State) (va n : Nat) (k : Nat → State → State) : State :=
  s.withX va true fun tgt s =>
    match tgt with
    | .dev pa cached m =>
      s.afterAccesses fun s =>
        if s.memoryHeld [{ lo := 0, len := n, tgt := .dev pa cached m }] then s.park .loads
        else if s.farPinned (stkOf s.cur) fun line _ => line == devLine pa then s.park .matrix
        else if cached ∧ s.noRoom (proxyDev (stkOfPa pa) pa) (devLine pa) then s.park .matrix
        else
          match (s.dropFar (stkOf s.cur) (devLine pa)).readDev (stkOfPa pa) none pa n cached true 0 s.cur with
          | ({ bad := a :: _, .. }, s) => s.trap 0x07 (va + (a - pa))
          | (_, s) => k pa s
    | _ => s.trap 0x05 va

/-- Writes `n` bytes of an object as a number, at its serving memory. -/
def State.putNum (s : State) (pa n x : Nat) : State := s.writeRun (stkOfPa pa) pa (leBytes n x) false true 0

/-- A release at the scope of an object (R74, R121). -/
def State.releaseAt (s : State) (pa : Nat) : State := if region pa = .dram then s.writebackFar (stkOf s.cur) else s

/-- Drops the far lines of the issuing stack that a test selects, and T follows; it waits for pins (R75, R76, R117). -/
def State.withDrop (s : State) (p : Nat → Bool) (k : State → State) : State :=
  let stk := stkOf s.cur
  if s.farPinned stk fun line _ => p line then s.park .matrix
  else k ((s.dropFarIf stk fun line _ => p line).raiseT stk (s.timeAt s.cur))

/-- An unsigned acquire at the scope of an object: every far line of the stack goes (R75, R117, R121). -/
def State.withAcquire (s : State) (pa : Nat) (k : State → State) : State :=
  if region pa = .dram then s.withDrop (fun _ => true) k else k s

/-! ## The deque (R364, R365) -/

/-- The entry of a slot for a record. (DEDUCED, log 55.) -/
def Core.dequeEntry (c : Core) (slot recVa : Nat) : Option DequeEnt :=
  c.deque.reverse.find? fun e => e.slot == slot && e.recVa == recVa

/-- Removes an entry. -/
def State.dequeDrop (s : State) (core : Nat) (e : DequeEnt) : State :=
  s.modCore core fun c => { c with deque := (c.deque.reverse.erase e).reverse }

/-- A joiner parked at a join word goes on (R365, R366). -/
def State.wakeJoiner (s : State) (ep : Nat) : State :=
  let t := s.thread (thrOf ep)
  if t.live ∧ t.wait = .join then s.modThread (thrOf ep) fun t => { t with wait := .no } else s

/-- A stolen child ends: the join word loses one as a release at its scope, and at 0 a recorded joiner is woken (R365). -/
def State.childEnds (s : State) (jw : Nat) (drop : State → State) : State :=
  s.withObject jw 8 fun pa s =>
    let s := (drop s).releaseAt pa
    let n := s.num pa 4
    let who := s.num (pa + 4) 4
    let s := s.putNum pa 4 ((n + 2 ^ 32 - 1) % 2 ^ 32)
    let s := if n = 1 ∧ who ≠ 0 then (s.putNum (pa + 4) 4 0).wakeJoiner who else s
    s.strandEnds s.thr

end Sys2Proof.Machine
end

