-- ==== Sys2Proof/Machine/Barrier.lean ====
section
/-! DEFINITION. Sys2Proof/Machine/Barrier.lean: wait tables (R67, R380), barrier objects and the `bar` major (R379, R380). -/

namespace Sys2Proof.Machine

/-! ## Wait tables (R67, R380) -/

/-- The stack SRAM bank of an address (R55). -/
def sramBank (pa : Nat) : Nat := (offOfPa pa - 0x80000000000) / 256 % 64

/-- The waiters in the table of the memory that serves an address, and how many it holds. -/
def State.waiters (s : State) (pa : Nat) : List WaitEnt :=
  match region pa with
  | .tcm => (s.core (coreOfTcm pa)).wait
  | .spad => (s.polder (polOfSpad pa)).wait
  | .sram => (s.stack (stkOfPa pa)).sramWait.getD (sramBank pa) []
  | .dram => (s.slice (proxyDev (stkOfPa pa) pa)).wait
  | _ => []

def waitRoom (pa : Nat) : Nat :=
  match region pa with
  | .tcm => 16
  | .spad => 64
  | .sram => 16
  | .dram => 64
  | _ => 0

def State.setWaiters (s : State) (pa : Nat) (l : List WaitEnt) : State :=
  match region pa with
  | .tcm => s.modCore (coreOfTcm pa) fun c => { c with wait := l }
  | .spad => s.modPolder (polOfSpad pa) fun p => { p with wait := l }
  | .sram => s.modStack (stkOfPa pa) fun k => { k with sramWait := k.sramWait.put [] (sramBank pa) l }
  | .dram => s.modSlice (proxyDev (stkOfPa pa) pa) fun x => { x with wait := l }
  | _ => s

/-- A request joins the table at its tail; a full table refuses it. -/
def State.joinWaiters (s : State) (pa : Nat) (w : WaitEnt) : Bool × State :=
  let l := s.waiters pa
  if l.length < waitRoom pa then (true, s.setWaiters pa (l ++ [w])) else (false, s)

/-! ## Barrier objects (R379) -/

/-- The fields of a barrier object. -/
structure Bar where
  exp : Nat
  arr : Nat
  expB : Nat
  byt : Nat
  flags : Nat
  deriving DecidableEq, Repr

/-- The object at an address; none when it is malformed. -/
def State.barAt (s : State) (pa : Nat) : Option Bar :=
  let f := s.num (pa + 16) 4
  if f < 8 ∧ s.num (pa + 20) 12 = 0 then
    some { exp := s.num pa 4, arr := s.num (pa + 4) 4, expB := s.num (pa + 8) 4, byt := s.num (pa + 12) 4, flags := f }
  else none

def Bar.phase (b : Bar) : Bool := b.flags.testBit 0
def Bar.stopped (b : Bar) : Bool := b.flags.testBit 1
def Bar.overflow (b : Bar) : Bool := b.flags.testBit 2

/-- Flags from their bits. -/
def barFlags (phase stopped overflow : Bool) : Nat :=
  (if phase then 1 else 0) + (if stopped then 2 else 0) + (if overflow then 4 else 0)

/-- A sum that saturates at the expected count, and whether it went beyond. -/
def saturate (cur add limit : Nat) : Nat × Bool := if limit < cur + add then (limit, true) else (cur + add, false)

/-- Adds arrivals and bytes (R379). -/
def Bar.add (b : Bar) (arrivals bytes : Nat) : Bar :=
  let (a, o1) := saturate b.arr arrivals b.exp
  let (n, o2) := saturate b.byt bytes b.expB
  { b with arr := a, byt := n, flags := barFlags b.phase b.stopped (b.overflow || o1 || o2) }

/-- The flip at the end of a phase (R379): whether it happened. -/
def Bar.settle (b : Bar) : Bool × Bar :=
  if b.arr = b.exp ∧ b.byt = b.expB then (true, { b with arr := 0, byt := 0, flags := barFlags (!b.phase) false b.overflow })
  else (false, b)

/-- Serves every `await` on an object (R380). -/
def State.serveAwait (s : State) (pa : Nat) : State :=
  let l := s.waiters pa
  let mine := l.filter fun w => w.pa == pa && w.load.isNone
  let s := s.setWaiters pa (l.filter fun w => !(w.pa == pa && w.load.isNone))
  mine.foldl (fun s w => s.modThread w.thr fun t => { t with prog := .served, wait := .no }) s

/-- Writes an object by one atomic at its memory. -/
def State.putBar (s : State) (pa : Nat) (b : Bar) : State :=
  s.writeRun (stkOfPa pa) pa (leBytes 4 b.exp ++ leBytes 4 b.arr ++ leBytes 4 b.expB ++ leBytes 4 b.byt ++ leBytes 4 b.flags) false true 0

/-- An addition to an object, with the flip and the service of those who wait for it. -/
def State.barAdd (s : State) (pa : Nat) (b : Bar) (arrivals bytes : Nat) : State :=
  match (b.add arrivals bytes).settle with
  | (true, b) => (s.putBar pa b).serveAwait pa
  | (false, b) => s.putBar pa b

/-- The check of an object by a thread (R379, R380): alignment, translation for write, place, contents. -/
def State.withBar (s : State) (va : Nat) (k : Nat → Bar → State → State) : State :=
  if va % 32 ≠ 0 then s.trap 0x03 va
  else s.withObject va 32 fun pa s =>
    match s.barAt pa with
    | none => s.trap 0x05 va
    | some b => k pa b s

/-! ## The instructions (R380) -/

/-- `barinit`. -/
def execBarinit (a b : Nat) (s : State) : Answer :=
  .next (s.withGate [.s a, .s b] [] fun s =>
    let x := (s.sval b).toNat
    if x = 0 then s.trapOpen 0x01
    else s.withBar (s.sval a).toNat fun pa bar s =>
      let bar := { exp := x % 2 ^ 32, arr := 0, expB := x / 2 ^ 32, byt := 0, flags := barFlags bar.phase false false }
      ((s.putBar pa bar).popIf [a, b]).advance 4)

/-- `arrive`: a release at the object's scope. -/
def execArrive (d a : Nat) (s : State) : Answer :=
  .next (s.withGate [.s a] [.s d] fun s =>
    s.withBar (s.sval a).toNat fun pa bar s =>
      let s := (s.releaseAt pa).barAdd pa bar 1 0
      ((s.result (.s d) (.s (if bar.phase then 1 else 0)) true).popIf [a]).advance 4)

/-- `await`: an acquire at the object's scope once the phase has flipped. -/
def execAwait (a b : Nat) (s : State) : Answer :=
  .next (s.withGate [.s a, .s b] [] fun s =>
    s.withBar (s.sval a).toNat fun pa bar s =>
      let w : WaitEnt := { thr := s.thr, load := none, pa := pa }
      if s.me.prog = .served ∨ bar.phase ≠ (s.sval b).getLsbD 0 then
        let s := s.setWaiters pa ((s.waiters pa).erase w)
        s.withAcquire pa fun s => (s.popIf [a, b]).advance 4
      else if (s.waiters pa).contains w then s.park .barrier
      else ((s.joinWaiters pa w).2).park .barrier)

/-- `barbytes`: a release at the object's scope. -/
def execBarbytes (a b : Nat) (s : State) : Answer :=
  .next (s.withGate [.s a, .s b] [] fun s =>
    let n := (s.sval b).toNat
    if 2 ^ 32 ≤ n then s.trapOpen 0x01
    else s.withBar (s.sval a).toNat fun pa bar s =>
      (((s.releaseAt pa).barAdd pa bar 0 n).popIf [a, b]).advance 4)

end Sys2Proof.Machine
end

