-- ==== Sys2Proof/Machine/Special.lean ====
section
/-! DEFINITION. Sys2Proof/Machine/Special.lean: the six special functions whose bits belong to the part (R332, R443): a free value among
the FP32 values that lie within the bound of the exact value, which is computed in fixed point with guard bits far below an ulp. -/

namespace Sys2Proof.Machine

/-! ## Values within a bound -/

/-- The magnitude of an FP32 code as a multiple of 2^-149; infinity counts as 2^128. -/
def codeUnits (c : Nat) : Nat := if c < 2 ^ 23 then c else (2 ^ 23 + c % 2 ^ 23) * 2 ^ (c / 2 ^ 23 - 1)

/-- The codes of the FP32 values within `k` ulp of num/den × 2^e; one ulp is the spacing at the exact value. -/
def codesNear (k num den : Nat) (e : Int) : List Nat :=
  let lo := roundMag 24 (-149) num den e .rz 0
  let ulp := 2 ^ (lo / 2 ^ 23 - 1)
  let v := magFrac num den (e + 149)
  ((List.range 8).filterMap fun i => if lo + i < 4 ∨ 0x7F800000 < lo + i - 4 then none else some (lo + i - 4)).filter fun c =>
    decide (codeUnits c * v.2 ≤ v.1 + k * ulp * v.2) && decide (v.1 ≤ (codeUnits c + k * ulp) * v.2)

/-- The part's own choice among codes, with a sign. (DESIGN CHOICE, log 46.) -/
def choose (neg : Bool) (cs : List Nat) (free : BitVec 32) : BitVec 32 :=
  BitVec.ofNat 32 ((if neg then 0x80000000 else 0) + cs.getD (free.toNat % cs.length) 0)

/-- A value within `k` ulp of num/den × 2^e. -/
def within (k : Nat) (neg : Bool) (num den : Nat) (e : Int) (free : BitVec 32) : BitVec 32 :=
  choose neg (codesNear k num den e) free

/-- A value within 1 ulp, the value itself when FP32 holds it (R443), an infinity beyond its range. -/
def withinOrExact (neg : Bool) (num den : Nat) (e : Int) (free : BitVec 32) : BitVec 32 :=
  let lo := roundMag 24 (-149) num den e .rz 0
  let v := magFrac num den (e + 149)
  if 0x7F800000 ≤ lo then choose neg [0x7F800000] free
  else if codeUnits lo * v.2 = v.1 then choose neg [lo] free else within 1 neg num den e free

/-! ## Fixed point with 256 fraction bits -/

/-- One. -/
def fix1 : Nat := 2 ^ 256

/-- ln 2: the sum of 1/(n 2^n). -/
def fixLn2 : Nat := (List.range 260).foldl (fun a i => a + fix1 / ((i + 1) * 2 ^ (i + 1))) 0

/-- The series of e^f from its `n`th term on. -/
def expSeries (f : Nat) : Nat → Nat → Nat → Nat
  | 0, _, _ => 0
  | k + 1, n, term => term + expSeries f k (n + 1) (term * f / fix1 / (n + 1))

/-- 2^f for a fraction f. -/
def fixExp2 (f : Nat) : Nat := expSeries (f * fixLn2 / fix1) 64 0 fix1

/-- e^x for x ≥ 0: a mantissa in [1, 2) and a power of two. -/
def fixExp (x : Nat) : Nat × Nat :=
  let t := x * fix1 / fixLn2
  (fixExp2 (t % fix1), t / fix1)

/-- `n` bits of the fraction of log2 m for m in [1, 2), by squaring, after the bits `acc`. -/
def log2Bits : Nat → Nat → Nat → Nat
  | 0, _, acc => acc
  | n + 1, m, acc =>
    let q := m * m / fix1
    if 2 * fix1 ≤ q then log2Bits n (q / 2) (2 * acc + 1) else log2Bits n q (2 * acc)

/-! ## The functions -/

/-- 1/a (fn 13). -/
def f32Rcp (free a : BitVec 32) : BitVec 32 :=
  match ofF32 a with
  | .nan => 0x7FC00000
  | .inf neg => if neg then 0x80000000 else 0
  | .fin neg n _ e => if n = 0 then (if neg then 0xFF800000 else 0x7F800000) else withinOrExact neg 1 n (-e) free

/-- 1/√a (fn 14): a root that carries more than 80 bits and a sticky bit stands for the exact one. -/
def f32Rsqrt (free a : BitVec 32) : BitVec 32 :=
  match ofF32 a with
  | .nan => 0x7FC00000
  | .inf neg => if neg then 0x7FC00000 else 0
  | .fin neg n _ e =>
    if n = 0 then (if neg then 0xFF800000 else 0x7F800000)
    else if neg then 0x7FC00000
    else
      let m := sqrtMag n e
      withinOrExact false 1 m.1 (-m.2) free

/-- floor(x) of a finite value. -/
def floorOf (neg : Bool) (num den : Nat) (e : Int) : Int :=
  let f := magFrac num den e
  if neg then -(Int.ofNat ((f.1 + f.2 - 1) / f.2)) else Int.ofNat (f.1 / f.2)

/-- 2^a (fn 16): exact for an integer whose power FP32 holds. -/
def f32Exp2 (free a : BitVec 32) : BitVec 32 :=
  match ofF32 a with
  | .nan => 0x7FC00000
  | .inf neg => if neg then 0 else 0x7F800000
  | .fin neg n d e =>
    let k := floorOf neg n d e
    if 128 ≤ k then 0x7F800000
    else if k < -200 then choose false [0, 1, 2] free
    else
      let f := magFrac n d e
      let r := f.1 % f.2
      if r = 0 then (if -149 ≤ k then toF32 (.pow2 k) else within 2 false 1 1 k free)
      else within 2 false (fixExp2 ((if neg then f.2 - r else r) * fix1 / f.2)) fix1 k free

/-- log2 a (fn 17): exact for a power of two. -/
def f32Log2 (free a : BitVec 32) : BitVec 32 :=
  match ofF32 a with
  | .nan => 0x7FC00000
  | .inf neg => if neg then 0x7FC00000 else 0x7F800000
  | .fin neg n _ e =>
    if n = 0 then 0xFF800000
    else if neg then 0x7FC00000
    else
      let l := n.log2
      let k := Int.ofNat l + e
      if n = 2 ^ l then toF32 (.ofInt k)
      else
        let t := k * 2 ^ 120 + Int.ofNat (log2Bits 120 (n * fix1 / 2 ^ l) 0)
        within 2 (decide (t < 0)) t.natAbs (2 ^ 120) 0 free

/-- tanh a (fn 18). Below 2^-40 it lies just below its argument, from 64 on just below 1. -/
def f32Tanh (free a : BitVec 32) : BitVec 32 :=
  match ofF32 a with
  | .nan => 0x7FC00000
  | .inf neg => if neg then 0xBF800000 else 0x3F800000
  | .fin neg n d e =>
    if n = 0 then a
    else if magLt n d e 1 1 (-40) then within 2 neg (n * 2 ^ 78 - 1) d (e - 78) free
    else if !magLt n d e 64 1 0 then within 2 neg (fix1 - 1) fix1 0 free
    else
      let f := magFrac n d e
      let x := fixExp (2 * f.1 * fix1 / f.2)
      let y := x.1 * 2 ^ x.2
      within 2 neg (y - fix1) (y + fix1) 0 free

/-- 1/(1 + e^-a) (fn 19). -/
def f32Sig (free a : BitVec 32) : BitVec 32 :=
  match ofF32 a with
  | .nan => 0x7FC00000
  | .inf neg => if neg then 0 else 0x3F800000
  | .fin neg n d e =>
    if n = 0 then 0x3F000000
    else if !magLt n d e 128 1 0 then (if neg then choose false [0, 1, 2] free else within 2 false (fix1 - 1) fix1 0 free)
    else
      let f := magFrac n d e
      let x := fixExp (f.1 * fix1 / f.2)
      let y := x.1 * 2 ^ x.2
      within 2 false (if neg then fix1 else y) (y + fix1) 0 free

end Sys2Proof.Machine
end

