-- ==== Sys2Proof/Machine/Vector.lean ====
section
/-! DEFINITION. Sys2Proof/Machine/Vector.lean: the vector, conversion and quantisation instructions of majors 0x20 to 0x28 (R329 to
R341). Each is an operation on what it reads (`VecOp`), so that a slot and the slab's sequencer run the same one. -/

namespace Sys2Proof.Machine

/-! ## What an instruction reads and gives -/

/-- What a vector instruction sees: the lanes of the view, its registers, the old bits of its destination, the format context
and the generator. -/
structure VecIn where
  lanes : Nat
  s : Nat → W64
  v : Nat → Nat
  p : Nat → PReg
  oldV : Nat
  oldP : PReg
  ctx : Ctx
  seed : Nat
  gen : Nat

/-- A vector instruction: its sources in the order of marks (R302), its destination, whether its latency is always long
(R346), whether it reads the format context (R347), the lane it names (R334), and its result with the outputs it draws. -/
structure VecOp where
  srcs : List Desig
  dst : Desig
  slow : Bool
  ctx : Bool
  lane : Nat
  run : VecIn → RVal × Nat

/-- The inputs of an operation for a thread of a core. -/
def vecIn (c : Core) (t : Thread) (lanes : Nat) (dst : Desig) : VecIn :=
  let p (n : Nat) : PReg := if n = 0 then 0xFFFFFFFF else (t.preg n).val
  { lanes := lanes, s := fun n => (t.sreg n).val, v := fun n => (t.vreg n).val.toNat, p := p,
    oldV := match dst with | .v n => if (t.vreg n).st = .idle then 0 else (t.vreg n).val.toNat | _ => 0,
    oldP := match dst with | .p n => if (t.preg n).st = .idle then 0 else p n | _ => 0,
    ctx := c.ctx, seed := t.seed.toNat, gen := t.gen.toNat }

/-- A vector instruction of a slot (R329, R346, R348); one that reads the context waits for an `mcfg` of its core (R350). -/
def State.runVec (s : State) (size : Nat) (op : VecOp) : State :=
  s.notDonorSlot fun s =>
  if op.ctx ∧ s.myCore.mcfgBusy.isSome then s.park .matrix
  else
    s.withGate op.srcs [op.dst] fun s =>
      let lanes := s.lanes s.thr
      if lanes ≤ op.lane then s.trap 0x01 op.lane
      else
        let (val, drawn) := op.run (vecIn s.myCore s.me lanes op.dst)
        let s := s.modMe fun t => { t with gen := t.gen + BitVec.ofNat 64 drawn }
        (s.result op.dst val (op.slow || s.me.long)).advance size

/-! ## Elements under a predicate (R329, R330) -/

/-- Element by element of width `w`; a masked lane keeps the old bits. -/
def mapElems (x : VecIn) (w pr : Nat) (f : Nat → Nat) : RVal :=
  .v (BitVec.ofNat 1024 (ofElems w ((List.range (x.lanes * 32 / w)).map fun k =>
    if (x.p pr).getLsbD (k * w / 32) then f k % 2 ^ w else elemOf w x.oldV k)))

/-- A compare: one bit for each active lane, set when it holds in every element of the lane. -/
def cmpElems (x : VecIn) (w pr : Nat) (f : Nat → Bool) : RVal :=
  let e := 32 / w
  .p (BitVec.ofNat 32 (ofElems 1 ((List.range x.lanes).map fun i =>
    if (x.p pr).getLsbD i then (if (List.range e).all fun j => f (e * i + j) then 1 else 0)
    else if x.oldP.getLsbD i then 1 else 0)))

/-- Lanes made without regard to the predicate. -/
def allLanes (x : VecIn) (f : Nat → Nat) : RVal := .v (BitVec.ofNat 1024 (ofLanes x.lanes f))

/-- A predicate made of the low bits of a number. -/
def predBits (x : VecIn) (b : Nat) : RVal := .p (BitVec.ofNat 32 (b % 2 ^ x.lanes))

/-! ## Floating-point elements (R331, R332) -/

/-- An element of a register, decoded. -/
def VecIn.fv (x : VecIn) (f : Fmt) (r k : Nat) : FV := fmtDecode f (elemOf (fmtWidth f) (x.v r) k)

/-- One rounding with `rne` (R331). -/
def rneCode (f : Fmt) (v : FV) : Nat := roundTo v f .rne false 0

/-- The operation of one, two and three sources, and a compare. -/
def fop1 (f : Fmt) (vd va pr : Nat) (op : FV → FV) : VecOp :=
  { srcs := [.v va, .p pr], dst := .v vd, slow := false, ctx := false, lane := 0,
    run := fun x => (mapElems x (fmtWidth f) pr fun k => rneCode f (op (x.fv f va k)), 0) }
def fop2 (f : Fmt) (vd va vb pr : Nat) (op : FV → FV → FV) : VecOp :=
  { srcs := [.v va, .v vb, .p pr], dst := .v vd, slow := false, ctx := false, lane := 0,
    run := fun x => (mapElems x (fmtWidth f) pr fun k => rneCode f (op (x.fv f va k) (x.fv f vb k)), 0) }
def fop3 (f : Fmt) (vd va vb vc pr : Nat) (op : FV → FV → FV → FV) : VecOp :=
  { srcs := [.v va, .v vb, .v vc, .p pr], dst := .v vd, slow := false, ctx := false, lane := 0,
    run := fun x => (mapElems x (fmtWidth f) pr fun k => rneCode f (op (x.fv f va k) (x.fv f vb k) (x.fv f vc k)), 0) }
def fcmp (f : Fmt) (vd va vb pr : Nat) (op : FV → FV → Bool) : VecOp :=
  { srcs := [.v va, .v vb, .p pr], dst := .p vd, slow := false, ctx := false, lane := 0,
    run := fun x => (cmpElems x (fmtWidth f) pr fun k => op (x.fv f va k) (x.fv f vb k), 0) }

/-- a × b + c, a × b − c and −(a × b) + c, exactly. -/
def fma (a b c : FV) : FV := (a.mul b).add c
def fms (a b c : FV) : FV := (a.mul b).sub c
def fnma (a b c : FV) : FV := (a.mul b).neg.add c

/-- Less than or equal (R265). -/
def FV.le (a b : FV) : Bool := a.lt b || a.eq b

/-- A special function: always of long latency (R346). -/
def fspecial (vd va pr : Nat) (op : BitVec 32 → BitVec 32) : VecOp :=
  { srcs := [.v va, .p pr], dst := .v vd, slow := true, ctx := false, lane := 0,
    run := fun x => (mapElems x 32 pr fun k => (op (BitVec.ofNat 32 (elemOf 32 (x.v va) k))).toNat, 0) }

/-! ## Integer elements (R333) -/

/-- The width of an element type. -/
def tyWidth : IntTy → Nat
  | .i32 => 32
  | .i16 => 16
  | .i8 => 8

/-- Integer operations of one, two and three sources, and a compare. -/
def iop1 (ty : IntTy) (vd va pr : Nat) (op : Nat → Nat → Nat) : VecOp :=
  let w := tyWidth ty
  { srcs := [.v va, .p pr], dst := .v vd, slow := false, ctx := false, lane := 0,
    run := fun x => (mapElems x w pr fun k => op w (elemOf w (x.v va) k), 0) }
def iop2 (ty : IntTy) (vd va vb pr : Nat) (op : Nat → Nat → Nat → Nat) : VecOp :=
  let w := tyWidth ty
  { srcs := [.v va, .v vb, .p pr], dst := .v vd, slow := false, ctx := false, lane := 0,
    run := fun x => (mapElems x w pr fun k => op w (elemOf w (x.v va) k) (elemOf w (x.v vb) k), 0) }
def iop3 (ty : IntTy) (vd va vb vc pr : Nat) (op : Nat → Nat → Nat → Nat → Nat) : VecOp :=
  let w := tyWidth ty
  { srcs := [.v va, .v vb, .v vc, .p pr], dst := .v vd, slow := false, ctx := false, lane := 0,
    run := fun x => (mapElems x w pr fun k => op w (elemOf w (x.v va) k) (elemOf w (x.v vb) k) (elemOf w (x.v vc) k), 0) }
def icmp (ty : IntTy) (vd va vb pr : Nat) (op : Nat → Nat → Nat → Bool) : VecOp :=
  let w := tyWidth ty
  { srcs := [.v va, .v vb, .p pr], dst := .p vd, slow := false, ctx := false, lane := 0,
    run := fun x => (cmpElems x w pr fun k => op w (elemOf w (x.v va) k) (elemOf w (x.v vb) k), 0) }

/-- `mad` and `abs`, and the bitwise functions, on `w`-bit elements. -/
def opMad (w a b c : Nat) : Nat := (a * b + c) % 2 ^ w
def opAbs (w a : Nat) : Nat := wrap w (Int.ofNat (sgn w a).natAbs)
def opAnd (_w a b : Nat) : Nat := Nat.land a b
def opOr (_w a b : Nat) : Nat := Nat.lor a b
def opXor (_w a b : Nat) : Nat := Nat.xor a b
def opCmpeq (_w a b : Nat) : Bool := a == b
def opCmplt (w a b : Nat) : Bool := decide (sgn w a < sgn w b)
def opCmpltu (_w a b : Nat) : Bool := decide (a < b)

/-! ## Permutes (R334) -/

/-- A permute of lanes of one or two vectors under R329. -/
def permute (srcs : List Desig) (vd pr : Nat) (f : VecIn → Nat → Nat) : VecOp :=
  { srcs := srcs ++ [.p pr], dst := .v vd, slow := false, ctx := false, lane := 0, run := fun x => (mapElems x 32 pr (f x), 0) }

/-- How many lanes below `i` are active: the place of lane `i` among the active ones. -/
def rankOf (p : PReg) (i : Nat) : Nat := (activeLanes i p).length

/-! ## Reductions (R280, R335) -/

/-- A level of the tree: adjacent pairs combine, an absent member passes the other on. -/
def pairUp (f : Nat → Nat → Nat) : List (Option Nat) → List (Option Nat)
  | a :: b :: r =>
    (match a, b with
      | some x, some y => some (f x y)
      | some x, none => some x
      | none, y => y) :: pairUp f r
  | r => r

/-- The tree, level after level. -/
def treeOf (f : Nat → Nat → Nat) : Nat → List (Option Nat) → Option Nat
  | 0, l => l.headD none
  | n + 1, l => treeOf f n (pairUp f l)

/-- A reduction: lane 0 takes the result, every other lane 0. -/
def reduceOp (vd va pr : Nat) (empty : Nat) (inp : Nat → Nat) (f : Nat → Nat → Nat) : VecOp :=
  { srcs := [.v va, .p pr], dst := .v vd, slow := true, ctx := false, lane := 0,
    run := fun x =>
      let l := (List.range 32).map fun i => if i < x.lanes ∧ (x.p pr).getLsbD i then some (inp (laneOf (x.v va) i)) else none
      (allLanes x fun i => if i = 0 then (treeOf f 5 l).getD empty else 0, 0) }

/-- A NaN lane counts as the canonical NaN (R335). -/
def canonLane (a : Nat) : Nat := if 0x7F800000 < a % 2 ^ 31 then 0x7FC00000 else a

/-- An FP32 function of two lanes. -/
def f32fn (f : BitVec 32 → BitVec 32 → BitVec 32) (a b : Nat) : Nat := (f (BitVec.ofNat 32 a) (BitVec.ofNat 32 b)).toNat

/-! ## Predicates (R336) -/

/-- A predicate made of predicates. -/
def predOp (srcs : List Desig) (pd : Nat) (f : VecIn → Nat) : VecOp :=
  { srcs := srcs, dst := .p pd, slow := false, ctx := false, lane := 0, run := fun x => (predBits x (f x), 0) }

/-- A scalar made of a predicate. -/
def predScalar (sd pa : Nat) (f : VecIn → Nat) : VecOp :=
  { srcs := [.p pa], dst := .s sd, slow := false, ctx := false, lane := 0, run := fun x => (.s (BitVec.ofNat 64 (f x)), 0) }

/-! ## Conversions (R337, R338) -/

/-- The scale byte of element `k`: byte floor(k / 32) of the scale register, or 127. -/
def VecIn.scale (x : VecIn) (w : CvtWord) (k : Nat) : Nat :=
  match w.scale with
  | some vs => elemOf 8 (x.v vs) (k / 32)
  | none => 127

/-- The three conversions on one decoded element: scale, table, element, random bits. -/
def cvtElem (w : CvtWord) (_t : CompTable) (_e : Nat) (v : FV) (rb : Nat) : Nat := roundTo v w.dst w.rnd w.sat rb

/-- `qnt`: scale 255 gives NaN (R274). -/
def qntElem (w : CvtWord) (t : CompTable) (e : Nat) (v : FV) (rb : Nat) : Nat :=
  let v := if e = 255 then .nan else v.scale (127 - Int.ofNat e)
  roundTo (if w.cmp then compand t v else v) w.dst w.rnd w.sat rb

/-- `dqnt`: its one rounding is `rne`. -/
def dqntElem (w : CvtWord) (t : CompTable) (e : Nat) (v : FV) (_rb : Nat) : Nat :=
  let v := if w.cmp then invert t v else v
  roundTo (if e = 255 then .nan else v.scale (Int.ofNat e - 127)) w.dst .rne w.sat 0

/-- A conversion of the elements of a register (R338); under `sr` the active elements draw (R271). -/
def convert (vd va pr : Nat) (w : CvtWord) (draws : Bool) (f : CvtWord → CompTable → Nat → FV → Nat → Nat) : VecOp :=
  { srcs := .v va :: ((match w.scale with | some vs => [.v vs] | none => []) ++ [.p pr]), dst := .v vd, slow := false,
    ctx := w.cmp, lane := 0,
    run := fun x =>
      let sw := fmtWidth w.src
      let tw := fmtWidth w.dst
      let n := x.lanes * 32 / max sw tw
      let act := (List.range n).filter fun k => (x.p pr).getLsbD (k * sw / 32)
      let elem (k : Nat) : Nat :=
        if act.contains k then
          f w x.ctx.table (x.scale w k) (fmtDecode w.src (elemOf sw (x.v va) k))
            (genBits x.seed x.gen (act.filter fun j => decide (j < k)).length)
        else elemOf tw x.oldV k
      (.v (BitVec.ofNat 1024 (ofElems tw ((List.range n).map elem))), if draws && w.rnd == .sr then genDrawn act.length else 0) }

/-! ## Scales and companding (R340, R341) -/

/-- A format from its byte in a context (R349); a context holds only legal ones. -/
def ctxFmt (b : Nat) : Fmt := (Fmt.ofCode b).getD .f32

/-- `vscl`: the scale byte of the greatest magnitude among the active lanes. -/
def scaleOp (vd va pr : Nat) : VecOp :=
  { srcs := [.v va, .p pr], dst := .v vd, slow := true, ctx := true, lane := 0,
    run := fun x =>
      let m := (activeLanes x.lanes (x.p pr)).foldl (fun m i => m.max (f32Val (laneOf (x.v va) i)).abs) (FV.zero false)
      (allLanes x fun i => if i = 0 then scaleFor m (ctxFmt x.ctx.afmt) else 0, 0) }

/-- `comp` and `dcomp`: the scale byte of a lane stands in the low byte of the other register's lane. -/
def tableOp (vd va vb pr : Nat) (f : CompTable → Nat → FV → FV) : VecOp :=
  { srcs := [.v va, .v vb, .p pr], dst := .v vd, slow := false, ctx := true, lane := 0,
    run := fun x => (mapElems x 32 pr fun i =>
      let e := laneOf (x.v vb) i % 256
      if e = 255 then fmtNan .f32 else (toF32 (f x.ctx.table e (f32Val (laneOf (x.v va) i)))).toNat, 0) }

/-! ## The instructions -/

/-- `vf32_add`: what it reads and gives. -/
def vf32AddOp (vd va vb pr : Nat) : VecOp :=
  fop2 .f32 vd va vb pr FV.add

/-- `vf32_add` in a slot. -/
def execVf32Add (vd va vb pr : Nat) (s : State) : Answer := .next (s.runVec 4 (vf32AddOp vd va vb pr))

/-- `vf32_sub`: what it reads and gives. -/
def vf32SubOp (vd va vb pr : Nat) : VecOp :=
  fop2 .f32 vd va vb pr FV.sub

/-- `vf32_sub` in a slot. -/
def execVf32Sub (vd va vb pr : Nat) (s : State) : Answer := .next (s.runVec 4 (vf32SubOp vd va vb pr))

/-- `vf32_mul`: what it reads and gives. -/
def vf32MulOp (vd va vb pr : Nat) : VecOp :=
  fop2 .f32 vd va vb pr FV.mul

/-- `vf32_mul` in a slot. -/
def execVf32Mul (vd va vb pr : Nat) (s : State) : Answer := .next (s.runVec 4 (vf32MulOp vd va vb pr))

/-- `vf32_fma`: what it reads and gives. -/
def vf32FmaOp (vd va vb vc pr : Nat) : VecOp :=
  fop3 .f32 vd va vb vc pr fma

/-- `vf32_fma` in a slot. -/
def execVf32Fma (vd va vb vc pr : Nat) (s : State) : Answer := .next (s.runVec 4 (vf32FmaOp vd va vb vc pr))

/-- `vf32_fms`: what it reads and gives. -/
def vf32FmsOp (vd va vb vc pr : Nat) : VecOp :=
  fop3 .f32 vd va vb vc pr fms

/-- `vf32_fms` in a slot. -/
def execVf32Fms (vd va vb vc pr : Nat) (s : State) : Answer := .next (s.runVec 4 (vf32FmsOp vd va vb vc pr))

/-- `vf32_fnma`: what it reads and gives. -/
def vf32FnmaOp (vd va vb vc pr : Nat) : VecOp :=
  fop3 .f32 vd va vb vc pr fnma

/-- `vf32_fnma` in a slot. -/
def execVf32Fnma (vd va vb vc pr : Nat) (s : State) : Answer := .next (s.runVec 4 (vf32FnmaOp vd va vb vc pr))

/-- `vf32_min`: what it reads and gives. -/
def vf32MinOp (vd va vb pr : Nat) : VecOp :=
  fop2 .f32 vd va vb pr FV.min

/-- `vf32_min` in a slot. -/
def execVf32Min (vd va vb pr : Nat) (s : State) : Answer := .next (s.runVec 4 (vf32MinOp vd va vb pr))

/-- `vf32_max`: what it reads and gives. -/
def vf32MaxOp (vd va vb pr : Nat) : VecOp :=
  fop2 .f32 vd va vb pr FV.max

/-- `vf32_max` in a slot. -/
def execVf32Max (vd va vb pr : Nat) (s : State) : Answer := .next (s.runVec 4 (vf32MaxOp vd va vb pr))

/-- `vf32_abs`: what it reads and gives. -/
def vf32AbsOp (vd va pr : Nat) : VecOp :=
  fop1 .f32 vd va pr FV.abs

/-- `vf32_abs` in a slot. -/
def execVf32Abs (vd va pr : Nat) (s : State) : Answer := .next (s.runVec 4 (vf32AbsOp vd va pr))

/-- `vf32_neg`: what it reads and gives. -/
def vf32NegOp (vd va pr : Nat) : VecOp :=
  fop1 .f32 vd va pr FV.neg

/-- `vf32_neg` in a slot. -/
def execVf32Neg (vd va pr : Nat) (s : State) : Answer := .next (s.runVec 4 (vf32NegOp vd va pr))

/-- `vf32_cmpeq`: what it reads and gives. -/
def vf32CmpeqOp (vd va vb pr : Nat) : VecOp :=
  fcmp .f32 vd va vb pr FV.eq

/-- `vf32_cmpeq` in a slot. -/
def execVf32Cmpeq (vd va vb pr : Nat) (s : State) : Answer := .next (s.runVec 4 (vf32CmpeqOp vd va vb pr))

/-- `vf32_cmplt`: what it reads and gives. -/
def vf32CmpltOp (vd va vb pr : Nat) : VecOp :=
  fcmp .f32 vd va vb pr FV.lt

/-- `vf32_cmplt` in a slot. -/
def execVf32Cmplt (vd va vb pr : Nat) (s : State) : Answer := .next (s.runVec 4 (vf32CmpltOp vd va vb pr))

/-- `vf32_cmple`: what it reads and gives. -/
def vf32CmpleOp (vd va vb pr : Nat) : VecOp :=
  fcmp .f32 vd va vb pr FV.le

/-- `vf32_cmple` in a slot. -/
def execVf32Cmple (vd va vb pr : Nat) (s : State) : Answer := .next (s.runVec 4 (vf32CmpleOp vd va vb pr))

/-- `vf32_rcp`: what it reads and gives. -/
def vf32RcpOp (vd va pr : Nat) : VecOp :=
  fspecial vd va pr fun a => f32Rcp (Config.special 13 a) a

/-- `vf32_rcp` in a slot. -/
def execVf32Rcp (vd va pr : Nat) (s : State) : Answer := .next (s.runVec 4 (vf32RcpOp vd va pr))

/-- `vf32_rsqrt`: what it reads and gives. -/
def vf32RsqrtOp (vd va pr : Nat) : VecOp :=
  fspecial vd va pr fun a => f32Rsqrt (Config.special 14 a) a

/-- `vf32_rsqrt` in a slot. -/
def execVf32Rsqrt (vd va pr : Nat) (s : State) : Answer := .next (s.runVec 4 (vf32RsqrtOp vd va pr))

/-- `vf32_sqrt`: what it reads and gives. -/
def vf32SqrtOp (vd va pr : Nat) : VecOp :=
  fspecial vd va pr fun a => toF32 (fvSqrt (ofF32 a))

/-- `vf32_sqrt` in a slot. -/
def execVf32Sqrt (vd va pr : Nat) (s : State) : Answer := .next (s.runVec 4 (vf32SqrtOp vd va pr))

/-- `vf32_exp2`: what it reads and gives. -/
def vf32Exp2Op (vd va pr : Nat) : VecOp :=
  fspecial vd va pr fun a => f32Exp2 (Config.special 16 a) a

/-- `vf32_exp2` in a slot. -/
def execVf32Exp2 (vd va pr : Nat) (s : State) : Answer := .next (s.runVec 4 (vf32Exp2Op vd va pr))

/-- `vf32_log2`: what it reads and gives. -/
def vf32Log2Op (vd va pr : Nat) : VecOp :=
  fspecial vd va pr fun a => f32Log2 (Config.special 17 a) a

/-- `vf32_log2` in a slot. -/
def execVf32Log2 (vd va pr : Nat) (s : State) : Answer := .next (s.runVec 4 (vf32Log2Op vd va pr))

/-- `vf32_tanh`: what it reads and gives. -/
def vf32TanhOp (vd va pr : Nat) : VecOp :=
  fspecial vd va pr fun a => f32Tanh (Config.special 18 a) a

/-- `vf32_tanh` in a slot. -/
def execVf32Tanh (vd va pr : Nat) (s : State) : Answer := .next (s.runVec 4 (vf32TanhOp vd va pr))

/-- `vf32_sig`: what it reads and gives. -/
def vf32SigOp (vd va pr : Nat) : VecOp :=
  fspecial vd va pr fun a => f32Sig (Config.special 19 a) a

/-- `vf32_sig` in a slot. -/
def execVf32Sig (vd va pr : Nat) (s : State) : Answer := .next (s.runVec 4 (vf32SigOp vd va pr))

/-- `vbf16_add`: what it reads and gives. -/
def vbf16AddOp (vd va vb pr : Nat) : VecOp :=
  fop2 .bf16 vd va vb pr FV.add

/-- `vbf16_add` in a slot. -/
def execVbf16Add (vd va vb pr : Nat) (s : State) : Answer := .next (s.runVec 4 (vbf16AddOp vd va vb pr))

/-- `vbf16_sub`: what it reads and gives. -/
def vbf16SubOp (vd va vb pr : Nat) : VecOp :=
  fop2 .bf16 vd va vb pr FV.sub

/-- `vbf16_sub` in a slot. -/
def execVbf16Sub (vd va vb pr : Nat) (s : State) : Answer := .next (s.runVec 4 (vbf16SubOp vd va vb pr))

/-- `vbf16_mul`: what it reads and gives. -/
def vbf16MulOp (vd va vb pr : Nat) : VecOp :=
  fop2 .bf16 vd va vb pr FV.mul

/-- `vbf16_mul` in a slot. -/
def execVbf16Mul (vd va vb pr : Nat) (s : State) : Answer := .next (s.runVec 4 (vbf16MulOp vd va vb pr))

/-- `vbf16_fma`: what it reads and gives. -/
def vbf16FmaOp (vd va vb vc pr : Nat) : VecOp :=
  fop3 .bf16 vd va vb vc pr fma

/-- `vbf16_fma` in a slot. -/
def execVbf16Fma (vd va vb vc pr : Nat) (s : State) : Answer := .next (s.runVec 4 (vbf16FmaOp vd va vb vc pr))

/-- `vbf16_fms`: what it reads and gives. -/
def vbf16FmsOp (vd va vb vc pr : Nat) : VecOp :=
  fop3 .bf16 vd va vb vc pr fms

/-- `vbf16_fms` in a slot. -/
def execVbf16Fms (vd va vb vc pr : Nat) (s : State) : Answer := .next (s.runVec 4 (vbf16FmsOp vd va vb vc pr))

/-- `vbf16_fnma`: what it reads and gives. -/
def vbf16FnmaOp (vd va vb vc pr : Nat) : VecOp :=
  fop3 .bf16 vd va vb vc pr fnma

/-- `vbf16_fnma` in a slot. -/
def execVbf16Fnma (vd va vb vc pr : Nat) (s : State) : Answer := .next (s.runVec 4 (vbf16FnmaOp vd va vb vc pr))

/-- `vbf16_min`: what it reads and gives. -/
def vbf16MinOp (vd va vb pr : Nat) : VecOp :=
  fop2 .bf16 vd va vb pr FV.min

/-- `vbf16_min` in a slot. -/
def execVbf16Min (vd va vb pr : Nat) (s : State) : Answer := .next (s.runVec 4 (vbf16MinOp vd va vb pr))

/-- `vbf16_max`: what it reads and gives. -/
def vbf16MaxOp (vd va vb pr : Nat) : VecOp :=
  fop2 .bf16 vd va vb pr FV.max

/-- `vbf16_max` in a slot. -/
def execVbf16Max (vd va vb pr : Nat) (s : State) : Answer := .next (s.runVec 4 (vbf16MaxOp vd va vb pr))

/-- `vbf16_abs`: what it reads and gives. -/
def vbf16AbsOp (vd va pr : Nat) : VecOp :=
  fop1 .bf16 vd va pr FV.abs

/-- `vbf16_abs` in a slot. -/
def execVbf16Abs (vd va pr : Nat) (s : State) : Answer := .next (s.runVec 4 (vbf16AbsOp vd va pr))

/-- `vbf16_neg`: what it reads and gives. -/
def vbf16NegOp (vd va pr : Nat) : VecOp :=
  fop1 .bf16 vd va pr FV.neg

/-- `vbf16_neg` in a slot. -/
def execVbf16Neg (vd va pr : Nat) (s : State) : Answer := .next (s.runVec 4 (vbf16NegOp vd va pr))

/-- `vbf16_cmpeq`: what it reads and gives. -/
def vbf16CmpeqOp (vd va vb pr : Nat) : VecOp :=
  fcmp .bf16 vd va vb pr FV.eq

/-- `vbf16_cmpeq` in a slot. -/
def execVbf16Cmpeq (vd va vb pr : Nat) (s : State) : Answer := .next (s.runVec 4 (vbf16CmpeqOp vd va vb pr))

/-- `vbf16_cmplt`: what it reads and gives. -/
def vbf16CmpltOp (vd va vb pr : Nat) : VecOp :=
  fcmp .bf16 vd va vb pr FV.lt

/-- `vbf16_cmplt` in a slot. -/
def execVbf16Cmplt (vd va vb pr : Nat) (s : State) : Answer := .next (s.runVec 4 (vbf16CmpltOp vd va vb pr))

/-- `vbf16_cmple`: what it reads and gives. -/
def vbf16CmpleOp (vd va vb pr : Nat) : VecOp :=
  fcmp .bf16 vd va vb pr FV.le

/-- `vbf16_cmple` in a slot. -/
def execVbf16Cmple (vd va vb pr : Nat) (s : State) : Answer := .next (s.runVec 4 (vbf16CmpleOp vd va vb pr))

/-- `vf16_add`: what it reads and gives. -/
def vf16AddOp (vd va vb pr : Nat) : VecOp :=
  fop2 .f16 vd va vb pr FV.add

/-- `vf16_add` in a slot. -/
def execVf16Add (vd va vb pr : Nat) (s : State) : Answer := .next (s.runVec 4 (vf16AddOp vd va vb pr))

/-- `vf16_sub`: what it reads and gives. -/
def vf16SubOp (vd va vb pr : Nat) : VecOp :=
  fop2 .f16 vd va vb pr FV.sub

/-- `vf16_sub` in a slot. -/
def execVf16Sub (vd va vb pr : Nat) (s : State) : Answer := .next (s.runVec 4 (vf16SubOp vd va vb pr))

/-- `vf16_mul`: what it reads and gives. -/
def vf16MulOp (vd va vb pr : Nat) : VecOp :=
  fop2 .f16 vd va vb pr FV.mul

/-- `vf16_mul` in a slot. -/
def execVf16Mul (vd va vb pr : Nat) (s : State) : Answer := .next (s.runVec 4 (vf16MulOp vd va vb pr))

/-- `vf16_fma`: what it reads and gives. -/
def vf16FmaOp (vd va vb vc pr : Nat) : VecOp :=
  fop3 .f16 vd va vb vc pr fma

/-- `vf16_fma` in a slot. -/
def execVf16Fma (vd va vb vc pr : Nat) (s : State) : Answer := .next (s.runVec 4 (vf16FmaOp vd va vb vc pr))

/-- `vf16_fms`: what it reads and gives. -/
def vf16FmsOp (vd va vb vc pr : Nat) : VecOp :=
  fop3 .f16 vd va vb vc pr fms

/-- `vf16_fms` in a slot. -/
def execVf16Fms (vd va vb vc pr : Nat) (s : State) : Answer := .next (s.runVec 4 (vf16FmsOp vd va vb vc pr))

/-- `vf16_fnma`: what it reads and gives. -/
def vf16FnmaOp (vd va vb vc pr : Nat) : VecOp :=
  fop3 .f16 vd va vb vc pr fnma

/-- `vf16_fnma` in a slot. -/
def execVf16Fnma (vd va vb vc pr : Nat) (s : State) : Answer := .next (s.runVec 4 (vf16FnmaOp vd va vb vc pr))

/-- `vf16_min`: what it reads and gives. -/
def vf16MinOp (vd va vb pr : Nat) : VecOp :=
  fop2 .f16 vd va vb pr FV.min

/-- `vf16_min` in a slot. -/
def execVf16Min (vd va vb pr : Nat) (s : State) : Answer := .next (s.runVec 4 (vf16MinOp vd va vb pr))

/-- `vf16_max`: what it reads and gives. -/
def vf16MaxOp (vd va vb pr : Nat) : VecOp :=
  fop2 .f16 vd va vb pr FV.max

/-- `vf16_max` in a slot. -/
def execVf16Max (vd va vb pr : Nat) (s : State) : Answer := .next (s.runVec 4 (vf16MaxOp vd va vb pr))

/-- `vf16_abs`: what it reads and gives. -/
def vf16AbsOp (vd va pr : Nat) : VecOp :=
  fop1 .f16 vd va pr FV.abs

/-- `vf16_abs` in a slot. -/
def execVf16Abs (vd va pr : Nat) (s : State) : Answer := .next (s.runVec 4 (vf16AbsOp vd va pr))

/-- `vf16_neg`: what it reads and gives. -/
def vf16NegOp (vd va pr : Nat) : VecOp :=
  fop1 .f16 vd va pr FV.neg

/-- `vf16_neg` in a slot. -/
def execVf16Neg (vd va pr : Nat) (s : State) : Answer := .next (s.runVec 4 (vf16NegOp vd va pr))

/-- `vf16_cmpeq`: what it reads and gives. -/
def vf16CmpeqOp (vd va vb pr : Nat) : VecOp :=
  fcmp .f16 vd va vb pr FV.eq

/-- `vf16_cmpeq` in a slot. -/
def execVf16Cmpeq (vd va vb pr : Nat) (s : State) : Answer := .next (s.runVec 4 (vf16CmpeqOp vd va vb pr))

/-- `vf16_cmplt`: what it reads and gives. -/
def vf16CmpltOp (vd va vb pr : Nat) : VecOp :=
  fcmp .f16 vd va vb pr FV.lt

/-- `vf16_cmplt` in a slot. -/
def execVf16Cmplt (vd va vb pr : Nat) (s : State) : Answer := .next (s.runVec 4 (vf16CmpltOp vd va vb pr))

/-- `vf16_cmple`: what it reads and gives. -/
def vf16CmpleOp (vd va vb pr : Nat) : VecOp :=
  fcmp .f16 vd va vb pr FV.le

/-- `vf16_cmple` in a slot. -/
def execVf16Cmple (vd va vb pr : Nat) (s : State) : Answer := .next (s.runVec 4 (vf16CmpleOp vd va vb pr))

/-- `vint_add`: what it reads and gives. -/
def vintAddOp (vd va vb pr : Nat) (ty : IntTy) : VecOp :=
  iop2 ty vd va vb pr opAdd

/-- `vint_add` in a slot. -/
def execVintAdd (vd va vb pr : Nat) (ty : IntTy) (s : State) : Answer := .next (s.runVec 4 (vintAddOp vd va vb pr ty))

/-- `vint_sub`: what it reads and gives. -/
def vintSubOp (vd va vb pr : Nat) (ty : IntTy) : VecOp :=
  iop2 ty vd va vb pr opSub

/-- `vint_sub` in a slot. -/
def execVintSub (vd va vb pr : Nat) (ty : IntTy) (s : State) : Answer := .next (s.runVec 4 (vintSubOp vd va vb pr ty))

/-- `vint_mul`: what it reads and gives. -/
def vintMulOp (vd va vb pr : Nat) (ty : IntTy) : VecOp :=
  iop2 ty vd va vb pr opMul

/-- `vint_mul` in a slot. -/
def execVintMul (vd va vb pr : Nat) (ty : IntTy) (s : State) : Answer := .next (s.runVec 4 (vintMulOp vd va vb pr ty))

/-- `vint_mad`: what it reads and gives. -/
def vintMadOp (vd va vb vc pr : Nat) (ty : IntTy) : VecOp :=
  iop3 ty vd va vb vc pr opMad

/-- `vint_mad` in a slot. -/
def execVintMad (vd va vb vc pr : Nat) (ty : IntTy) (s : State) : Answer := .next (s.runVec 4 (vintMadOp vd va vb vc pr ty))

/-- `vint_min`: what it reads and gives. -/
def vintMinOp (vd va vb pr : Nat) (ty : IntTy) : VecOp :=
  iop2 ty vd va vb pr opMin

/-- `vint_min` in a slot. -/
def execVintMin (vd va vb pr : Nat) (ty : IntTy) (s : State) : Answer := .next (s.runVec 4 (vintMinOp vd va vb pr ty))

/-- `vint_max`: what it reads and gives. -/
def vintMaxOp (vd va vb pr : Nat) (ty : IntTy) : VecOp :=
  iop2 ty vd va vb pr opMax

/-- `vint_max` in a slot. -/
def execVintMax (vd va vb pr : Nat) (ty : IntTy) (s : State) : Answer := .next (s.runVec 4 (vintMaxOp vd va vb pr ty))

/-- `vint_minu`: what it reads and gives. -/
def vintMinuOp (vd va vb pr : Nat) (ty : IntTy) : VecOp :=
  iop2 ty vd va vb pr opMinu

/-- `vint_minu` in a slot. -/
def execVintMinu (vd va vb pr : Nat) (ty : IntTy) (s : State) : Answer := .next (s.runVec 4 (vintMinuOp vd va vb pr ty))

/-- `vint_maxu`: what it reads and gives. -/
def vintMaxuOp (vd va vb pr : Nat) (ty : IntTy) : VecOp :=
  iop2 ty vd va vb pr opMaxu

/-- `vint_maxu` in a slot. -/
def execVintMaxu (vd va vb pr : Nat) (ty : IntTy) (s : State) : Answer := .next (s.runVec 4 (vintMaxuOp vd va vb pr ty))

/-- `vint_and`: what it reads and gives. -/
def vintAndOp (vd va vb pr : Nat) (ty : IntTy) : VecOp :=
  iop2 ty vd va vb pr opAnd

/-- `vint_and` in a slot. -/
def execVintAnd (vd va vb pr : Nat) (ty : IntTy) (s : State) : Answer := .next (s.runVec 4 (vintAndOp vd va vb pr ty))

/-- `vint_or`: what it reads and gives. -/
def vintOrOp (vd va vb pr : Nat) (ty : IntTy) : VecOp :=
  iop2 ty vd va vb pr opOr

/-- `vint_or` in a slot. -/
def execVintOr (vd va vb pr : Nat) (ty : IntTy) (s : State) : Answer := .next (s.runVec 4 (vintOrOp vd va vb pr ty))

/-- `vint_xor`: what it reads and gives. -/
def vintXorOp (vd va vb pr : Nat) (ty : IntTy) : VecOp :=
  iop2 ty vd va vb pr opXor

/-- `vint_xor` in a slot. -/
def execVintXor (vd va vb pr : Nat) (ty : IntTy) (s : State) : Answer := .next (s.runVec 4 (vintXorOp vd va vb pr ty))

/-- `vint_sll`: what it reads and gives. -/
def vintSllOp (vd va vb pr : Nat) (ty : IntTy) : VecOp :=
  iop2 ty vd va vb pr opSll

/-- `vint_sll` in a slot. -/
def execVintSll (vd va vb pr : Nat) (ty : IntTy) (s : State) : Answer := .next (s.runVec 4 (vintSllOp vd va vb pr ty))

/-- `vint_srl`: what it reads and gives. -/
def vintSrlOp (vd va vb pr : Nat) (ty : IntTy) : VecOp :=
  iop2 ty vd va vb pr opSrl

/-- `vint_srl` in a slot. -/
def execVintSrl (vd va vb pr : Nat) (ty : IntTy) (s : State) : Answer := .next (s.runVec 4 (vintSrlOp vd va vb pr ty))

/-- `vint_sra`: what it reads and gives. -/
def vintSraOp (vd va vb pr : Nat) (ty : IntTy) : VecOp :=
  iop2 ty vd va vb pr opSra

/-- `vint_sra` in a slot. -/
def execVintSra (vd va vb pr : Nat) (ty : IntTy) (s : State) : Answer := .next (s.runVec 4 (vintSraOp vd va vb pr ty))

/-- `vint_cmpeq`: what it reads and gives. -/
def vintCmpeqOp (vd va vb pr : Nat) (ty : IntTy) : VecOp :=
  icmp ty vd va vb pr opCmpeq

/-- `vint_cmpeq` in a slot. -/
def execVintCmpeq (vd va vb pr : Nat) (ty : IntTy) (s : State) : Answer := .next (s.runVec 4 (vintCmpeqOp vd va vb pr ty))

/-- `vint_cmplt`: what it reads and gives. -/
def vintCmpltOp (vd va vb pr : Nat) (ty : IntTy) : VecOp :=
  icmp ty vd va vb pr opCmplt

/-- `vint_cmplt` in a slot. -/
def execVintCmplt (vd va vb pr : Nat) (ty : IntTy) (s : State) : Answer := .next (s.runVec 4 (vintCmpltOp vd va vb pr ty))

/-- `vint_cmpltu`: what it reads and gives. -/
def vintCmpltuOp (vd va vb pr : Nat) (ty : IntTy) : VecOp :=
  icmp ty vd va vb pr opCmpltu

/-- `vint_cmpltu` in a slot. -/
def execVintCmpltu (vd va vb pr : Nat) (ty : IntTy) (s : State) : Answer := .next (s.runVec 4 (vintCmpltuOp vd va vb pr ty))

/-- `vint_abs`: what it reads and gives. -/
def vintAbsOp (vd va pr : Nat) (ty : IntTy) : VecOp :=
  iop1 ty vd va pr opAbs

/-- `vint_abs` in a slot. -/
def execVintAbs (vd va pr : Nat) (ty : IntTy) (s : State) : Answer := .next (s.runVec 4 (vintAbsOp vd va pr ty))

/-- `bcast`: what it reads and gives. -/
def bcastOp (vd sa pr : Nat) : VecOp :=
  permute [.s sa] vd pr fun x _ => (x.s sa).toNat

/-- `bcast` in a slot. -/
def execBcast (vd sa pr : Nat) (s : State) : Answer := .next (s.runVec 4 (bcastOp vd sa pr))

/-- `ins`: what it reads and gives. -/
def insOp (vd sa lane : Nat) : VecOp :=
  { srcs := [.s sa], dst := .v vd, slow := false, ctx := false, lane := lane,
    run := fun x => (allLanes x fun i => if i = lane then (x.s sa).toNat else laneOf x.oldV i, 0) }

/-- `ins` in a slot. -/
def execIns (vd sa lane : Nat) (s : State) : Answer := .next (s.runVec 4 (insOp vd sa lane))

/-- `ext`: what it reads and gives. -/
def extOp (sd va lane : Nat) : VecOp :=
  { srcs := [.v va], dst := .s sd, slow := false, ctx := false, lane := lane,
    run := fun x => (.s (BitVec.ofNat 64 (laneOf (x.v va) lane)), 0) }

/-- `ext` in a slot. -/
def execExt (sd va lane : Nat) (s : State) : Answer := .next (s.runVec 4 (extOp sd va lane))

/-- `perm`: what it reads and gives. -/
def permOp (vd va vb pr : Nat) : VecOp :=
  permute [.v va, .v vb] vd pr fun x i => laneOf (x.v va) (laneOf (x.v vb) i % x.lanes)

/-- `perm` in a slot. -/
def execPerm (vd va vb pr : Nat) (s : State) : Answer := .next (s.runVec 4 (permOp vd va vb pr))

/-- `rot`: what it reads and gives. -/
def rotOp (vd va n pr : Nat) : VecOp :=
  permute [.v va] vd pr fun x i => laneOf (x.v va) ((i + n) % x.lanes)

/-- `rot` in a slot. -/
def execRot (vd va n pr : Nat) (s : State) : Answer := .next (s.runVec 4 (rotOp vd va n pr))

/-- `zip`: what it reads and gives. -/
def zipOp (vd va vb pr : Nat) : VecOp :=
  permute [.v va, .v vb] vd pr fun x i => laneOf (if i % 2 = 0 then x.v va else x.v vb) (i / 2)

/-- `zip` in a slot. -/
def execZip (vd va vb pr : Nat) (s : State) : Answer := .next (s.runVec 4 (zipOp vd va vb pr))

/-- `unzip`: what it reads and gives. -/
def unzipOp (vd va vb pr : Nat) : VecOp :=
  permute [.v va, .v vb] vd pr fun x i =>
    if 2 * i < x.lanes then laneOf (x.v va) (2 * i) else laneOf (x.v vb) (2 * i - x.lanes)

/-- `unzip` in a slot. -/
def execUnzip (vd va vb pr : Nat) (s : State) : Answer := .next (s.runVec 4 (unzipOp vd va vb pr))

/-- `compress`: what it reads and gives. -/
def compressOp (vd va pr : Nat) : VecOp :=
  { srcs := [.v va, .p pr], dst := .v vd, slow := false, ctx := false, lane := 0,
    run := fun x => (allLanes x fun i => match (activeLanes x.lanes (x.p pr))[i]? with
      | some j => laneOf (x.v va) j
      | none => 0, 0) }

/-- `compress` in a slot. -/
def execCompress (vd va pr : Nat) (s : State) : Answer := .next (s.runVec 4 (compressOp vd va pr))

/-- `expand`: what it reads and gives. -/
def expandOp (vd va pr : Nat) : VecOp :=
  permute [.v va] vd pr fun x i => laneOf (x.v va) (rankOf (x.p pr) i)

/-- `expand` in a slot. -/
def execExpand (vd va pr : Nat) (s : State) : Answer := .next (s.runVec 4 (expandOp vd va pr))

/-- `vred_sum_f32`: what it reads and gives. -/
def vredSumF32Op (vd va pr : Nat) : VecOp :=
  reduceOp vd va pr 0 canonLane (f32fn f32Add)

/-- `vred_sum_f32` in a slot. -/
def execVredSumF32 (vd va pr : Nat) (s : State) : Answer := .next (s.runVec 4 (vredSumF32Op vd va pr))

/-- `vred_max_f32`: what it reads and gives. -/
def vredMaxF32Op (vd va pr : Nat) : VecOp :=
  reduceOp vd va pr 0xFF800000 canonLane (f32fn f32Max)

/-- `vred_max_f32` in a slot. -/
def execVredMaxF32 (vd va pr : Nat) (s : State) : Answer := .next (s.runVec 4 (vredMaxF32Op vd va pr))

/-- `vred_min_f32`: what it reads and gives. -/
def vredMinF32Op (vd va pr : Nat) : VecOp :=
  reduceOp vd va pr 0x7F800000 canonLane (f32fn f32Min)

/-- `vred_min_f32` in a slot. -/
def execVredMinF32 (vd va pr : Nat) (s : State) : Answer := .next (s.runVec 4 (vredMinF32Op vd va pr))

/-- `vred_sum_i32`: what it reads and gives. -/
def vredSumI32Op (vd va pr : Nat) : VecOp :=
  reduceOp vd va pr 0 id (opAdd 32)

/-- `vred_sum_i32` in a slot. -/
def execVredSumI32 (vd va pr : Nat) (s : State) : Answer := .next (s.runVec 4 (vredSumI32Op vd va pr))

/-- `vred_max_i32`: what it reads and gives. -/
def vredMaxI32Op (vd va pr : Nat) : VecOp :=
  reduceOp vd va pr 0x80000000 id (opMax 32)

/-- `vred_max_i32` in a slot. -/
def execVredMaxI32 (vd va pr : Nat) (s : State) : Answer := .next (s.runVec 4 (vredMaxI32Op vd va pr))

/-- `vred_min_i32`: what it reads and gives. -/
def vredMinI32Op (vd va pr : Nat) : VecOp :=
  reduceOp vd va pr 0x7FFFFFFF id (opMin 32)

/-- `vred_min_i32` in a slot. -/
def execVredMinI32 (vd va pr : Nat) (s : State) : Answer := .next (s.runVec 4 (vredMinI32Op vd va pr))

/-- `vred_and`: what it reads and gives. -/
def vredAndOp (vd va pr : Nat) : VecOp :=
  reduceOp vd va pr 0xFFFFFFFF id (opAnd 32)

/-- `vred_and` in a slot. -/
def execVredAnd (vd va pr : Nat) (s : State) : Answer := .next (s.runVec 4 (vredAndOp vd va pr))

/-- `vred_or`: what it reads and gives. -/
def vredOrOp (vd va pr : Nat) : VecOp :=
  reduceOp vd va pr 0 id (opOr 32)

/-- `vred_or` in a slot. -/
def execVredOr (vd va pr : Nat) (s : State) : Answer := .next (s.runVec 4 (vredOrOp vd va pr))

/-- `vsel`: what it reads and gives. -/
def vselOp (vd va vb pr : Nat) : VecOp :=
  { srcs := [.v va, .v vb, .p pr], dst := .v vd, slow := false, ctx := false, lane := 0,
    run := fun x => (allLanes x fun i => laneOf (if (x.p pr).getLsbD i then x.v va else x.v vb) i, 0) }

/-- `vsel` in a slot. -/
def execVsel (vd va vb pr : Nat) (s : State) : Answer := .next (s.runVec 4 (vselOp vd va vb pr))

/-- `pand`: what it reads and gives. -/
def pandOp (pd pa pb : Nat) : VecOp :=
  predOp [.p pa, .p pb] pd fun x => (x.p pa &&& x.p pb).toNat

/-- `pand` in a slot. -/
def execPand (pd pa pb : Nat) (s : State) : Answer := .next (s.runVec 4 (pandOp pd pa pb))

/-- `por`: what it reads and gives. -/
def porOp (pd pa pb : Nat) : VecOp :=
  predOp [.p pa, .p pb] pd fun x => (x.p pa ||| x.p pb).toNat

/-- `por` in a slot. -/
def execPor (pd pa pb : Nat) (s : State) : Answer := .next (s.runVec 4 (porOp pd pa pb))

/-- `pxor`: what it reads and gives. -/
def pxorOp (pd pa pb : Nat) : VecOp :=
  predOp [.p pa, .p pb] pd fun x => (x.p pa ^^^ x.p pb).toNat

/-- `pxor` in a slot. -/
def execPxor (pd pa pb : Nat) (s : State) : Answer := .next (s.runVec 4 (pxorOp pd pa pb))

/-- `pnot`: what it reads and gives. -/
def pnotOp (pd pa : Nat) : VecOp :=
  predOp [.p pa] pd fun x => (~~~(x.p pa)).toNat

/-- `pnot` in a slot. -/
def execPnot (pd pa : Nat) (s : State) : Answer := .next (s.runVec 4 (pnotOp pd pa))

/-- `pcnt`: what it reads and gives. -/
def pcntOp (sd pa : Nat) : VecOp :=
  predScalar sd pa fun x => bitCount x.lanes (x.p pa).toNat

/-- `pcnt` in a slot. -/
def execPcnt (sd pa : Nat) (s : State) : Answer := .next (s.runVec 4 (pcntOp sd pa))

/-- `pfirst`: what it reads and gives. -/
def pfirstOp (sd pa : Nat) : VecOp :=
  predScalar sd pa fun x =>
    if lowBit x.lanes (x.p pa).toNat = x.lanes then 0xFFFFFFFFFFFFFFFF else lowBit x.lanes (x.p pa).toNat

/-- `pfirst` in a slot. -/
def execPfirst (sd pa : Nat) (s : State) : Answer := .next (s.runVec 4 (pfirstOp sd pa))

/-- `pset`: what it reads and gives. -/
def psetOp (pd sa : Nat) : VecOp :=
  predOp [.s sa] pd fun x => (x.s sa).toNat

/-- `pset` in a slot. -/
def execPset (pd sa : Nat) (s : State) : Answer := .next (s.runVec 4 (psetOp pd sa))

/-- `cvt`: what it reads and gives. -/
def cvtOp (vd va pr : Nat) (w : CvtWord) : VecOp :=
  convert vd va pr w true cvtElem

/-- `cvt` in a slot. -/
def execCvt (vd va pr : Nat) (w : CvtWord) (s : State) : Answer := .next (s.runVec 8 (cvtOp vd va pr w))

/-- `qnt`: what it reads and gives. -/
def qntOp (vd va pr : Nat) (w : CvtWord) : VecOp :=
  convert vd va pr w true qntElem

/-- `qnt` in a slot. -/
def execQnt (vd va pr : Nat) (w : CvtWord) (s : State) : Answer := .next (s.runVec 8 (qntOp vd va pr w))

/-- `dqnt`: what it reads and gives. -/
def dqntOp (vd va pr : Nat) (w : CvtWord) : VecOp :=
  convert vd va pr w false dqntElem

/-- `dqnt` in a slot. -/
def execDqnt (vd va pr : Nat) (w : CvtWord) (s : State) : Answer := .next (s.runVec 8 (dqntOp vd va pr w))

/-- `vscl`: what it reads and gives. -/
def vsclOp (vd va pr : Nat) : VecOp :=
  scaleOp vd va pr

/-- `vscl` in a slot. -/
def execVscl (vd va pr : Nat) (s : State) : Answer := .next (s.runVec 4 (vsclOp vd va pr))

/-- `comp`: what it reads and gives. -/
def compOp (vd va vb pr : Nat) : VecOp :=
  tableOp vd va vb pr fun t e a => compand t (a.scale (127 - Int.ofNat e))

/-- `comp` in a slot. -/
def execComp (vd va vb pr : Nat) (s : State) : Answer := .next (s.runVec 4 (compOp vd va vb pr))

/-- `dcomp`: what it reads and gives. -/
def dcompOp (vd va vb pr : Nat) : VecOp :=
  tableOp vd va vb pr fun t e a => (invert t a).scale (Int.ofNat e - 127)

/-- `dcomp` in a slot. -/
def execDcomp (vd va vb pr : Nat) (s : State) : Answer := .next (s.runVec 4 (dcompOp vd va vb pr))

/-- The operation of an instruction that a captured block may hold (R299): majors 0x20 to 0x28 without those that write scalars
and without `vmaxx`. -/
def blockOp : Instr → Option VecOp
  | .vf32Add vd va vb pr => some (vf32AddOp vd va vb pr)
  | .vf32Sub vd va vb pr => some (vf32SubOp vd va vb pr)
  | .vf32Mul vd va vb pr => some (vf32MulOp vd va vb pr)
  | .vf32Fma vd va vb vc pr => some (vf32FmaOp vd va vb vc pr)
  | .vf32Fms vd va vb vc pr => some (vf32FmsOp vd va vb vc pr)
  | .vf32Fnma vd va vb vc pr => some (vf32FnmaOp vd va vb vc pr)
  | .vf32Min vd va vb pr => some (vf32MinOp vd va vb pr)
  | .vf32Max vd va vb pr => some (vf32MaxOp vd va vb pr)
  | .vf32Abs vd va pr => some (vf32AbsOp vd va pr)
  | .vf32Neg vd va pr => some (vf32NegOp vd va pr)
  | .vf32Cmpeq vd va vb pr => some (vf32CmpeqOp vd va vb pr)
  | .vf32Cmplt vd va vb pr => some (vf32CmpltOp vd va vb pr)
  | .vf32Cmple vd va vb pr => some (vf32CmpleOp vd va vb pr)
  | .vf32Rcp vd va pr => some (vf32RcpOp vd va pr)
  | .vf32Rsqrt vd va pr => some (vf32RsqrtOp vd va pr)
  | .vf32Sqrt vd va pr => some (vf32SqrtOp vd va pr)
  | .vf32Exp2 vd va pr => some (vf32Exp2Op vd va pr)
  | .vf32Log2 vd va pr => some (vf32Log2Op vd va pr)
  | .vf32Tanh vd va pr => some (vf32TanhOp vd va pr)
  | .vf32Sig vd va pr => some (vf32SigOp vd va pr)
  | .vbf16Add vd va vb pr => some (vbf16AddOp vd va vb pr)
  | .vbf16Sub vd va vb pr => some (vbf16SubOp vd va vb pr)
  | .vbf16Mul vd va vb pr => some (vbf16MulOp vd va vb pr)
  | .vbf16Fma vd va vb vc pr => some (vbf16FmaOp vd va vb vc pr)
  | .vbf16Fms vd va vb vc pr => some (vbf16FmsOp vd va vb vc pr)
  | .vbf16Fnma vd va vb vc pr => some (vbf16FnmaOp vd va vb vc pr)
  | .vbf16Min vd va vb pr => some (vbf16MinOp vd va vb pr)
  | .vbf16Max vd va vb pr => some (vbf16MaxOp vd va vb pr)
  | .vbf16Abs vd va pr => some (vbf16AbsOp vd va pr)
  | .vbf16Neg vd va pr => some (vbf16NegOp vd va pr)
  | .vbf16Cmpeq vd va vb pr => some (vbf16CmpeqOp vd va vb pr)
  | .vbf16Cmplt vd va vb pr => some (vbf16CmpltOp vd va vb pr)
  | .vbf16Cmple vd va vb pr => some (vbf16CmpleOp vd va vb pr)
  | .vf16Add vd va vb pr => some (vf16AddOp vd va vb pr)
  | .vf16Sub vd va vb pr => some (vf16SubOp vd va vb pr)
  | .vf16Mul vd va vb pr => some (vf16MulOp vd va vb pr)
  | .vf16Fma vd va vb vc pr => some (vf16FmaOp vd va vb vc pr)
  | .vf16Fms vd va vb vc pr => some (vf16FmsOp vd va vb vc pr)
  | .vf16Fnma vd va vb vc pr => some (vf16FnmaOp vd va vb vc pr)
  | .vf16Min vd va vb pr => some (vf16MinOp vd va vb pr)
  | .vf16Max vd va vb pr => some (vf16MaxOp vd va vb pr)
  | .vf16Abs vd va pr => some (vf16AbsOp vd va pr)
  | .vf16Neg vd va pr => some (vf16NegOp vd va pr)
  | .vf16Cmpeq vd va vb pr => some (vf16CmpeqOp vd va vb pr)
  | .vf16Cmplt vd va vb pr => some (vf16CmpltOp vd va vb pr)
  | .vf16Cmple vd va vb pr => some (vf16CmpleOp vd va vb pr)
  | .vintAdd vd va vb pr ty => some (vintAddOp vd va vb pr ty)
  | .vintSub vd va vb pr ty => some (vintSubOp vd va vb pr ty)
  | .vintMul vd va vb pr ty => some (vintMulOp vd va vb pr ty)
  | .vintMad vd va vb vc pr ty => some (vintMadOp vd va vb vc pr ty)
  | .vintMin vd va vb pr ty => some (vintMinOp vd va vb pr ty)
  | .vintMax vd va vb pr ty => some (vintMaxOp vd va vb pr ty)
  | .vintMinu vd va vb pr ty => some (vintMinuOp vd va vb pr ty)
  | .vintMaxu vd va vb pr ty => some (vintMaxuOp vd va vb pr ty)
  | .vintAnd vd va vb pr ty => some (vintAndOp vd va vb pr ty)
  | .vintOr vd va vb pr ty => some (vintOrOp vd va vb pr ty)
  | .vintXor vd va vb pr ty => some (vintXorOp vd va vb pr ty)
  | .vintSll vd va vb pr ty => some (vintSllOp vd va vb pr ty)
  | .vintSrl vd va vb pr ty => some (vintSrlOp vd va vb pr ty)
  | .vintSra vd va vb pr ty => some (vintSraOp vd va vb pr ty)
  | .vintCmpeq vd va vb pr ty => some (vintCmpeqOp vd va vb pr ty)
  | .vintCmplt vd va vb pr ty => some (vintCmpltOp vd va vb pr ty)
  | .vintCmpltu vd va vb pr ty => some (vintCmpltuOp vd va vb pr ty)
  | .vintAbs vd va pr ty => some (vintAbsOp vd va pr ty)
  | .bcast vd sa pr => some (bcastOp vd sa pr)
  | .ins vd sa lane => some (insOp vd sa lane)
  | .perm vd va vb pr => some (permOp vd va vb pr)
  | .rot vd va n pr => some (rotOp vd va n pr)
  | .zip vd va vb pr => some (zipOp vd va vb pr)
  | .unzip vd va vb pr => some (unzipOp vd va vb pr)
  | .compress vd va pr => some (compressOp vd va pr)
  | .expand vd va pr => some (expandOp vd va pr)
  | .vredSumF32 vd va pr => some (vredSumF32Op vd va pr)
  | .vredMaxF32 vd va pr => some (vredMaxF32Op vd va pr)
  | .vredMinF32 vd va pr => some (vredMinF32Op vd va pr)
  | .vredSumI32 vd va pr => some (vredSumI32Op vd va pr)
  | .vredMaxI32 vd va pr => some (vredMaxI32Op vd va pr)
  | .vredMinI32 vd va pr => some (vredMinI32Op vd va pr)
  | .vredAnd vd va pr => some (vredAndOp vd va pr)
  | .vredOr vd va pr => some (vredOrOp vd va pr)
  | .vsel vd va vb pr => some (vselOp vd va vb pr)
  | .pand pd pa pb => some (pandOp pd pa pb)
  | .por pd pa pb => some (porOp pd pa pb)
  | .pxor pd pa pb => some (pxorOp pd pa pb)
  | .pnot pd pa => some (pnotOp pd pa)
  | .pset pd sa => some (psetOp pd sa)
  | .cvt vd va pr w => some (cvtOp vd va pr w)
  | .qnt vd va pr w => some (qntOp vd va pr w)
  | .dqnt vd va pr w => some (dqntOp vd va pr w)
  | .vscl vd va pr => some (vsclOp vd va pr)
  | .comp vd va vb pr => some (compOp vd va vb pr)
  | .dcomp vd va vb pr => some (dcompOp vd va vb pr)
  | _ => none

/-- A vector field of a replay (R299). -/
def bump (n v : Nat) : Nat := (v + n) % 16

/-- An instruction with its vector fields moved by `n` (R299): predicates, scalars and lanes stay. -/
def strideInstr (n : Nat) : Instr → Instr
  | .vf32Add vd va vb pr => .vf32Add (bump n vd) (bump n va) (bump n vb) pr
  | .vf32Sub vd va vb pr => .vf32Sub (bump n vd) (bump n va) (bump n vb) pr
  | .vf32Mul vd va vb pr => .vf32Mul (bump n vd) (bump n va) (bump n vb) pr
  | .vf32Fma vd va vb vc pr => .vf32Fma (bump n vd) (bump n va) (bump n vb) (bump n vc) pr
  | .vf32Fms vd va vb vc pr => .vf32Fms (bump n vd) (bump n va) (bump n vb) (bump n vc) pr
  | .vf32Fnma vd va vb vc pr => .vf32Fnma (bump n vd) (bump n va) (bump n vb) (bump n vc) pr
  | .vf32Min vd va vb pr => .vf32Min (bump n vd) (bump n va) (bump n vb) pr
  | .vf32Max vd va vb pr => .vf32Max (bump n vd) (bump n va) (bump n vb) pr
  | .vf32Abs vd va pr => .vf32Abs (bump n vd) (bump n va) pr
  | .vf32Neg vd va pr => .vf32Neg (bump n vd) (bump n va) pr
  | .vf32Cmpeq vd va vb pr => .vf32Cmpeq vd (bump n va) (bump n vb) pr
  | .vf32Cmplt vd va vb pr => .vf32Cmplt vd (bump n va) (bump n vb) pr
  | .vf32Cmple vd va vb pr => .vf32Cmple vd (bump n va) (bump n vb) pr
  | .vf32Rcp vd va pr => .vf32Rcp (bump n vd) (bump n va) pr
  | .vf32Rsqrt vd va pr => .vf32Rsqrt (bump n vd) (bump n va) pr
  | .vf32Sqrt vd va pr => .vf32Sqrt (bump n vd) (bump n va) pr
  | .vf32Exp2 vd va pr => .vf32Exp2 (bump n vd) (bump n va) pr
  | .vf32Log2 vd va pr => .vf32Log2 (bump n vd) (bump n va) pr
  | .vf32Tanh vd va pr => .vf32Tanh (bump n vd) (bump n va) pr
  | .vf32Sig vd va pr => .vf32Sig (bump n vd) (bump n va) pr
  | .vbf16Add vd va vb pr => .vbf16Add (bump n vd) (bump n va) (bump n vb) pr
  | .vbf16Sub vd va vb pr => .vbf16Sub (bump n vd) (bump n va) (bump n vb) pr
  | .vbf16Mul vd va vb pr => .vbf16Mul (bump n vd) (bump n va) (bump n vb) pr
  | .vbf16Fma vd va vb vc pr => .vbf16Fma (bump n vd) (bump n va) (bump n vb) (bump n vc) pr
  | .vbf16Fms vd va vb vc pr => .vbf16Fms (bump n vd) (bump n va) (bump n vb) (bump n vc) pr
  | .vbf16Fnma vd va vb vc pr => .vbf16Fnma (bump n vd) (bump n va) (bump n vb) (bump n vc) pr
  | .vbf16Min vd va vb pr => .vbf16Min (bump n vd) (bump n va) (bump n vb) pr
  | .vbf16Max vd va vb pr => .vbf16Max (bump n vd) (bump n va) (bump n vb) pr
  | .vbf16Abs vd va pr => .vbf16Abs (bump n vd) (bump n va) pr
  | .vbf16Neg vd va pr => .vbf16Neg (bump n vd) (bump n va) pr
  | .vbf16Cmpeq vd va vb pr => .vbf16Cmpeq vd (bump n va) (bump n vb) pr
  | .vbf16Cmplt vd va vb pr => .vbf16Cmplt vd (bump n va) (bump n vb) pr
  | .vbf16Cmple vd va vb pr => .vbf16Cmple vd (bump n va) (bump n vb) pr
  | .vf16Add vd va vb pr => .vf16Add (bump n vd) (bump n va) (bump n vb) pr
  | .vf16Sub vd va vb pr => .vf16Sub (bump n vd) (bump n va) (bump n vb) pr
  | .vf16Mul vd va vb pr => .vf16Mul (bump n vd) (bump n va) (bump n vb) pr
  | .vf16Fma vd va vb vc pr => .vf16Fma (bump n vd) (bump n va) (bump n vb) (bump n vc) pr
  | .vf16Fms vd va vb vc pr => .vf16Fms (bump n vd) (bump n va) (bump n vb) (bump n vc) pr
  | .vf16Fnma vd va vb vc pr => .vf16Fnma (bump n vd) (bump n va) (bump n vb) (bump n vc) pr
  | .vf16Min vd va vb pr => .vf16Min (bump n vd) (bump n va) (bump n vb) pr
  | .vf16Max vd va vb pr => .vf16Max (bump n vd) (bump n va) (bump n vb) pr
  | .vf16Abs vd va pr => .vf16Abs (bump n vd) (bump n va) pr
  | .vf16Neg vd va pr => .vf16Neg (bump n vd) (bump n va) pr
  | .vf16Cmpeq vd va vb pr => .vf16Cmpeq vd (bump n va) (bump n vb) pr
  | .vf16Cmplt vd va vb pr => .vf16Cmplt vd (bump n va) (bump n vb) pr
  | .vf16Cmple vd va vb pr => .vf16Cmple vd (bump n va) (bump n vb) pr
  | .vintAdd vd va vb pr ty => .vintAdd (bump n vd) (bump n va) (bump n vb) pr ty
  | .vintSub vd va vb pr ty => .vintSub (bump n vd) (bump n va) (bump n vb) pr ty
  | .vintMul vd va vb pr ty => .vintMul (bump n vd) (bump n va) (bump n vb) pr ty
  | .vintMad vd va vb vc pr ty => .vintMad (bump n vd) (bump n va) (bump n vb) (bump n vc) pr ty
  | .vintMin vd va vb pr ty => .vintMin (bump n vd) (bump n va) (bump n vb) pr ty
  | .vintMax vd va vb pr ty => .vintMax (bump n vd) (bump n va) (bump n vb) pr ty
  | .vintMinu vd va vb pr ty => .vintMinu (bump n vd) (bump n va) (bump n vb) pr ty
  | .vintMaxu vd va vb pr ty => .vintMaxu (bump n vd) (bump n va) (bump n vb) pr ty
  | .vintAnd vd va vb pr ty => .vintAnd (bump n vd) (bump n va) (bump n vb) pr ty
  | .vintOr vd va vb pr ty => .vintOr (bump n vd) (bump n va) (bump n vb) pr ty
  | .vintXor vd va vb pr ty => .vintXor (bump n vd) (bump n va) (bump n vb) pr ty
  | .vintSll vd va vb pr ty => .vintSll (bump n vd) (bump n va) (bump n vb) pr ty
  | .vintSrl vd va vb pr ty => .vintSrl (bump n vd) (bump n va) (bump n vb) pr ty
  | .vintSra vd va vb pr ty => .vintSra (bump n vd) (bump n va) (bump n vb) pr ty
  | .vintCmpeq vd va vb pr ty => .vintCmpeq vd (bump n va) (bump n vb) pr ty
  | .vintCmplt vd va vb pr ty => .vintCmplt vd (bump n va) (bump n vb) pr ty
  | .vintCmpltu vd va vb pr ty => .vintCmpltu vd (bump n va) (bump n vb) pr ty
  | .vintAbs vd va pr ty => .vintAbs (bump n vd) (bump n va) pr ty
  | .bcast vd sa pr => .bcast (bump n vd) sa pr
  | .ins vd sa lane => .ins (bump n vd) sa lane
  | .perm vd va vb pr => .perm (bump n vd) (bump n va) (bump n vb) pr
  | .rot vd va by_ pr => .rot (bump n vd) (bump n va) by_ pr
  | .zip vd va vb pr => .zip (bump n vd) (bump n va) (bump n vb) pr
  | .unzip vd va vb pr => .unzip (bump n vd) (bump n va) (bump n vb) pr
  | .compress vd va pr => .compress (bump n vd) (bump n va) pr
  | .expand vd va pr => .expand (bump n vd) (bump n va) pr
  | .vredSumF32 vd va pr => .vredSumF32 (bump n vd) (bump n va) pr
  | .vredMaxF32 vd va pr => .vredMaxF32 (bump n vd) (bump n va) pr
  | .vredMinF32 vd va pr => .vredMinF32 (bump n vd) (bump n va) pr
  | .vredSumI32 vd va pr => .vredSumI32 (bump n vd) (bump n va) pr
  | .vredMaxI32 vd va pr => .vredMaxI32 (bump n vd) (bump n va) pr
  | .vredMinI32 vd va pr => .vredMinI32 (bump n vd) (bump n va) pr
  | .vredAnd vd va pr => .vredAnd (bump n vd) (bump n va) pr
  | .vredOr vd va pr => .vredOr (bump n vd) (bump n va) pr
  | .vsel vd va vb pr => .vsel (bump n vd) (bump n va) (bump n vb) pr
  | .pand pd pa pb => .pand pd pa pb
  | .por pd pa pb => .por pd pa pb
  | .pxor pd pa pb => .pxor pd pa pb
  | .pnot pd pa => .pnot pd pa
  | .pset pd sa => .pset pd sa
  | .cvt vd va pr w => .cvt (bump n vd) (bump n va) pr { w with scale := w.scale.map (bump n) }
  | .qnt vd va pr w => .qnt (bump n vd) (bump n va) pr { w with scale := w.scale.map (bump n) }
  | .dqnt vd va pr w => .dqnt (bump n vd) (bump n va) pr { w with scale := w.scale.map (bump n) }
  | .vscl vd va pr => .vscl (bump n vd) (bump n va) pr
  | .comp vd va vb pr => .comp (bump n vd) (bump n va) (bump n vb) pr
  | .dcomp vd va vb pr => .dcomp (bump n vd) (bump n va) (bump n vb) pr
  | i => i

end Sys2Proof.Machine
end

