-- ==== Sys2Proof/Machine/Block.lean ====
section
/-! DEFINITION. Sys2Proof/Machine/Block.lean: captured blocks and the slab's sequencer (R298 to R303), views and gangs (R202 to R208,
R344, R345), the maximum exchange (R343). -/

namespace Sys2Proof.Machine

/-! ## Captured blocks -/

/-- The instructions of a block from a code offset, with the offset after it; or the offset of the first that breaks a rule of
R299. A lane that the view lacks breaks it too (R334, R348; DEDUCED, log 17). -/
def blockAt (code : List (BitVec 32)) (lanes : Nat) : Nat → Nat → Except Nat (List Instr × Nat)
  | 0, off => .ok ([], off)
  | n + 1, off =>
    let w := codeWord code (off / 4)
    let w2 := codeWord code (off / 4 + 1)
    if !targetOk code off then .error off
    else match decodeFor false w w2 with
      | .error _ => .error off
      | .ok i =>
        match blockOp i with
        | none => .error off
        | some op =>
          if lanes ≤ op.lane then .error off
          else match blockAt code lanes n (off + i.size) with
            | .error e => .error e
            | .ok (is, fin) => .ok (i :: is, fin)

/-- The operation of a place of a replay. -/
def blockOpAt (code : List Instr) (str k idx : Nat) : Option VecOp :=
  match code[idx]? with
  | some i => blockOp (strideInstr (str * k) i)
  | none => none

/-- The operations of the replays that differ: fields repeat after 16 replays. -/
def blockOps (code : List Instr) (str count : Nat) : List VecOp :=
  (List.range (min count 16)).flatMap fun k => code.filterMap fun i => blockOp (strideInstr (str * k) i)

/-- The first idle source that no earlier instruction of the block writes (R299). -/
def idleSource (t : Thread) : List VecOp → List Desig → Option Desig
  | [], _ => none
  | op :: ops, written =>
    match op.srcs.find? fun d => !written.contains d && t.stOf d == .idle with
    | some d => some d
    | none => idleSource t ops (op.dst :: written)

/-- A register is owed to something other than a block. -/
def owedOutside (t : Thread) (d : Desig) : Bool := (t.stOf d).isOwed && t.stOf d != .owed .block

/-- `rpt` (R299). -/
def execRpt (len a str : Nat) (s : State) : Answer :=
  .next (s.notDonorSlot fun s =>
    s.withGate [.s a] [] fun s =>
      let c := (s.sval a).toNat
      if 65535 < c then s.trap 0x01 c
      else match blockAt (match s.myImage with | some im => im.code | none => []) (s.lanes s.thr) len (s.me.pc + 4) with
        | .error off => s.trap 0x01 off
        | .ok (code, fin) =>
          let ops := blockOps code str c
          match idleSource s.me ops [] with
          | some d => s.trap 0x01 d.code
          | none =>
            if s.myCore.seqr.isSome then s.park .sequencer
            else match ops.find? fun op => owedOutside s.me op.dst with
              | some op => s.park (.reg op.dst.code)
              | none =>
                if c = 0 then (s.popIf [a]).goto fin
                else
                  let b : Block :=
                    { slot := slotNo s.cur, code := code, str := str, count := c, replay := 0, index := 0,
                      reads := ops.foldl (fun l op => op.srcs.foldl (fun l d => l.add d.code) l) [] }
                  let s := s.modMe fun t => ops.foldl (fun t op => t.setSt op.dst (.owed .block)) t
                  ((s.modMyCore fun k => { k with seqr := some b }).popIf [a]).goto fin)

/-- The place after the next one. -/
def Block.next (b : Block) : Block :=
  if b.index + 1 < b.code.length then { b with index := b.index + 1 } else { b with index := 0, replay := b.replay + 1 }

/-- Every place that is left, for the replays that differ. -/
def Block.rest (b : Block) : List VecOp :=
  if b.count ≤ b.replay then []
  else ((b.code.drop b.index).filterMap fun i => blockOp (strideInstr (b.str * b.replay) i))
    ++ ((List.range (min (b.count - b.replay - 1) 16)).flatMap fun k =>
          b.code.filterMap fun i => blockOp (strideInstr (b.str * (b.replay + 1 + k)) i))

/-- A source is ready for a replay: full, or written by the block itself (R300). -/
def blockReady (t : Thread) (d : Desig) : Bool := !owedOutside t d

/-- SEQUENCER_REPLAY_START (R300, R302, R303): the next instruction of a core's block starts once its sources are full; its result
and mark are written, and its destination is full when nothing that is left writes it. -/
def execSequencerReplayStart (core : Nat) (s : State) : Answer :=
  match (s.core core).seqr with
  | none => .next s
  | some b =>
    let thr := core * 8 + b.slot
    let t := s.thread thr
    match blockOpAt b.code b.str b.replay b.index with
    | none => .next (s.modCore core fun c => { c with seqr := none })
    | some op =>
      if !(op.srcs.all (blockReady t)) then .next s
      else
        let (val, drawn) := op.run (vecIn (s.core core) t (s.lanes thr) op.dst)
        let b' := b.next
        let last : Bool := !(b'.rest.any fun o => o.dst == op.dst)
        let s := s.modThread thr fun t =>
          let t := { t with gen := t.gen + BitVec.ofNat 64 drawn }.put op.dst val (op.srcs.findSome? t.markOf)
          if last then t else t.setSt op.dst (.owed .block)
        .next (s.modCore core fun c => { c with seqr := if b'.replay < b.count then some b' else none })

/-! ## Views (R205, R345) -/

/-- The slot's own block is done, or the instruction waits (R301). -/
def State.afterBlock (s : State) (k : State → State) : State :=
  match s.myCore.seqr with
  | some b => if b.slot = slotNo s.cur then s.park .sequencer else k s
  | none => k s

/-- A vector register of a thread is owed. -/
def Thread.owesVector (t : Thread) : Bool := t.v.any fun e => e.2.st.isOwed

/-- Entering the long view: every vector register is zero and full, every predicate full and false (R205). -/
def Thread.enterLong (t : Thread) : Thread :=
  { t with long := true, v := (List.range 16).map fun i => (i, Cell.full 0), p := [] }

/-- `vmode.short` (R345). -/
def execVmodeShort (s : State) : Answer :=
  .next (s.notDonorSlot fun s => s.afterBlock fun s =>
    if !s.me.long then s.advance 4
    else if s.me.owesVector then s.park .view
    else (s.modMe fun t => t.leaveLong).advance 4)

/-- `vmode.long` (R345). -/
def execVmodeLong (s : State) : Answer :=
  .next (s.notDonorSlot fun s => s.afterBlock fun s =>
    if !s.myCore.gang.leader then s.trapOpen 0x0C
    else if s.me.long then s.advance 4
    else if s.me.owesVector then s.park .view
    else (s.modMe fun t => t.enterLong).advance 4)

/-! ## Gangs (R202, R203, R208) -/

def widthCode : GangWidth → Nat
  | .x2 => 1
  | .x4 => 2

/-- The conditions of R203, and that the core is in no gang (R345). -/
def State.gangOk (s : State) (width : Nat) : Bool :=
  let core := coreOf s.cur
  let attr : Bool := match s.myImage with | some im => im.attrs.testBit (width + 1) | none => false
  attr && leads core width && !s.myCore.gang.leader && !s.myCore.gang.donor
    && (donorsOf core width).all (fun d =>
          s.mapped d && (s.core d).gang.reserved && (List.range 7).all fun i => !(s.thread (d * 8 + i)).live)
    && s.myStack.dike (s.jobOf s.cur) 2 1 / 2 % 2 == 0

/-- `gang` (R345): the slot parks while the bond grid binds. -/
def execGang (width : GangWidth) (s : State) : Answer :=
  .next (s.notDonorSlot fun s => s.afterBlock fun s =>
    match s.me.prog with
    | .binding _ => s.park .view
    | _ =>
      if !s.gangOk (widthCode width) then s.trapOpen 0x0C
      else (s.modMe fun t => { t with prog := .binding (widthCode width) }).park .view)

/-- GANG_BIND_DONE (R345): the donor slabs are bound 64 cycles after `gang`, and the slot goes on in the short view. -/
def execGangBindDone (ep : Nat) (s : State) : Answer :=
  let core := coreOf ep
  match (s.thread (thrOf ep)).prog with
  | .binding w =>
    let s := s.modCore core fun c => { c with gang := { c.gang with width := w, leader := true } }
    let s := (donorsOf core w).foldl (fun s d => s.modCore d fun c => { c with gang := { c.gang with donor := true } }) s
    .next (s.asSlot ep fun s => s.advance 4)
  | _ => .next s

/-- `gangrel` (R345). -/
def execGangrel (s : State) : Answer :=
  .next (s.notDonorSlot fun s => s.afterBlock fun s =>
    let core := coreOf s.cur
    if !s.myCore.gang.leader then s.trapOpen 0x0C
    else if s.myCore.seqr.isSome ∨ (List.range 8).any (fun i => (s.thread (core * 8 + i)).owesVector) then s.park .view
    else ((s.releaseGang core).dropGang (polOf s.cur) fun g => g.2.1 == core).advance 4)

/-- `vclr` (R345). -/
def execVclr (d : Nat) (s : State) : Answer :=
  .next (s.notDonorSlot fun s => s.afterBlock fun s =>
    s.runVec 4 { srcs := [], dst := .v d, slow := false, ctx := false, lane := 0, run := fun _ => (.v 0, 0) })

/-! ## The maximum exchange (R342, R343) -/

/-- The cores of a mask. -/
def maskCores (mask : Nat) : List Nat := (List.range 8).filter fun i => mask.testBit i

/-- The lane-wise FP32 maximum. (DEDUCED, log 58.) -/
def laneMax (a b : Nat) : Nat := ofLanes 8 fun i => f32fn f32Max (laneOf a i) (laneOf b i)

/-- Every core of a mask has posted with that mask. -/
def exchDone (x : SMap ExchEnt) (mask : Nat) : Bool :=
  (maskCores mask).all fun c => match x.find? c with | some e => e.mask == mask | none => false

/-- An exchange completes: every contributor's destination is owed the maximum and its thread goes on. -/
def State.exchComplete (s : State) (pol mask : Nat) : State :=
  let ents := (maskCores mask).filterMap fun c => ((s.polder pol).exch.find? c).map fun e => (c, e)
  let m := match ents with
    | [] => 0
    | e :: es => es.foldl (fun m e => laneMax m e.2.val.toNat) (laneMax e.2.val.toNat e.2.val.toNat)
  let s := ents.foldl (fun s e =>
    s.asSlot (epOf (pol * 8 + e.1) e.2.slot) fun s => (s.result (.v e.2.vd) (.v (BitVec.ofNat 1024 m)) true).advance 4) s
  s.modPolder pol fun p => { p with exch := p.exch.filter fun e => !((maskCores mask).contains e.1) }

/-- `vmaxx` (R343). -/
def execVmaxx (vd va : Nat) (s : State) : Answer :=
  .next (s.notDonorSlot fun s =>
    s.withGate [.v va] [.v vd] fun s =>
      let mask := s.myCore.xmask.toNat
      let pol := polOf s.cur
      let bad : Bool := s.me.long || !(mask.testBit (coreNo s.cur))
        || (maskCores mask).any fun c => !s.mapped (pol * 8 + c) || (s.core (pol * 8 + c)).gang.donor
      match s.myPolder.exch.find? (coreNo s.cur) with
      | some e => if bad ∧ e.slot ≠ slotNo s.cur then s.trap 0x01 mask else s.park .exchange
      | none =>
        if bad then s.trap 0x01 mask
        else
          let e : ExchEnt := { slot := slotNo s.cur, vd := vd, mask := mask, val := (s.me.vreg va).val }
          let s := (s.park .exchange).modMyPolder fun p => { p with exch := p.exch.insert (coreNo s.cur) e }
          if exchDone s.myPolder.exch mask then s.exchComplete pol mask else s)

end Sys2Proof.Machine
end

