-- ==== Sys2Proof/Machine/Control.lean ====
section
/-! DEFINITION. Sys2Proof/Machine/Control.lean: branches, jumps, calls, tails, returns, captured blocks and software traps (R289 to
R305, R365, R366). -/

namespace Sys2Proof.Machine

/-! ## Branches and jumps -/

/-- The target of a displacement from the running instruction, as a number modulo 2^64 (R222). -/
def State.target (s : State) (disp : Int) : Nat := ((Int.ofNat s.me.pc + disp) % 2 ^ 64).toNat

/-- The code of the running image. -/
def State.myCode (s : State) : List (BitVec 32) :=
  match s.myImage with
  | some im => im.code
  | none => []

/-- Whether `br.full` or `br.empty` is taken: the state of `a`, where `qin` is full when the upstream channel holds an entry
(R289). -/
def State.isFull (s : State) (a : Nat) : Bool :=
  if a = 28 then s.upLink && s.myCore.chan != [] else (s.me.sreg a).st == .full

/-- `br` (R289). -/
def execBr (cc : Cc) (a b : Nat) (disp : BitVec 12) (s : State) : Answer :=
  let tgt := s.target (dispBytes disp)
  let jump (s : State) (taken : Bool) : State :=
    if !targetOk s.myCode tgt then s.trap 0x01 tgt else if taken then s.goto tgt else s.advance 4
  match cc with
  | .full => .next (jump s (s.isFull a))
  | .empty => .next (jump s (!s.isFull a))
  | _ => .next (s.withGate [.s a, .s b] [] fun s =>
      if !targetOk s.myCode tgt then s.trap 0x01 tgt
      else if ccHolds cc (s.sval a) (s.sval b) then (s.popIf [a, b]).goto tgt else (s.popIf [a, b]).advance 4)

/-- `jmp` (R290). -/
def execJmp (disp : BitVec 26) (s : State) : Answer :=
  let tgt := s.target (dispBytes disp)
  .next (if targetOk s.myCode tgt then s.goto tgt else s.trap 0x01 tgt)

/-- `jr` (R291). -/
def execJr (a : Nat) (s : State) : Answer :=
  .next (s.withGate [.s a] [] fun s =>
    let tgt := (s.sval a).toNat
    if tgt % 4 ≠ 0 then s.trap 0x03 tgt
    else if !targetOk s.myCode tgt then s.trap 0x01 tgt
    else (s.popIf [a]).goto tgt)

/-- `here` (R291). -/
def execHere (d : Nat) (s : State) : Answer := .next (s.scalarOp [] d 4 fun s => BitVec.ofNat 64 s.me.pc)

/-! ## Calls (R165, R294) -/

/-- The frame record of the running function for a site (R165). -/
def State.frameRecord (s : State) (im : Image) (site : Nat) (next : Nat) : List Byte :=
  leBytes 32 im.digest ++ leBytes 2 site ++ leBytes 2 (if im.transl then 1 else 0) ++ leBytes 4 im.tag ++ leBytes 4 next
    ++ leBytes 4 (im.sites.getD site (0, 0)).2 ++ leBytes 8 (s.me.sreg 30).val.toNat ++ leBytes 8 0

/-- The digest that an import names; an all-zero entry is the image's own (R251). -/
def Image.import? (im : Image) (imp : Nat) : Nat :=
  let g := im.imports.getD imp 0
  if g = 0 then im.digest else g

/-- The limits of a site and an import in native code; `c.addr` holds the instruction's words (R243, R293). -/
def State.withSite (s : State) (i : Instr) (site : Nat) (imp : Option Nat) (k : Image → State → State) : State :=
  match s.myImage with
  | none => s
  | some im =>
    let badImp : Bool := match imp with | some n => decide (im.imports.length ≤ n) | none => false
    if im.nsite ≤ site ∨ badImp then s.trap 0x01 i.wordVal else k im s

/-- Looks a callee up: a code fault parks, an empty fetch is `CODE_UNRESOLVED` (R159, R164). -/
def State.withImage (s : State) (digest addr : Nat) (k : Nat → Image → State → State) : State :=
  match s.look s.thr digest none with
  | (.hit slot im, s) => k slot im s
  | (.miss, s) => s.park (.code digest)
  | (.unresolved, s) => s.trap 0x08 addr

/-- A user moves from the running image to another, which is touched (R160, R161). -/
def State.moveUser (s : State) (slot : Nat) : State :=
  let pol := polOf s.cur
  (((s.addUser pol slot).dropUser pol s.me.img)).touchImage pol slot

/-- The thread continues at an offset of an installed image with a frame and a stack pointer. -/
def State.enter (s : State) (slot : Nat) (im : Image) (pc : Nat) (fp sp : Nat) : State :=
  (s.modMe fun t =>
    let t := (t.setS 30 (Cell.full (BitVec.ofNat 64 fp))).setS 31 (Cell.full (BitVec.ofNat 64 sp))
    { t with img := slot, digest := im.digest, tag := im.tag }).goto pc

/-- The rest of a call once its callee is found: the record's translation, eight store-buffer entries, the record and the
registers (R294). -/
def State.callRecord (s : State) (cur : Image) (site size slot : Nat) (im : Image) (pops : List Nat) : State :=
  let sp := (s.me.sreg 31).val.toNat
  let rec_ := (sp + 2 ^ 64 - 64) % 2 ^ 64
  s.withX rec_ true fun tgt s =>
    if s.sbFree < 8 then s.park .storeBuf
    else
      let s := s.enterRecord rec_ tgt (s.frameRecord cur site (s.me.pc + size))
      let s := (s.addFrame (polOf s.cur) s.me.img).moveUser slot
      (s.popIf pops).enter slot im 0 rec_ ((rec_ + 2 ^ 64 - im.frame) % 2 ^ 64)

/-- The registers a call reads and writes: `fp` and `sp`. -/
def frameRegs : List Desig := [.s 30, .s 31]

/-- A stack pointer must be 64-byte aligned. -/
def State.aligned64 (s : State) (r : Nat) (k : State → State) : State :=
  let x := (s.me.sreg r).val.toNat
  if x % 64 ≠ 0 then s.trap 0x03 x else k s

/-- `call` (R294). -/
def execCall (site imp : Nat) (s : State) : Answer :=
  .next (s.withSite (.call site imp) site (some imp) fun cur s =>
    s.withGate frameRegs frameRegs fun s =>
      s.aligned64 31 fun s =>
        s.withImage (cur.import? imp) 0 fun slot im s => s.callRecord cur site 4 slot im [])

/-- The rest of a tail: the user moves, `sp` is below the frame that stays (R295). -/
def State.tailEnter (s : State) (slot : Nat) (im : Image) (pops : List Nat) : State :=
  let fp := (s.me.sreg 30).val.toNat
  ((s.moveUser slot).popIf pops).enter slot im 0 fp ((fp + 2 ^ 64 - im.frame) % 2 ^ 64)

/-- `tail` (R295). -/
def execTail (site imp : Nat) (s : State) : Answer :=
  .next (s.withSite (.tail site imp) site (some imp) fun cur s =>
    s.withGate [.s 30] [.s 31] fun s =>
      s.aligned64 30 fun s => s.withImage (cur.import? imp) 0 fun slot im s => s.tailEnter slot im [])

/-- The digest of a function pointer (R168). -/
def State.withPointer (s : State) (p : Nat) (k : Nat → State → State) : State :=
  let ptr := (s.sval p).toNat
  if ptr % 8 ≠ 0 then s.trap 0x03 ptr
  else s.withRead ptr 32 fun bs s => if leNat bs = 0 then s.trap 0x08 ptr else k (leNat bs) s

/-- `callm` (R294). -/
def execCallm (p n : Nat) (s : State) : Answer :=
  .next (s.withSite (.callm p n) n none fun cur s =>
    s.withGate (.s p :: frameRegs) frameRegs fun s =>
      s.aligned64 31 fun s =>
        s.withPointer p fun g s =>
          s.withImage g (s.sval p).toNat fun slot im s => s.callRecord cur n 4 slot im [p])

/-- `tailm` (R295). -/
def execTailm (p n : Nat) (s : State) : Answer :=
  .next (s.withSite (.tailm p n) n none fun _ s =>
    s.withGate [.s p, .s 30] [.s 31] fun s =>
      s.aligned64 30 fun s =>
        s.withPointer p fun g s =>
          s.withImage g (s.sval p).toNat fun slot im s => s.tailEnter slot im [p])

/-! ## Returns (R166, R296, R365) -/

/-- The offset at which a frame record resumes in an installed image (R166): its own return offset under the same tag, else the
site table's. -/
def resumeAt (im : Image) (bs : List Byte) : Nat :=
  if im.tag = leAt bs 36 4 then leAt bs 40 4 else (im.sites.getD (leAt bs 32 2) (0, 0)).1

/-- A return continues in the caller (R166): the callee's user moves, the caller loses a frame. -/
def State.retEnter (s : State) (slot : Nat) (im : Image) (fp : Nat) (bs : List Byte) : State :=
  let s := (s.moveUser slot).dropFrame (polOf s.cur) slot
  s.enter slot im (resumeAt im bs) (leAt bs 48 8) ((fp + 64) % 2 ^ 64)

/-- A return's checks of the installed caller: the ordinal, then the offset (R166, R221). -/
def State.withReturn (s : State) (im : Image) (fp : Nat) (bs : List Byte) (k : State → State) : State :=
  if im.nsite ≤ leAt bs 32 2 then s.trap 0x05 fp
  else if !targetOk im.code (resumeAt im bs) then s.trap 0x01 (resumeAt im bs)
  else k s

/-- `ret` (R296). -/
def execRet (s : State) : Answer :=
  .next (s.withGate [.s 30] [.s 31] fun s =>
    s.aligned64 30 fun s =>
      let fp := (s.me.sreg 30).val.toNat
      s.withRead fp 64 fun bs s =>
        if leAt bs 56 8 ≠ 0 ∨ 2 ≤ leAt bs 34 2 then s.trap 0x05 fp
        else if leAt bs 0 32 = 0 then s.finishTask none true
        else
          let jw := (leAt bs 48 8 + 2 ^ 64 - 8) % 2 ^ 64
          match s.myCore.dequeEntry (slotNo s.cur) fp with
          | some e =>
            if !e.live then s.childEnds jw fun s => s.dequeDrop (coreOf s.cur) e
            else
              s.withImage (leAt bs 0 32) 0 fun slot im s =>
                s.withReturn im fp bs fun s => s.withObject jw 8 fun pa s =>
                  let s := s.putNum pa 4 ((s.num pa 4 + 2 ^ 32 - 1) % 2 ^ 32)
                  (s.dequeDrop (coreOf s.cur) e).retEnter slot im fp bs
          | none =>
            s.withImage (leAt bs 0 32) 0 fun slot im s =>
              s.withReturn im fp bs fun s => s.retEnter slot im fp bs)

/-- `trap` (R304). -/
def execTrap (imm : BitVec 16) (s : State) : Answer := .next (s.trap 0x0F imm.toNat)

end Sys2Proof.Machine
end

