-- ==== Sys2Proof/Machine/Net.lean ====
section
/-! DEFINITION. Sys2Proof/Machine/Net.lean: routes through the pod (R18, R55, R77, R80, R82), link packets (R80), and the input buffers of
a stack's routers (R77 to R79). What the packets of loads, stores and atomics ask for is done by the units that send them (log 24). -/

namespace Sys2Proof.Machine

/-! ## The torus (R18, R82, R86) -/

/-- The neighbour of a coordinate on a ring. -/
def ringStep (n x : Nat) (up : Bool) : Nat := if up then (x + 1) % n else (x + n - 1) % n

/-- The package at the far end of a port: −X, +X, −Y, +Y, −Z, +Z. -/
def torusNext (pkg port : Nat) : Nat :=
  let up := port % 2 == 1
  match port / 2 with
  | 0 => pkg / 8 * 8 + ringStep 8 (pkg % 8) up
  | 1 => pkg / 64 * 64 + ringStep 8 (pkg / 8 % 8) up * 8 + pkg % 8
  | _ => ringStep 16 (pkg / 64) up * 64 + pkg % 64

/-- The port at the far end. -/
def facing (port : Nat) : Nat := if port % 2 = 0 then port + 1 else port - 1

/-- The port by which a packet leaves a package for another (R82), none when it has arrived. (PRESUMED, log 26.) -/
def torusPort (here dst : Nat) : Option Nat :=
  let pick (n x y lo : Nat) : Option Nat :=
    let d := (y + n - x) % n
    if d = 0 then none else some (if 2 * d ≤ n then lo + 1 else lo)
  (pick 8 (here % 8) (dst % 8) 0).or ((pick 8 (here / 8 % 8) (dst / 8 % 8) 2).or (pick 16 (here / 64) (dst / 64) 4))

/-! ## The four sluices of a stack (R80) -/

/-- Where a sluice leads: another stack of the package, an Enrik port, or two Ethernet ports. -/
inductive SluiceTo where
  | bridge (stack : Nat)
  | enrik (port : Nat)
  | ethernet (low : Nat)
  deriving DecidableEq, Repr

/-- The sluices of the four stacks: north 0, south 1, west 2, east 3 (R80). -/
def sluiceTo (stack edge : Nat) : SluiceTo :=
  match stack % 4, edge with
  | 0, 0 => .enrik 2 | 0, 1 => .bridge 2 | 0, 2 => .enrik 0 | 0, _ => .bridge 1
  | 1, 0 => .enrik 4 | 1, 1 => .bridge 3 | 1, 2 => .bridge 0 | 1, _ => .enrik 1
  | 2, 0 => .bridge 0 | 2, 1 => .enrik 3 | 2, 2 => .ethernet 0 | 2, _ => .bridge 3
  | _, 0 => .bridge 1 | _, 1 => .ethernet 2 | _, 2 => .bridge 2 | _, _ => .enrik 5

/-- The slice whose router an edge's sluice joins: row × 16 + column (R55, R80). -/
def sluiceSlice (edge : Nat) : Nat :=
  match edge with
  | 0 => 0 * 16 + 8
  | 1 => 9 * 16 + 8
  | 2 => 4 * 16
  | _ => 5 * 16 + 15

/-- The sluice of an Enrik port: its stack in the package and its edge. -/
def portSluice (port : Nat) : Nat × Nat :=
  match port with
  | 0 => (0, 2)
  | 1 => (1, 3)
  | 2 => (0, 0)
  | 3 => (2, 1)
  | 4 => (1, 0)
  | _ => (3, 3)

/-- The Enrik ports whose sluices belong to a stack. -/
def portsOfStack (stk : Nat) : List Nat := (List.range 6).filter fun p => (portSluice p).1 == stk % 4

/-- The edge of a stack by which a packet goes to another stack of its package: straight, or across its column first. (DESIGN CHOICE,
log 101.) -/
def bridgeEdge (a b : Nat) : Nat :=
  if a % 4 % 2 ≠ b % 4 % 2 then (if a % 2 = 0 then 3 else 2) else if a % 4 < 2 then 1 else 0

/-! ## Link packets (R80) -/

/-- A packet has a form that R80 allows. (DESIGN CHOICE, log 64.) -/
def packetOk (bs : List Byte) : Bool :=
  let b (i : Nat) : Nat := (bs.getD i 0).toNat
  decide (16 ≤ bs.length) && b 0 / 16 == 0 && decide (b 0 % 8 < 6) && decide (b 1 ≤ 21) && bs.length == 16 + 16 * b 1
    && (if b 0 / 8 % 2 = 1 then (List.range 4).all fun i => b (8 + i) == 0 else b 11 == 0)

/-- A packet's class (R78). -/
def packetClass (bs : List Byte) : Nat := (bs.getD 0 0).toNat % 8

/-- The slice of a physical address: that of its home, bank, polder or core (R20, R55). -/
def paSlice (pa : Nat) : Nat :=
  let x := offOfPa pa
  match region pa with
  | .dram => homeSlice x
  | .sram => let b := (x - 0x80000000000) / 256 % 64; (if b < 32 then 0 else 9) * 16 + b % 16
  | .spad => (x - 0x90000000000) / 0x10000 / 32
  | .tcm => (x - 0xA0000000000) / 0x2000 / 256
  | _ => 0

/-- The slice, with its stack, to which a packet goes. -/
def packetSlice (bs : List Byte) : Nat :=
  if ((bs.getD 0 0).toNat / 8) % 2 = 1 then sliceOf (leNat ((bs.drop 4).take 4))
  else
    let pa := leNat ((bs.drop 4).take 7)
    stkOfPa pa * 256 + paSlice pa

/-- The stack and the package to which a packet goes. -/
def packetStk (bs : List Byte) : Nat := packetSlice bs / 256 % 2 ^ 12
def packetPkg (bs : List Byte) : Nat := packetStk bs / 4

/-- The largest payload of a class, in units of 16 bytes: a remote-access packet's 296 bytes take 19 (R78). -/
def classUnits (cls : Nat) : Nat :=
  match cls with
  | 0 => 19 | 1 => 19 | 2 => 2 | 3 => 21 | _ => 4

/-- The packets that a router input holds of a class (R78). -/
def classRoom (cls : Nat) : Nat :=
  match cls with
  | 0 => 4 | 1 => 4 | 2 => 2 | 3 => 2 | 4 => 2 | _ => 1

/-- A payload in whole units: zeros, and the number of added bytes in the last one. (DESIGN CHOICE, log 102.) -/
def padUnits (bs : List Byte) : List Byte :=
  let n := 16 - bs.length % 16
  bs ++ List.replicate (n - 1) 0 ++ leBytes 1 n

/-- The payload that was padded. -/
def unpadUnits (bs : List Byte) : List Byte := bs.take (bs.length - (bs.getLastD 0).toNat)

/-- A link packet to an endpoint (R80). -/
def linkPacket (cls dst src : Nat) (payload : List Byte) : List Byte :=
  leBytes 1 (cls + 8) ++ leBytes 1 (payload.length / 16) ++ leBytes 2 0 ++ leBytes 4 dst ++ leBytes 4 0 ++ leBytes 4 src ++ payload

/-- The pod time that the low 16 bits in a packet stand for: the nearest to the receiver's own (R91). -/
def rebuildTime (now low : Nat) : Nat :=
  let t := now / 2 ^ 16 * 2 ^ 16 + low % 2 ^ 16
  if now + 2 ^ 15 < t then t - 2 ^ 16 else if t + 2 ^ 15 ≤ now then t + 2 ^ 16 else t

/-! ## Routers (R77 to R79) -/

/-- The inputs of a router: from the north, the south, the west, the east, and from the slice's own agents. -/
def inputKey (input cls : Nat) : Nat := input * 8 + cls

/-- The packets of a router's input and class, oldest first. -/
def State.inputQ (s : State) (slice input cls : Nat) : List (List Byte) := (s.slice slice).inq.getD (inputKey input cls) []

/-- The input is ready for one more packet of the class. -/
def State.inputReady (s : State) (slice input cls : Nat) : Bool := decide ((s.inputQ slice input cls).length < classRoom cls)

def State.setInput (s : State) (slice input cls : Nat) (q : List (List Byte)) : State :=
  s.modSlice slice fun x => { x with inq := x.inq.put [] (inputKey input cls) q }

/-- A packet enters a router's input, which is ready. -/
def State.pushInput (s : State) (slice input : Nat) (bs : List Byte) : State :=
  s.setInput slice input (packetClass bs) (s.inputQ slice input (packetClass bs) ++ [bs])

/-- The oldest packet of an input and class leaves. -/
def State.popInput (s : State) (slice input cls : Nat) : State := s.setInput slice input cls ((s.inputQ slice input cls).drop 1)

/-- An agent of a slice gives its router a packet of a size that its class carries; it waits while the input is not ready. -/
def State.inject (s : State) (slice : Nat) (bs : List Byte) : State :=
  if packetOk bs ∧ (bs.getD 1 0).toNat ≤ classUnits (packetClass bs) ∧ slice % 256 < 160 ∧ s.inputReady slice 4 (packetClass bs) then
    s.pushInput slice 4 bs
  else s

/-- What a packet does next at a router. -/
inductive Hop where
  | here
  | router (slice input : Nat)
  | sluice (edge : Nat)
  deriving DecidableEq, Repr

/-- One step in the mesh toward a slice: along the row to its column, then along the column (R77). -/
def meshStep (slice dst : Nat) : Option (Nat × Nat) :=
  let (x, y) := (slice % 16, slice % 256 / 16)
  let (u, v) := (dst % 16, dst % 256 / 16)
  if x < u then some (slice + 1, 2)
  else if u < x then some (slice - 1, 3)
  else if y < v then some (slice + 16, 0)
  else if v < y then some (slice - 16, 1)
  else none

/-- The edge by which a packet for another stack leaves a stack: toward the stack in its package, or toward the departure port's (R82). -/
def exitEdge (stk dst : Nat) : Nat :=
  match torusPort (stk / 4) (dst / 4) with
  | none => bridgeEdge stk dst
  | some p => if (portSluice p).1 = stk % 4 then (portSluice p).2 else bridgeEdge stk (portSluice p).1

/-- The next hop of a packet at a router. -/
def nextHop (slice : Nat) (bs : List Byte) : Hop :=
  let dst := packetSlice bs
  if dst / 256 = slice / 256 then
    match meshStep slice dst with
    | some (n, i) => .router n i
    | none => .here
  else
    let e := exitEdge (slice / 256) (dst / 256)
    match meshStep slice (slice / 256 * 256 + sluiceSlice e) with
    | some (n, i) => .router n i
    | none => .sluice e

/-- The router and input by which a packet that comes into a stack over its bridges or from a port of another stack enters its mesh. -/
def meshEntry (dst src : Nat) : Nat × Nat :=
  let e := bridgeEdge dst src
  (dst * 256 + sluiceSlice e, e)

/-! ## Routes that a failed port cuts (R88) -/

/-- The Enrik ports of the route between two packages: (package, port). -/
def routePorts : Nat → Nat → Nat → List (Nat × Nat)
  | 0, _, _ => []
  | n + 1, here, dst =>
    match torusPort here dst with
    | none => []
    | some p => (here, p) :: routePorts n (torusNext here p) dst

/-- A port of the route between two packages, or the port that faces it, has failed: what goes that way is discarded (R88). -/
def State.routeCut (s : State) (a b : Nat) : Bool :=
  let failed (pkg port : Nat) : Bool := (((s.package pkg).ports.getD port Port.reset).state == .failed)
  (routePorts 17 a b).any fun e => failed e.1 e.2 || failed (torusNext e.1 e.2) (facing e.2)

end Sys2Proof.Machine
end

