-- ==== Sys2Proof/Machine/Flow.lean ====
section
/-! DEFINITION. Sys2Proof/Machine/Flow.lean: what becomes of loads, atomics and stores once they have issued (R52 to R76, R315): where they
bind or perform, in what order, and what each memory does with them. A slot's loads bind in program order. The memory that serves a
load binds its value; the core counts the load as performed when the reply reaches it (R62). -/

namespace Sys2Proof.Machine

/-! ## Entries of a load queue -/

/-- Changes a load of a thread. -/
def State.modLoad (s : State) (thr seq : Nat) (f : LoadEnt → LoadEnt) : State :=
  s.modThread thr fun t => { t with loadq := t.loadq.map fun e => if e.seq = seq then f e else e }

/-- A load's value is bound (R62), with the places of its poisoned bytes. -/
def State.bind (s : State) (thr : Nat) (e : LoadEnt) (data : List Byte) (bad : List Nat) (phase : LoadPhase) : State :=
  s.modLoad thr e.seq fun e =>
    { e with phase := phase, data := data, mark := (badVa e.vas bad).map (loadMark e.pc e.img) }

/-- A load that a TCM has served is performed at once; any other waits for its reply (R62). -/
def servedPhase (ps : List Piece) : LoadPhase := if piecesTcm ps then .arrived else .bound

/-- Every word of an access is full (R66). -/
def State.allFull (s : State) (ps : List Piece) : Bool :=
  (coveredBytes ps).all fun b => s.wordFull b.1

/-- Sets every word of an access empty. -/
def State.emptyAll (s : State) (ps : List Piece) : State := (coveredBytes ps).foldl (fun s b => s.setEmpty b.1) s

/-- A `sync` or `take` load at full words (R66, R179). -/
def State.bindFull (s : State) (thr : Nat) (e : LoadEnt) : State :=
  let (g, s) := s.readPieces (stkOf (thr * 2)) (thr * 2) none e.pieces true 0 []
  let s := if e.kind = .take then s.emptyAll e.pieces else s
  s.bind thr e g.data g.bad (servedPhase e.pieces)

/-- Serves the table of the memory that holds a word, from its head (R67). -/
def State.serveFull (s : State) (pa : Nat) : State :=
  let (l, s) := (s.waiters pa).foldl (fun (acc : List WaitEnt × State) w =>
    let s := acc.2
    match w.load with
    | none => (acc.1 ++ [w], s)
    | some seq =>
      match (s.thread w.thr).loadq.find? fun e => e.seq == seq with
      | none => (acc.1, s)
      | some e =>
        if s.allFull e.pieces then (acc.1, s.bindFull w.thr e) else (acc.1 ++ [w], s)) ([], s)
  s.setWaiters pa l

/-- Serves the tables of every local word that an access covers. -/
def State.serveWords (s : State) (ps : List Piece) : State :=
  (coveredBytes ps).foldl (fun s b =>
    if b.1 % 4 = 0 ∧ (region b.1 = .tcm ∨ region b.1 = .spad) ∧ s.waiters b.1 ≠ [] then s.serveFull b.1 else s) s

/-- A word is full once its last byte is written by an engine or the matrix unit (R66), and its waiters are served. -/
def State.engineFills (s : State) (ps : List Piece) : State :=
  (coveredBytes ps).foldl (fun s b =>
    if b.1 % 4 = 3 ∧ (region b.1 = .tcm ∨ region b.1 = .spad) then (s.setFull b.1).serveFull (b.1 / 4 * 4) else s) s

/-! ## Atomics (R315) -/

/-- The new value of an atomic. -/
def amoNew (fn : AmoFn) (w old x y : Nat) : Nat :=
  let f (g : BitVec 32 → BitVec 32 → BitVec 32) : Nat := (g (BitVec.ofNat 32 old) (BitVec.ofNat 32 x)).toNat
  match fn with
  | .add => (old + x) % 2 ^ w
  | .and => Nat.land old x
  | .or => Nat.lor old x
  | .xor => Nat.xor old x
  | .min => opMin w old x
  | .max => opMax w old x
  | .minu => min old x
  | .maxu => max old x
  | .swap => x
  | .cas => if old = x then y else old
  | .fadd => f f32Add
  | .fmax => f f32Max

/-- An atomic performs at its serving memory, past any far line of its line (R63, R122, R179). -/
def State.performAmo (s : State) (thr : Nat) (e : LoadEnt) (fn : AmoFn) (wide : Bool) (x y : Nat) : State :=
  let stk := stkOf (thr * 2)
  let n := if wide then 8 else 4
  match e.pieces with
  | [{ tgt := .dev pa cached _, .. }] =>
    match (s.dropFar stk (devLine pa)).readDev (stkOfPa pa) none pa n cached true 0 (thr * 2) with
    | ({ data := bs, bad := a :: l }, s) => s.bind thr e bs ((a :: l).map (· - pa)) (servedPhase e.pieces)
    | ({ data := bs, bad := [] }, s) =>
      let s := s.writeRun (stkOfPa pa) pa (leBytes n (amoNew fn (8 * n) (leNat bs) x y)) cached true (thr * 2)
      s.bind thr e bs [] (servedPhase e.pieces)
  | [{ tgt := .host ha _ attr, .. }] =>
    let s := s.dropFar stk (hostLine ha)
    let tag := (s.stack stk).htag
    let r : HostRd := { tag := tag, thr := thr, seq := e.seq, piece := 0, epoch := (s.stack stk).hepoch, attr := attr }
    let s := s.modStack stk fun k => { k with htag := (k.htag + 1) % 2 ^ 14, hreads := k.hreads ++ [r] }
    (s.modLoad thr e.seq fun e => { e with phase := .host }).emit (.hostAtomic tag ha fn wide x y attr)
  | _ => s

/-! ## Loads at their memories (R54, R57 to R62, R69, R75) -/

/-- The lines held for a stack in which the access meets invalid words (R60). -/
def State.lacksWords (s : State) (stk : Nat) (ps : List Piece) : List Nat :=
  ((pieceLines ps).filter fun e => decide (e.1 < 2 ^ 60) && (match s.line? (proxyOf stk e.1) e.1 with
    | some l => l.kind != .replica && l.wv &&& e.2 != e.2
    | none => false)).map (·.1)

/-- A merging fill of a held line (R60). -/
def State.mergeFill (s : State) (stk line ep : Nat) : State :=
  let sl := proxyOf stk line
  match s.line? sl line with
  | some l =>
    if l.kind = .far then
      let (l, s) := s.fillFar line l 1 ep
      s.setLine sl line l
    else s.fillHome (line * 64) 1 ep
  | none => s

/-- Host data that a load lacks: whole lines for cached pages, the piece otherwise; a key, the address, the length and the attributes. -/
def State.loadLacks (s : State) (stk : Nat) (e : LoadEnt) : List (Nat × Nat × Nat × HostAttr) :=
  e.pieces.zipIdx.flatMap fun p => match p.1.tgt with
    | .host ha cached attr =>
      if cached ∧ e.kind ≠ .acq then (s.hostLinesLacking stk p.1).map fun ln => (hostLine ln, ln, 64, attr)
      else if e.got.any fun g => g.1 == p.2 then []
      else [(p.2, ha, p.1.len, attr)]
    | _ => []

/-- Asks the host for what an access of a thread lacks, once for each. -/
def State.askLacks (s : State) (thr seq : Nat) (lacks : List (Nat × Nat × Nat × HostAttr)) : State :=
  lacks.foldl (fun s l =>
    if (s.stack (stkOf (thr * 2))).hreads.any fun h => h.thr == thr && h.seq == seq && h.piece == l.1 then s
    else s.hostAsk thr seq l.1 l.2.1 l.2.2.1 l.2.2.2) s

/-- Asks the host for what a load lacks. -/
def State.askHost (s : State) (thr : Nat) (e : LoadEnt) (lacks : List (Nat × Nat × Nat × HostAttr)) : State :=
  (s.askLacks thr e.seq lacks).modLoad thr e.seq fun e => { e with phase := .host }

/-- An access waits: a line that it would allocate finds every way of its set pinned (R61). `sl` is the slice that may keep a
replica. -/
def State.roomless (s : State) (stk : Nat) (sl : Option Nat) (ps : List Piece) (bypass : Bool) : Bool :=
  ps.any fun p => match p.tgt with
    | .dev pa true _ => region pa == .dram && (cutLines (p.len / 64 + 2) pa p.len 0).any fun c =>
        let line := devLine c.1
        let home := proxyDev (stkOfPa c.1) c.1
        if stkOfPa c.1 = stk ∨ bypass then
          (s.replica? sl c.1 c.2.1).isNone && (s.noRoom home line || (match sl with
            | some own => own != home && s.noRoom own line
            | none => false))
        else (s.line? (proxyDev stk c.1) line).isNone && (s.noRoom (proxyDev stk c.1) line || s.noRoom home line)
    | .host ha true _ => !bypass && (cutLines (p.len / 64 + 2) ha p.len 0).any fun c =>
        s.noRoom (proxyOf stk (hostLine c.1)) (hostLine c.1)
    | _ => false

/-- The signature that a home line's slot gives to an acquire (R75). -/
def State.lineSig (s : State) (pa : Nat) : Option (BitVec 1024 × Nat) :=
  let sl := proxyDev (stkOfPa pa) pa
  match s.line? sl (devLine pa) with
  | some l => l.sig.bind fun n => ((s.slice sl).sigs.find? n).map fun g => (g.bits, g.ts)
  | none => none

/-- Reads an access for a load and binds it; an acquire at pod or host scope goes on to the slices (R75). A load that carries the
bypass mark neither uses nor leaves a replica (R58, R62). -/
def State.bindRead (s : State) (thr : Nat) (e : LoadEnt) (marked : Bool) : State :=
  let ep := thr * 2
  let wide := e.kind == .acq && wideScope e.pieces
  let host := e.got.map fun g => (g.1, g.2.2)
  let own := if e.kind = .acq ∨ marked then none else some (sliceOf ep)
  let (g, s) := s.readPieces (stkOf ep) ep own e.pieces wide 0 host
  let hostBad := (e.got.filter fun g => g.2.1).flatMap fun g => match e.pieces[g.1]? with
    | some p => (List.range p.len).map (p.lo + ·)
    | none => []
  let bad := g.bad ++ hostBad
  if !wide then s.bind thr e g.data bad (servedPhase e.pieces)
  else
    let sig := match e.pieces with
      | [{ tgt := .dev pa _ _, .. }] => s.lineSig pa
      | _ => none
    let a : Acq := { thr := thr, seq := e.seq, sig := sig, left := List.range 160 }
    (s.bind thr e g.data bad .acquiring).modStack (stkOf ep) fun k => { k with acqs := k.acqs ++ [a] }

/-- A load reaches its memory. What must wait there stays as it is: for pins of a far line that goes first (R76), or of a full set
(R61). -/
def State.serveLoad (s : State) (thr : Nat) (e : LoadEnt) (marked : Bool) : State :=
  let stk := stkOf (thr * 2)
  let wide := e.kind == .acq && wideScope e.pieces
  match e.kind with
  | .amo fn wide x y =>
    let own := e.pieces.flatMap fun p => match p.tgt with
      | .dev pa _ _ => [devLine pa]
      | .host ha _ _ => [hostLine ha]
      | _ => []
    if (s.farPinned stk fun line _ => own.contains line) ∨ s.roomless stk none e.pieces true then s else s.performAmo thr e fn wide x y
  | .sync | .take =>
    if s.allFull e.pieces then s.bindFull thr e
    else
      match e.pieces with
      | [{ tgt := .dev pa _ _, .. }] =>
        match s.joinWaiters pa { thr := thr, load := some e.seq, pa := pa } with
        | (true, s) => s.modLoad thr e.seq fun e => { e with phase := .table, held := true }
        | (false, s) => s.modLoad thr e.seq fun e => { e with phase := .refused }
      | _ => s
  | _ =>
    let stale := s.roamStale thr e.pieces
    if s.farPinned stk fun line _ => stale.contains line then s
    else
      let s := stale.foldl (fun s l => s.dropFar stk l) s
      let lacks := s.loadLacks stk e
      let own := if e.kind = .acq ∨ marked then none else some (sliceOf (thr * 2))
      if s.roomless stk own e.pieces wide then s
      else if lacks ≠ [] then s.askHost thr e lacks
      else if !wide ∧ s.lacksWords stk e.pieces ≠ [] then s.modLoad thr e.seq fun e => { e with phase := .merging }
      else s.bindRead thr e marked

/-- The memory that serves an access of a stack, where loads or stores of a slot keep their order without waiting for replies: the home
or the proxy slice, a TCM or a scratchpad (R62, R65); one number for each. -/
def servingOf (stk : Nat) (p : Piece) : Option Nat :=
  match p.tgt with
  | .dev pa _ _ =>
    match region pa with
    | .tcm => some (3 * coreOfTcm pa)
    | .spad => some (3 * polOfSpad pa + 1)
    | .dram => some (3 * proxyDev stk pa + 2)
    | _ => none
  | .host ha _ _ => some (3 * proxyHost stk ha + 2)
  | _ => none

/-- All pieces of two accesses go to one serving slice or one local memory. -/
def sameServing (stk : Nat) (a b : List Piece) : Bool :=
  match a, b with
  | p :: _, _ :: _ => (servingOf stk p).isSome && (a ++ b).all fun q => servingOf stk q == servingOf stk p
  | _, _ => false

/-- The load of a thread that binds next: every older one is bound. (DEDUCED, log 52.) -/
def Thread.nextLoad (t : Thread) : Option LoadEnt := t.loadq.find? fun e => e.phase != .bound && e.phase != .arrived

/-- The older loads of a thread's load that the core does not yet count as performed (R62). -/
def Thread.unperformed (t : Thread) (e : LoadEnt) : List LoadEnt :=
  (t.loadq.takeWhile fun l => l.seq != e.seq).filter fun l => l.phase != .arrived

/-- A load may be sent while older ones are unperformed: all go to one serving memory, and none of the older ones is a gather, an
atomic or ordered, nor is this one a gather (R62, R114, R122, R313). -/
def mayPass (stk : Nat) (older : List LoadEnt) (e : LoadEnt) : Bool :=
  older.all fun l => l.kind == .plain && e.kind != .gather && sameServing stk l.pieces e.pieces

/-- A line operation of the slot that holds its younger loads (R319), or an older store that an ordered access waits for. -/
def Core.holdsLoad (c : Core) (slot : Nat) (e : LoadEnt) : Bool :=
  (c.pending slot).any fun x => decide (x.seq < e.seq) && x.kind == .inval

/-- An access goes to a package that a failed port has cut off: its request or its reply is discarded on the way, and it ends by R92 (R88). -/
def State.cutOff (s : State) (stk : Nat) (ps : List Piece) : Bool :=
  ps.any fun p => match p.tgt with
    | .dev pa _ _ =>
      let there := stkOfPa pa / 4
      there != stk / 4 && (s.routeCut (stk / 4) there || s.routeCut there (stk / 4))
    | _ => false

/-- The next load of a thread goes to its memory, if it is one of the local memories or not as asked (R62, R64). -/
def State.runLoad (s : State) (ep : Nat) (local_ : Bool) : State :=
  let thr := thrOf ep
  let t := s.thread thr
  match t.nextLoad with
  | none => s
  | some e =>
    let c := s.core (coreOf ep)
    let older := t.unperformed e
    if e.phase ≠ .queued ∨ piecesLocal e.pieces ≠ local_ ∨ c.holdsLoad (slotNo ep) e ∨ s.memoryHeld e.pieces
        ∨ s.cutOff (stkOf ep) e.pieces ∨ !mayPass (stkOf ep) older e then s
    else match c.forward (slotNo ep) e.seq e.kind.ordered e.pieces with
      | .wait => s
      | .from data => s.bind thr e data [] .arrived
      | .memory => s.serveLoad thr e (older != [])

/-! ## Stores (R59, R64 to R66, R74, R75, R319, R320, R324) -/

/-- A store that runs step 2 of R74 first: a release at pod or host scope, or a fill for another stack (R119). -/
def StoreEnt.releases (e : StoreEnt) (stk : Nat) : Bool :=
  match e.kind with
  | .rel => wideScope e.pieces
  | .relfill => wideScope e.pieces
  | .send c _ => stkOf (c % 2 ^ 32) != stk
  | _ => false

/-- No older load of a store's slot is unperformed (R65). -/
def State.loadsBefore (s : State) (core : Nat) (e : StoreEnt) : Bool :=
  (s.thread (core * 8 + e.slot)).loadq.all fun l => decide (e.seq < l.seq) || l.phase == .arrived

/-- The entries before the first waiting one, and that one. -/
def splitWaiting : List StoreEnt → List StoreEnt × Option StoreEnt
  | [] => ([], none)
  | e :: l =>
    if e.phase = .waiting then ([], some e)
    else
      let (a, w) := splitWaiting l
      (e :: a, w)

/-- Changes an entry of a store buffer. -/
def State.modStore (s : State) (core seq : Nat) (f : StoreEnt → StoreEnt) : State :=
  s.modCore core fun c => { c with sb := c.sb.map fun e => if e.seq = seq then f e else e }

/-- The next store of a buffer may be sent: it is the head, or every store before it goes to the same serving memory (R65); a release
and a `send` wait for the stores before them (R74, R119). -/
def State.mayStore (s : State) (core : Nat) (before : List StoreEnt) (e : StoreEnt) : Bool :=
  let stk := stkOfCore core
  s.loadsBefore core e && before.all fun x => sameServing stk x.pieces e.pieces && !e.releases stk

/-- A fill leaves with its `send` entry (R324); a failed port on its way discards it (R88). -/
def State.sendFill (s : State) (core c val : Nat) : State :=
  let ep := c % 2 ^ 32
  if s.routeCut (stkOfCore core / 4) (pkgOf ep) then s else
  let f : Fill :=
    { ep := ep, dst := contReg? c, due := .cont, val := BitVec.ofNat 64 val, val2 := 0, mark := none,
      time := s.podTime (stkOfCore core / 4), cross := stkOf ep != stkOfCore core }
  s.modPolder (polOf ep) fun p => { p with inflight := p.inflight ++ [f] }

/-- The next store of a buffer is sent; a `send` is performed by it. -/
def State.sendStore (s : State) (core : Nat) : State :=
  match splitWaiting (s.core core).sb with
  | (before, some e) =>
    if !s.mayStore core before e ∨ (e.releases (stkOfCore core) ∧ !e.released) then s
    else match e.kind with
      | .send c val => (s.sendFill core c val).modStore core e.seq fun e => { e with phase := .performed }
      | _ => s.modStore core e.seq fun e => { e with phase := .sent }
  | _ => s

/-- Step 2 of R74 for the next store of a buffer. -/
def State.releaseStore (s : State) (core : Nat) : State :=
  match splitWaiting (s.core core).sb with
  | (before, some e) =>
    if s.mayStore core before e ∧ e.releases (stkOfCore core) ∧ !e.released then
      (s.writebackFar (stkOfCore core)).modStore core e.seq fun e => { e with released := true }
    else s
  | _ => s

/-- The home lines that a store writes (R58). -/
def homeLines (stk : Nat) (bypass : Bool) (ps : List Piece) : List Nat :=
  (ps.flatMap fun p => match p.tgt with
    | .dev pa cached _ =>
      if region pa = .dram ∧ (stkOfPa pa = stk ∨ !cached ∨ bypass) then
        (cutLines (p.len / 64 + 2) pa p.len 0).map fun c => devLine c.1
      else []
    | _ => []).eraseDups

/-- A home line with replicas. -/
def State.hasReplicas (s : State) (line : Nat) : Bool :=
  match s.line? (proxyOf (stkOfPa (line * 64)) line) line with
  | some l => l.dir != 0
  | none => false

/-- The replicas of a home line go; `dir` still names them until all have answered (R58). -/
def State.dropReplicas (s : State) (line : Nat) : State :=
  let stk := stkOfPa (line * 64)
  match s.line? (proxyOf stk line) line with
  | some l => (List.range 160).foldl (fun s n => if l.dir.getLsbD n then s.dropLine (stk * 256 + n) line else s) s
  | none => s

/-- A release store marks its flag line with the accumulator's signature (R74, R75); `old` is the slot the line held. -/
def State.signFlag (s : State) (stk pa : Nat) (old : Option SigSlot) : State :=
  let sl := proxyDev (stkOfPa pa) pa
  let a := (s.stack stk).acc
  let bits := a.sig ||| a.old.getD 0
  match s.line? sl (devLine pa) with
  | none => s
  | some l =>
    let slots := (s.slice sl).sigs
    match (List.range 8).find? fun n => (slots.find? n).isNone with
    | none => s
    | some n =>
      let g : SigSlot := match old with
        | some g => { g with bits := g.bits ||| bits, ts := max g.ts a.t }
        | none => { line := devLine pa, bits := bits, ts := max (s.podTime (stkOfPa pa / 4)) a.t }
      (s.modSlice sl fun x => { x with sigs := x.sigs.insert n g }).setLine sl (devLine pa) { l with sig := some n }

/-- The slot of a flag line. -/
def State.flagSlot (s : State) (pa : Nat) : Option SigSlot :=
  let sl := proxyDev (stkOfPa pa) pa
  match s.line? sl (devLine pa) with
  | some l => l.sig.bind fun n => (s.slice sl).sigs.find? n
  | none => none

/-- The line operations (R319): `clean` writes dirty words back, `inval` also drops what is not the only copy. -/
def State.lineOp (s : State) (core : Nat) (slot : Nat) (inval : Bool) (t : Target) : State :=
  let stk := stkOfCore core
  match t with
  | .dev pa _ _ =>
    if region pa ≠ .dram then s
    else
      let line := devLine pa
      if stkOfPa pa ≠ stk then (if inval then s.dropFar stk line else s.writebackLine stk line)
      else if inval then
        let own := sliceOf (epOf core slot)
        match s.line? own line with
        | some l => if l.kind = .replica then s.evict own line else s
        | none => s
      else s.writebackHome pa
  | .host ha _ _ => if inval then s.dropFar stk (hostLine ha) else s.writebackLine stk (hostLine ha)
  | _ => s

/-- A `zero` on a host page is one posted write (R320). -/
def StoreEnt.posted (e : StoreEnt) : Bool :=
  e.kind == .zero && e.pieces.any fun p => match p.tgt with | .host _ _ _ => true | _ => false

/-- A store passes the far line of its own line: a release at pod or host scope, and a posted `zero` (R74, R320). -/
def StoreEnt.bypasses (e : StoreEnt) (stk : Nat) : Bool := e.releases stk || e.posted

/-- The L2 lines of the pieces, cached or not. -/
def ownLines (ps : List Piece) : List Nat :=
  (ps.flatMap fun p => match p.tgt with
    | .dev pa _ _ => if region pa = .dram then (cutLines (p.len / 64 + 2) pa p.len 0).map fun c => devLine c.1 else []
    | .host ha _ _ => (cutLines (p.len / 64 + 2) ha p.len 0).map fun c => hostLine c.1
    | _ => []).eraseDups

/-- The effect of a store at its memory. -/
def State.storeEffect (s : State) (core : Nat) (e : StoreEnt) : State :=
  let stk := stkOfCore core
  let ep := epOf core e.slot
  let fills := e.kind == .fill || e.kind == .relfill
  match e.kind with
  | .clean => e.pieces.foldl (fun s p => s.lineOp core e.slot false p.tgt) s
  | .inval => e.pieces.foldl (fun s p => s.lineOp core e.slot true p.tgt) s
  | _ =>
    if e.bypasses stk then
      let s := (ownLines e.pieces).foldl (fun s l => s.dropFar stk l) s
      match e.releases stk, e.pieces with
      | true, [{ tgt := .dev pa _ _, .. }] =>
        let old := s.flagSlot pa
        (s.writePieces stk e.pieces e.data fills true ep).signFlag stk pa old
      | _, _ => s.writePieces stk e.pieces e.data fills true ep
    else
      let s := s.writePieces stk e.pieces e.data fills false ep
      if fills then s.serveWords e.pieces else s

/-- A store performs. -/
def State.performStore (s : State) (core : Nat) (e : StoreEnt) : State :=
  (s.storeEffect core e).modStore core e.seq fun e => { e with phase := .performed }

/-- What a store waits for at its memory: a pinned far line that it drops (R76), or a set with every way pinned (R61). -/
def State.storePinned (s : State) (core : Nat) (e : StoreEnt) : Bool :=
  let stk := stkOfCore core
  let drops := if e.bypasses stk ∨ e.kind = .inval then ownLines e.pieces else []
  (s.farPinned stk fun line _ => drops.contains line)
    || (e.kind != .clean && e.kind != .inval && s.roomless stk none e.pieces (e.bypasses stk))

/-- The host lines of which a store covers a word only in part, and which lack it: a merging fill comes first (R59, R69). -/
def State.storeLacks (s : State) (core : Nat) (e : StoreEnt) : List (Nat × Nat × Nat × HostAttr) :=
  let stk := stkOfCore core
  if e.bypasses stk ∨ e.kind = .clean ∨ e.kind = .inval then []
  else e.pieces.flatMap fun p => match p.tgt with
    | .host ha true attr => (s.hostWordsLacking stk ha p.len partMask).map fun ln => (hostLine ln, ln, 64, attr)
    | _ => []

/-- The oldest sent store of a buffer reaches its memory, if it is one of the local memories or not as asked. -/
def State.runStore (s : State) (core : Nat) (local_ : Bool) : State :=
  match (s.core core).sb.find? fun e => e.phase != .performed with
  | none => s
  | some e =>
    let stk := stkOfCore core
    let lineOp := e.kind == .clean || e.kind == .inval
    let lines := if lineOp then [] else homeLines stk (e.bypasses stk) e.pieces
    let lacks := s.storeLacks core e
    if e.phase ≠ .sent ∨ piecesLocal e.pieces ≠ local_ ∨ s.storePinned core e ∨ s.memoryHeld e.pieces
        ∨ s.cutOff stk e.pieces then s
    else if lacks ≠ [] then
      (s.askLacks (core * 8 + e.slot) e.seq lacks).modStore core e.seq fun e => { e with phase := .filling }
    else if lines.any s.hasReplicas then
      (lines.foldl (fun s l => s.dropReplicas l) s).modStore core e.seq fun e => { e with phase := .invalidating }
    else s.performStore core e

/-! ## The events of the data path -/

/-- BANK_ACCESS (R54): a TCM or scratchpad bank serves a thread's next load, or its core's next store. -/
def execBankAccess (ep : Nat) (store : Bool) (s : State) : Answer :=
  .next (if store then s.runStore (coreOf ep) true else s.runLoad ep true)

/-- REPLICA_INVALIDATION_DONE (R58): a core's store performs once its home's replicas have gone. -/
def execReplicaInvalidationDone (core : Nat) (s : State) : Answer :=
  .next (match (s.core core).sb.find? fun e => e.phase == .invalidating with
    | some e => s.performStore core e
    | none => s)

/-- MERGING_FILL (R60): the lines that a thread's load waits for receive their invalid words. -/
def execMergingFill (ep : Nat) (s : State) : Answer :=
  let stk := stkOf ep
  .next (match (s.thread (thrOf ep)).nextLoad with
    | some e =>
      if e.phase = .merging then
        ((s.lacksWords stk e.pieces).foldl (fun s l => s.mergeFill stk l ep) s).modLoad (thrOf ep) e.seq
          fun e => { e with phase := .queued }
      else s
    | none => s)

/-- WAIT_TABLE_RESEND (R67): a request that a full table refused is sent again. -/
def execWaitTableResend (ep : Nat) (s : State) : Answer :=
  .next (match (s.thread (thrOf ep)).nextLoad with
    | some e => if e.phase = .refused then s.modLoad (thrOf ep) e.seq fun e => { e with phase := .queued } else s
    | none => s)

/-- STORE_BUFFER_SEND (R65). -/
def execStoreBufferSend (core : Nat) (s : State) : Answer := .next (s.sendStore core)

/-- STORE_ACK (R65): the head of a buffer has performed and leaves. -/
def execStoreAck (core : Nat) (s : State) : Answer :=
  .next (match (s.core core).sb with
    | e :: rest => if e.phase = .performed then s.modCore core fun c => { c with sb := rest } else s
    | [] => s)

/-- RELEASE_WRITEBACK_DONE (R74): every dirty far line of the stack is written back for a core's release. -/
def execReleaseWritebackDone (core : Nat) (s : State) : Answer := .next (s.releaseStore core)

/-- A load's value reaches its register; the poison of an atomic without a register is raised at the next issue, that of a load is
discarded with its value (R179, R308). A value that a wait table served goes through the polder's inbox when the thread has entered a
handler since its load issued (R67, R429). (DEDUCED, log 41.) -/
def State.deliverLoad (s : State) (thr : Nat) (e : LoadEnt) : State :=
  let t := s.thread thr
  let s := s.modThread thr fun t => { t with loadq := t.loadq.filter fun x => x.seq != e.seq, wait := .no }
  match e.dest.desig, e.held && decide (e.level < t.level) with
  | some d, true =>
    let val : W64 := match e.dest.value e.data with | .s x => x | _ => 0
    s.toInbox { ep := thr * 2, dst := d, due := .result, val := val, val2 := 0, mark := e.mark, time := s.timeAt (thr * 2), cross := false }
  | some _, false => s.modThread thr fun t => t.land e.dest e.data e.mark
  | none, _ =>
    match e.kind, e.mark with
    | .amo _ _ _ _, some m => s.modThread thr fun t => { t with late := t.late.orElse fun _ => some m }
    | _, _ => s

/-- A value that an instruction computed reaches its register. -/
def State.deliverDue (s : State) (thr : Nat) (f : DueVal) : State :=
  s.modThread thr fun t => { (t.put f.dst f.val f.mark) with fills := t.fills.erase f, wait := .no }

/-- LONG_LATENCY_FILL (R192): result `k` of those that a thread's registers wait for and that are ready: loads with their replies first. -/
def execLongLatencyFill (ep k : Nat) (s : State) : Answer :=
  let thr := thrOf ep
  let t := s.thread thr
  let ready := t.loadq.filter fun e => e.phase == .bound || e.phase == .arrived
  .next (match ready[k]? with
    | some e => s.deliverLoad thr e
    | none =>
      match t.fills[k - ready.length]? with
      | some f => s.deliverDue thr f
      | none => s)

/-! ## Far lines and acquires (R71, R72, R75) -/

/-- Eight milliseconds in the 256 ns units of a stamp. -/
def sweepAge : Nat := 31250

/-- FAR_LINE_SWEEP (R71): a slice drops its far lines of 8 ms or older, except pinned ones (R76). -/
def execFarLineSweep (sl : Nat) (s : State) : Answer :=
  let stk := stkOfSlice sl
  let now := stampOf (s.podTime (stk / 4))
  .next ((s.farLines sl).foldl (fun s line =>
    match s.line? sl line with
    | some l => if sweepAge ≤ (now + 2 ^ 16 - l.stamp) % 2 ^ 16 then s.dropFar stk line else s
    | none => s) s)

/-- The set bits of a signature. -/
def sigCount (b : BitVec 1024) : Nat := ((List.range 1024).filter fun i => b.getLsbD i).length

/-- 256 µs in ticks. -/
def accumPeriod : Nat := 1024000

/-- ACCUMULATOR_RENEWAL (R72): after 256 µs, or with 512 bits set, a stack opens an empty signature. -/
def execAccumulatorRenewal (stk : Nat) (s : State) : Answer :=
  let a := (s.stack stk).acc
  .next (if a.old.isNone ∧ (a.start + accumPeriod ≤ s.podTime (stk / 4) ∨ 512 ≤ sigCount a.sig) then
    s.modStack stk fun k => { k with acc := { k.acc with sig := 0, old := some a.sig, start := s.podTime (stk / 4) } }
  else s)

/-- ACCUMULATOR_RENEWAL_DONE (R72): the far writebacks of the old signature are acknowledged, T is set. -/
def execAccumulatorRenewalDone (stk : Nat) (s : State) : Answer :=
  .next (match (s.stack stk).acc.old with
    | some _ => s.modStack stk fun k => { k with acc := { k.acc with old := none, t := s.podTime (stk / 4) } }
    | none => s)

/-- A far line that an acquire drops (R75). -/
def acquireDrops (sig : Option (BitVec 1024 × Nat)) (line : Nat) (l : Line) : Bool :=
  match sig with
  | none => true
  | some (b, ts) =>
    let addr := if line < 2 ^ 60 then line * 64 else (line - 2 ^ 60) * 64
    sigMatch b addr || stampOld ts l

/-- ACQUIRE_SLICE_INVALIDATE (R75): slice `sl` of a stack does what acquire `i` asks; a pinned line holds it up (R76). -/
def execAcquireSliceInvalidate (stk i sl : Nat) (s : State) : Answer :=
  .next (match (s.stack stk).acqs[i]? with
    | none => s
    | some a =>
      let key := stk * 256 + sl
      let drops := (s.farLines key).filter fun line => match s.line? key line with
        | some l => acquireDrops a.sig line l
        | none => false
      if !a.left.contains sl ∨ drops.any fun line => (match s.line? key line with | some l => l.pins != 0 | none => false) then s
      else
        (drops.foldl (fun s line => s.dropFar stk line) s).modStack stk fun k =>
          { k with acqs := modNth i (fun a => { a with left := a.left.erase sl }) k.acqs })

/-- ACQUIRE_COMPLETE (R75, R117): every slice has answered; the accumulator inherits and the load is performed. -/
def execAcquireComplete (stk i : Nat) (s : State) : Answer :=
  .next (match (s.stack stk).acqs[i]? with
    | none => s
    | some a =>
      if a.left ≠ [] then s
      else
        let s := match a.sig with
          | some (b, ts) => s.modStack stk fun k => { k with acc := { k.acc with sig := k.acc.sig ||| b, t := max k.acc.t ts } }
          | none => s.raiseT stk (s.podTime (stk / 4))
        let s := s.modStack stk fun k => { k with acqs := k.acqs.eraseIdx i }
        s.modLoad a.thr a.seq fun e => { e with phase := .bound })

/-! ## Time-outs and fills -/

/-- A far access (R92): to another stack's device memory or to the host. (DESIGN CHOICE, log 24.) -/
def farAccess (stk : Nat) (ps : List Piece) : Bool :=
  ps.any fun p => match p.tgt with
    | .dev pa _ _ => stkOfPa pa != stk
    | .host _ _ _ => true
    | _ => false

/-- What a failed far access leaves. -/
def failedMark (pc img va : Nat) : Mark := { cause := 0x13, addr := va, origin := pc, efn := img }

/-- FAR_REQUEST_TIMEOUT (R92): a thread's oldest far load without a reply, its core's next store, or a read that its parked
instruction made has had no reply. (DEDUCED, log 39.) (DESIGN CHOICE, log 40.) -/
def execFarRequestTimeout (ep : Nat) (store : Bool) (s : State) : Answer :=
  let thr := thrOf ep
  let stk := stkOf ep
  let late (s : State) (thr : Nat) (m : Mark) : State := s.modThread thr fun t => { t with late := t.late.orElse fun _ => some m }
  let drop (s : State) (thr seq : Nat) : State :=
    s.modStack stk fun k => { k with hreads := k.hreads.filter fun h => !(h.thr == thr && h.seq == seq) }
  .next (if store then
    match (s.core (coreOf ep)).sb.find? fun e => e.phase != .performed with
    | some e =>
      if e.phase ≠ .waiting ∧ farAccess stk e.pieces then
        let owner := coreOf ep * 8 + e.slot
        late ((drop s owner e.seq).modStore (coreOf ep) e.seq fun e => { e with phase := .performed }) owner
          (failedMark e.pc e.img e.va)
      else s
    | none => s
  else match (s.thread thr).loadq.find? fun e => e.phase != .arrived && farAccess stk e.pieces with
    | some e =>
      let m := failedMark e.pc e.img (vaOf e.vas 0)
      let s := (drop s thr e.seq).modStack stk fun k => { k with acqs := k.acqs.filter fun a => !(a.thr == thr && a.seq == e.seq) }
      let fail (s : State) (mark : Option Mark) : State :=
        s.modLoad thr e.seq fun e => { e with phase := .arrived, data := [], mark := mark }
      match e.kind with
      | .amo _ _ _ _ => late (fail s (e.dest.desig.map fun _ => m)) thr m
      | _ => fail s (some m)
    | none =>
      if (s.thread thr).wait = .host ∧ (s.stack stk).hreads.any fun h => h.thr == thr && h.seq == 0 then
        late (drop s thr 0) thr (failedMark (s.thread thr).pc (s.thread thr).img (Config.faultAddr s.fresh).toNat)
      else s)

/-- SEND_FILL_ARRIVAL (R324): the oldest fill on its way to a polder arrives; one from another stack, whose time of sending is rebuilt from
its low bits (R91), waits for pinned far lines that R119 drops. -/
def execSendFillArrival (pol : Nat) (s : State) : Answer :=
  .next (match (s.polder pol).inflight with
    | [] => s
    | f :: rest =>
      let f := if f.cross then { f with time := rebuildTime (s.podTime (stkOfPol pol / 4)) f.time } else f
      if f.cross ∧ s.farPinned (stkOfPol pol) fun _ l => stampOld f.time l then s
      else (s.modPolder pol fun p => { p with inflight := rest }).fillArrives f)

end Sys2Proof.Machine
end

