-- ==== Sys2Proof/Machine/Copy.lean ====
section
/-! DEFINITION. Sys2Proof/Machine/Copy.lean: tags, the copy engine and its instructions (R381 to R387, R390, R450, R451, R453), and what
the copy and put engines share: translation for an engine (R46, R452), its writes (R66, R120), stops (R383). An engine
translates at the moment a sector performs (DESIGN CHOICE, log 20). -/

namespace Sys2Proof.Machine

/-! ## Tags (R382) -/

/-- A copy or put is issued on a tag. -/
def State.tagIssue (s : State) (core t : Nat) : State :=
  s.modCore core fun c =>
    { c with tagCount := c.tagCount.put 0 t (c.tagCount.getD t 0 + 1), tg := c.tg &&& ~~~(1#64 <<< t) }

/-- A copy or put of a tag ends: at a count of 0 the tag's bit sets. -/
def State.tagDrop (s : State) (core t : Nat) : State :=
  s.modCore core fun c =>
    let n := c.tagCount.getD t 0 - 1
    { c with tagCount := c.tagCount.put 0 t n, tg := if n = 0 then c.tg ||| (1#64 <<< t) else c.tg }

/-- Sets a tag's stop flag. -/
def State.tagStops (s : State) (core t : Nat) : State :=
  s.modCore core fun c => { c with tagStop := c.tagStop ||| (1#64 <<< t) }

/-- Where a core's state of a job that is away stands (R416). -/
def savedCoreKey (dike core : Nat) : Nat := dike * 2 ^ 40 + core

/-- The tag state of a save area stands after its 8,448 bytes of matrix state: `tg` in 8 bytes, 64 counts of 13 bits in 104 bytes, the stop
flags in 8 bytes, then single bytes (R14, R361, R416). (DESIGN CHOICE, log 104.) -/
def tagArea (area : Nat) : Nat := area + 8448
def countOf (x t : Nat) : Nat := x / 2 ^ (13 * t) % 2 ^ 13

/-- A put or get of a dike ends on a tag of a core, also while the dike is away from the core (R416, R430). -/
def State.tagDropOf (s : State) (dike core t : Nat) : State :=
  match s.jobs.find? (savedCoreKey dike core) with
  | some j =>
    let stk := stkOfCore core
    let (x, s) := s.sysNum stk dike (tagArea j.area + 8) 104
    let n := countOf x t - 1
    let s := s.sysPut stk dike (tagArea j.area + 8) (leBytes 104 (x - (countOf x t - n) * 2 ^ (13 * t)))
    if n ≠ 0 then s
    else
      let (g, s) := s.sysNum stk dike (tagArea j.area) 8
      s.sysPut stk dike (tagArea j.area) (leBytes 8 (Nat.lor g (2 ^ t)))
  | none => s.tagDrop core t

/-- A put or get of a dike stops on a tag of a core: its flag, and the stop to trap with (R389, R424). -/
def State.putStopOf (s : State) (dike core t : Nat) (stop : Option PutStop) : State :=
  match s.jobs.find? (savedCoreKey dike core) with
  | some j =>
    let stk := stkOfCore core
    let (x, s) := s.sysNum stk dike (tagArea j.area + 112) 8
    let s := s.sysPut stk dike (tagArea j.area + 112) (leBytes 8 (Nat.lor x (2 ^ t)))
    { s with jobs := s.jobs.insert (savedCoreKey dike core) { j with putStops := j.putStops ++ stop.toList } }
  | none => (s.tagStops core t).modCore core fun c => { c with putStops := c.putStops ++ stop.toList }

/-- Clears a tag's stop flag. -/
def Core.clearStop (c : Core) (t : Nat) : Core :=
  { c with tagStop := c.tagStop &&& ~~~(1#64 <<< t), putStops := c.putStops.filter fun x => x.tag != t }

/-- The older stores that an engine's work waits for have performed (R120). -/
def State.handed (s : State) (ep after : Nat) : Bool :=
  !((s.core (coreOf ep)).sb.any fun e => e.slot == slotNo ep && decide (e.seq ≤ after) && e.phase != .performed)

/-! ## Translation for an engine (R46, R452, R454) -/

/-- What a translation of an engine's bytes gives. -/
inductive Eng where
  | ok (ps : List Piece)
  | wait
  | stop (cause addr ua flags prgi : Nat)
  deriving DecidableEq, Repr

/-- An engine's access misses the ATC: it waits for the completion, and stops where the page is not present or the answer was an
error. `who` names the access by its age. -/
def State.engineHost (s : State) (stk dike va ua : Nat) (wr : Bool) (who : Nat) : Eng × State :=
  let k := s.stack stk
  let pasid := k.dike dike 4 4
  let page := ua / 4096
  let w := if wr then 1 else 0
  let same (h : HostReq) : Bool := h.pasid == pasid && h.ua / 4096 == page
  match k.efail.find? fun e => e.pasid == pasid && e.page == page && e.who == who with
  | some e =>
    let s := s.modStack stk fun k => { k with efail := k.efail.erase e }
    match e.prgi with
    | some g => (.stop 0x12 va ua (w + 2) g, s)
    | none => (.stop 0x12 va ua w 0, s)
  | none =>
    match (k.hreqs ++ k.hwaitq).find? same with
    | some h =>
      if h.paging ∧ h.sent then (.stop 0x12 va ua (w + 2) h.prgi, s)
      else
        let join (h : HostReq) : HostReq :=
          if same h then { h with engines := if h.engines.any fun x => x.1 == who then h.engines else h.engines ++ [(who, wr)], write := h.write || wr }
          else h
        (.wait, s.modStack stk fun k => { k with hreqs := k.hreqs.map join, hwaitq := k.hwaitq.map join })
    | none =>
      if 256 ≤ k.hreqs.length then (.wait, s)
      else
        let h : HostReq :=
          { pasid := pasid, ua := page * 4096, write := wr, thrs := [], dike := dike, paging := false, sent := true, prgi := 0,
            rounds := 0, stale := false, engines := [(who, wr)], stopRec := [], asked := 0, paged := false }
        (.wait, (s.modStack stk fun k => { k with hreqs := k.hreqs ++ [h] }).emit
          (.translationRequest pasid (page * 4096) (!wr)))

/-- An engine's access has ended: no stop and no request names it any more. -/
def State.forgetEngine (s : State) (stk who : Nat) : State :=
  let f (h : HostReq) : HostReq := { h with engines := h.engines.filter fun x => x.1 != who }
  s.modStack stk fun k =>
    { k with efail := k.efail.filter fun e => e.who != who, hreqs := k.hreqs.map f, hwaitq := k.hwaitq.map f }

/-- The pieces of an engine's bytes, for the core of an endpoint, or for no core; `who` is the age of the access. -/
def State.enginePieces (s : State) (stk dike : Nat) (ep : Option Nat) (wr : Bool) (va n who : Nat) : Eng × State :=
  if !inWindows va ∧ s.walkHeld stk dike va then (.wait, s)
  else match s.agentPieces stk dike ep wr (n / 4096 + 2) va n 0 with
  | (.ok ps, s) => (.ok ps, s)
  | (.error (_, a, some ua), s) => s.engineHost stk dike a ua wr who
  | (.error (c, a, none), s) => (.stop c a 0 (if wr then 1 else 0) 0, s)

/-! ## What an engine reads and writes -/

/-- The bytes of the host pieces that an answer has to bring: no far line holds them. -/
def State.hostFor (s : State) (stk : Nat) (ps : List Piece) (data : List Byte) : List (Nat × List Byte) :=
  ((s.hostMissing stk ps).foldl (fun (acc : List (Nat × List Byte) × List Byte) e =>
    let n := match ps[e.1]? with | some p => p.len | none => 0
    (acc.1 ++ [(e.1, acc.2.take n)], acc.2.drop n)) ([], data)).1

/-- An engine of a stack writes bytes: its far lines of the lines go first, and the stack's accumulator names every line (R66,
R72, R120, R181). -/
def State.engineWrite (s : State) (stk : Nat) (ps : List Piece) (data : List Byte) : State :=
  let lines := ownLines ps
  let s := lines.foldl (fun s l => s.dropFar stk l) s
  let s := s.writePieces stk ps data false true 0
  (lines.foldl (fun s l => s.accumulate stk ((if l < 2 ^ 60 then l else l - 2 ^ 60) * 64)) s).engineFills ps

/-- An engine's write waits: for pins on far lines that it drops (R76), for a full set (R61), for a wipe or a lane swap (R172,
R184). -/
def State.enginePinned (s : State) (stk : Nat) (ps : List Piece) : Bool :=
  let lines := ownLines ps
  (s.farPinned stk fun line _ => lines.contains line) || s.roomless stk none ps true || s.memoryHeld ps

/-- An engine's use of bytes that it both reads and writes waits (R76, R172, R184). -/
def State.engineWaits (s : State) (stk dike : Nat) (ep : Option Nat) (va n : Nat) : Bool :=
  (!inWindows va && s.walkHeld stk dike va) || match (s.agentPieces stk dike ep true (n / 4096 + 2) va n 0).1 with
  | .ok ps => s.enginePinned stk ps || s.cutOff stk ps
  | .error _ => false

/-- The barrier object of an engine's transfer: its place, or what naming it raises (R379, R383). -/
def State.engineBar (s : State) (stk dike ep va : Nat) : Except (Nat × Nat) (Nat × Bar) × State :=
  match s.enginePieces stk dike (some ep) true va 32 0 with
  | (.ok [{ tgt := .dev pa cached _, .. }], s) =>
    match (s.dropFar stk (devLine pa)).readDev (stkOfPa pa) none pa 32 cached true 3 ep with
    | ({ bad := a :: _, .. }, s) => (.error (0x07, va + (a - pa)), s)
    | (_, s) =>
      match s.barAt pa with
      | some b => (.ok (pa, b), s)
      | none => (.error (0x05, va), s)
  | (.stop c a _ _ _, s) => (.error (c, a), s)
  | (_, s) => (.error (0x05, va), s)

/-- A stop sets the barrier's stopped flag, where the object can be reached (R383). -/
def State.barStops (s : State) (stk dike ep va : Nat) : State :=
  match s.engineBar stk dike ep va with
  | (.ok (pa, b), s) => s.putBar pa { b with flags := barFlags b.phase true b.overflow }
  | (.error _, s) => s

/-- Keeps the record of the first stop that joined a page request, for the kind-4 record (R452). -/
def State.keepStop (s : State) (stk prgi : Nat) (r : List Byte) : State :=
  let f (h : HostReq) : HostReq := if h.paging ∧ h.sent ∧ h.prgi = prgi ∧ h.stopRec = [] then { h with stopRec := r } else h
  s.modStack stk fun k => { k with hreqs := k.hreqs.map f, hwaitq := k.hwaitq.map f }

/-! ## Copy records (R381, R14) -/

/-- A core's ordinal within its dike in the stack (R14). -/
def State.ordinal (s : State) (core : Nat) : Nat :=
  let pol := core / 8
  let dike := (s.polder pol).dike
  8 * (s.polders.filter fun e => stkOfPol e.1 == stkOfPol pol && e.2.dike == dike && decide (e.1 < pol)).length + core % 8

/-- The address of copy record 0 of a core, and of record `i`. -/
def State.copyBase (s : State) (core : Nat) : Nat :=
  (s.stack (stkOfCore core)).dike (s.polder (core / 8)).dike 104 8 + 2048 * s.ordinal core
def State.copyAddr (s : State) (core i : Nat) : Nat := s.copyBase core + 128 * i

/-- A copy record as it stands in memory. -/
structure CopyRec where
  dst : Nat
  src : Nat
  len : Nat
  done : Nat
  tag : Nat
  status : Nat
  flags : Nat
  cause : Nat
  pc : Nat
  bar : Nat
  stopAddr : Nat
  efn : Nat
  ep : Nat
  bitmap : Nat
  deriving DecidableEq, Repr

/-- The record of 128 bytes. -/
def copyRecOf (bs : List Byte) : CopyRec :=
  { dst := leAt bs 0 8, src := leAt bs 8 8, len := leAt bs 16 4, done := leAt bs 20 4, tag := leAt bs 24 1 % 64,
    status := leAt bs 25 1, flags := leAt bs 26 1, cause := leAt bs 27 1, pc := leAt bs 28 4, bar := leAt bs 32 8,
    stopAddr := leAt bs 40 8, efn := leAt bs 48 2, ep := leAt bs 52 4, bitmap := leAt bs 64 64 }

/-- Record `i` of a core, all zero when its area cannot be read (R15). -/
def State.copyRec (s : State) (core i : Nat) : CopyRec × State :=
  let stk := stkOfCore core
  let dike := (s.polder (core / 8)).dike
  match s.sysRead stk dike (s.copyAddr core i) 128 with
  | (.ok bs, s) => (copyRecOf bs, s)
  | (.error (c, a), s) => (copyRecOf [], s.sysFault stk dike c a)

/-- Sets a field of a record. -/
def State.copyPut (s : State) (core i off : Nat) (bs : List Byte) : State :=
  s.sysPut (stkOfCore core) (s.polder (core / 8)).dike (s.copyAddr core i + off) bs

/-- The indexes of a core's records that a test selects, with the records. -/
def State.copiesWith (s : State) (core : Nat) (p : CopyRec → Bool) : List (Nat × CopyRec) × State :=
  (List.range 16).foldl (fun (acc : List (Nat × CopyRec) × State) i =>
    let (r, s) := acc.2.copyRec core i
    (if p r then acc.1 ++ [(i, r)] else acc.1, s)) ([], s)

/-! ## Sectors (R381) -/

/-- Where sector `j` begins in the copy, its length, and the number of sectors. -/
def sectorLo (dst j : Nat) : Nat := if j = 0 then 0 else 32 * j - dst % 32
def sectorLen (dst len j : Nat) : Nat := min len (32 * (j + 1) - dst % 32) - sectorLo dst j
def sectorCount (dst len : Nat) : Nat := (dst % 32 + len + 31) / 32

/-- Sectors that have not performed and may still: those before a stop (R383). -/
def CopyRec.pending (c : CopyRec) (r : CopyRun) : List Nat :=
  (List.range (sectorCount c.dst c.len)).filter fun j =>
    !c.bitmap.testBit j && (match r.stop with | some x => decide (j < x.sector) | none => true)

/-- An access of an engine waits for the host's answer about a page. -/
def State.engineAsked (s : State) (stk dike : Nat) (ep : Option Nat) (wr : Bool) (va n who : Nat) : Bool :=
  match (s.agentPieces stk dike ep wr (n / 4096 + 2) va n 0).1 with
  | .error (_, _, some ua) =>
    let k := s.stack stk
    (k.hreqs ++ k.hwaitq).any fun h =>
      h.pasid == k.dike dike 4 4 && h.ua / 4096 == ua / 4096 && h.engines.any fun x => x.1 == who
  | _ => false

/-- The sectors that a copy has in flight or issues next, in ascending order: those before one whose page it waits for (R383, R451). -/
def State.copyIssues (s : State) (core : Nat) (c : CopyRec) (r : CopyRun) : List Nat :=
  let stk := stkOfCore core
  let dike := (s.polder (core / 8)).dike
  let asked (wr : Bool) (va j : Nat) : Bool :=
    s.engineAsked stk dike (some r.ep) wr ((va + sectorLo c.dst j) % 2 ^ 64) (sectorLen c.dst c.len j) r.after
  ((c.pending r).take 16).takeWhile fun j => !(asked false c.src j || asked true c.dst j)

/-- Puts a run in its place by age. -/
def insertCopyRun (x : Nat × CopyRun) : List (Nat × CopyRun) → List (Nat × CopyRun)
  | [] => [x]
  | y :: l => if x.2.after ≤ y.2.after then x :: y :: l else y :: insertCopyRun x l

/-- A polder's running copies that the engine has, oldest first (R451). -/
def State.running (s : State) (pol : Nat) : List (Nat × CopyRun) :=
  (((List.range 8).flatMap fun i => (s.core (pol * 8 + i)).copies.map fun r => (pol * 8 + i, r)).filter fun e =>
    s.handed e.2.ep e.2.after).foldr insertCopyRun []

/-- The sectors in flight: at most 16, oldest copy first, in ascending order (R383, R451): (core, record, sector). A copy that waits for
a translation takes no place of another. -/
def State.copyWindow (s : State) (pol : Nat) : List (Nat × Nat × Nat) × State :=
  let (l, s) := (s.running pol).foldl (fun (acc : List (Nat × Nat × Nat) × State) e =>
    let (c, s) := acc.2.copyRec e.1 e.2.idx
    (acc.1 ++ (s.copyIssues e.1 c e.2).map fun j => (e.1, e.2.idx, j), s)) ([], s)
  (l.take 16, s)

/-- Changes a running copy. -/
def State.modRun (s : State) (core i : Nat) (f : CopyRun → CopyRun) : State :=
  s.modCore core fun c => { c with copies := c.copies.map fun r => if r.idx = i then f r else r }

/-- A copy leaves the engine and its tag's count drops. -/
def State.endRun (s : State) (core i tag : Nat) : State :=
  let s := ((s.core core).copies.filter fun r => r.idx == i).foldl (fun s r => s.forgetEngine (stkOfCore core) r.after) s
  (s.modCore core fun c => { c with copies := c.copies.filter fun r => r.idx != i }).tagDrop core tag

/-- A stopped copy whose sectors before the stop have performed: stop fields and status 2, the fault-queue record, the barrier's
and the tag's flags (R383). -/
def State.copyStopped (s : State) (core : Nat) (r : CopyRun) (x : CopyStop) : State :=
  let stk := stkOfCore core
  let dike := (s.polder (core / 8)).dike
  let (c, s) := s.copyRec core r.idx
  let now := s.podTime (stk / 4)
  let (eng, s) := s.enginePieces stk dike none true (s.copyAddr core r.idx) 128 0
  let recPa := match eng with | .ok ({ tgt := .dev pa _ _, .. } :: _) => pa | _ => 0
  let s := s.copyPut core r.idx 27 (leBytes 1 x.cause)
  let s := (s.copyPut core r.idx 40 (leBytes 8 x.addr)).copyPut core r.idx 56 (leBytes 8 now)
  let s := s.copyPut core r.idx 25 (leBytes 1 2)
  let fq := faultRecord now x.addr x.ua c.ep c.pc 2 x.cause x.flags c.tag x.prgi 0xFFFF c.efn recPa c.done
  let s := s.faultQueue stk dike fq
  let s := if x.flags / 2 % 2 = 1 then s.keepStop x.port x.prgi fq else s
  let s := if c.flags.testBit 1 then s.barStops stk dike r.ep c.bar else s
  (s.tagStops core c.tag).endRun core r.idx c.tag

/-- The barrier object that a copy names cannot be changed yet. -/
def State.copyBarWaits (s : State) (core : Nat) (r : CopyRun) (c : CopyRec) : Bool :=
  c.flags.testBit 1 && s.engineWaits (stkOfCore core) (s.polder (core / 8)).dike (some r.ep) c.bar 32

/-- Ends a copy when nothing is left of it: a stopping one once its barrier can be changed, one whose sectors have all performed
unless it is being killed, for it then keeps its record (R383, R385). -/
def State.copySettle (s : State) (core i : Nat) : State :=
  match (s.core core).copies.find? fun r => r.idx == i with
  | none => s
  | some r =>
    let (c, s) := s.copyRec core i
    match r.stop with
    | none =>
      if c.pending r = [] ∧ !r.killed then (s.copyPut core i 25 (leBytes 1 0)).endRun core i c.tag else s
    | some x => if c.pending r = [] ∧ !s.copyBarWaits core r c then s.copyStopped core r x else s

/-- A sector meets a stop (R383). -/
def State.copyStop (s : State) (core i : Nat) (x : CopyStop) : State :=
  (s.modRun core i fun r => { r with stop := some x }).copySettle core i

/-- A sector has performed: its bit, the bytes done, the barrier's bytes, and the end of the copy. -/
def State.copySectorDone (s : State) (core : Nat) (r : CopyRun) (c : CopyRec) (j : Nat) : State :=
  let stk := stkOfCore core
  let n := sectorLen c.dst c.len j
  let count (s : State) : State :=
    let c := { c with bitmap := c.bitmap + 2 ^ j, done := c.done + n }
    let s := (s.copyPut core r.idx 20 (leBytes 4 c.done)).copyPut core r.idx (64 + j / 8)
      (leBytes 1 (c.bitmap / 2 ^ (8 * (j / 8)) % 256))
    if r.stop.isSome then s.copySettle core r.idx
    else if c.bitmap = 2 ^ sectorCount c.dst c.len - 1 ∧ !r.killed then (s.copyPut core r.idx 25 (leBytes 1 0)).endRun core r.idx c.tag
    else s
  if c.flags.testBit 1 then
    match s.engineBar stk (s.polder (core / 8)).dike r.ep c.bar with
    | (.ok (pa, b), s) => count (s.barAdd pa b 0 n)
    | (.error (cause, a), s) =>
      s.copyStop core r.idx { port := stk, sector := j, cause := cause, addr := a, ua := 0, flags := 1, prgi := 0 }
  else count s

/-- One sector of a running copy. (DEDUCED, log 38.) -/
def State.copySector (s : State) (core : Nat) (r : CopyRun) (j : Nat) (late : Bool) (data : List Byte) (bad : Bool) : State :=
  let stk := stkOfCore core
  let dike := (s.polder (core / 8)).dike
  let (c, s) := s.copyRec core r.idx
  let lo := sectorLo c.dst j
  let n := sectorLen c.dst c.len j
  let src := (c.src + lo) % 2 ^ 64
  let dst := (c.dst + lo) % 2 ^ 64
  let stop (s : State) (cause a ua flags prgi : Nat) : State :=
    s.copyStop core r.idx { port := stk, sector := j, cause := cause, addr := a, ua := ua, flags := flags, prgi := prgi }
  match s.enginePieces stk dike (some r.ep) false src n r.after with
  | (.wait, s) => s
  | (.stop cause a ua f g, s) => stop s cause a ua f g
  | (.ok sp, s) =>
    match s.enginePieces stk dike (some r.ep) true dst n r.after with
    | (.wait, s) => s
    | (.stop cause a ua f g, s) => stop s cause a ua f g
    | (.ok dp, s) =>
      if late ∧ farAccess stk sp then stop s 0x13 src 0 0 0
      else if late ∧ farAccess stk dp then stop s 0x13 dst 0 1 0
      else if s.enginePinned stk dp ∨ s.memoryHeld sp ∨ s.cutOff stk (sp ++ dp) ∨ s.copyBarWaits core r c then s
      else
        let host := s.hostFor stk sp data
        let (g, s) := s.readPieces stk r.ep none sp false 3 host
        match g.bad.min? with
        | some k => stop s 0x07 ((src + k) % 2 ^ 64) 0 0 0
        | none =>
          if bad ∧ host ≠ [] then stop s 0x07 src 0 0 0
          else (s.engineWrite stk dp g.data).copySectorDone core r c j

/-- COPY_SECTOR_PERFORMED (R383): sector `j` of a core's copy in record `i` performs, with the bytes that the host supplied for it
and whether they came in error, or its access times out. -/
def execCopySectorPerformed (core i j : Nat) (late : Bool) (data : List Byte) (bad : Bool) (s : State) : Answer :=
  .next (match (s.core core).copies.find? fun r => r.idx == i with
    | none => s
    | some r =>
      let (w, s) := s.copyWindow (core / 8)
      if w.contains (core, i, j) then s.copySector core r j late data bad else s.copySettle core i)

/-! ## The `cpy` major (R382, R383, R385, R386) -/

/-- The checks of a barrier that a copy names: none for `s0` (R383). -/
def State.withCopyBar (s : State) (bar : Nat) (k : State → State) : State :=
  if bar = 0 then k s else s.withBar (s.sval bar).toNat fun _ _ s => k s

/-- The flags byte of a record. -/
def copyFlags (trap : Bool) (bar : Nat) : Nat := (if trap then 1 else 0) + (if bar = 0 then 0 else 2)

/-- Hands a copy to the engine (R120). -/
def State.startRun (s : State) (i t : Nat) : State :=
  let core := coreOf s.cur
  let s := s.nextSeq
  let r : CopyRun := { idx := i, ep := s.cur, after := s.seq, stop := none, killed := false }
  (s.modCore core fun c => { c with copies := c.copies ++ [r] }).tagIssue core t

/-- `cpy` (R383). -/
def execCpy (d a b bar tag : Nat) (trap : Bool) (s : State) : Answer :=
  .next (s.withGate [.s d, .s a, .s b, .s bar] [] fun s =>
    let n := (s.sval d).toNat
    let dst := (s.sval a).toNat
    let src := (s.sval b).toNat
    if n = 0 ∨ 16384 < dst % 32 + n then s.trap 0x01 n
    else if dst < src + n ∧ src < dst + n then s.trap 0x01 dst
    else if s.me.roam then s.trapOpen 0x0D
    else s.withCopyBar bar fun s =>
      let core := coreOf s.cur
      match s.copiesWith core fun r => r.status == 0 with
      | ([], s) => s.park .record
      | ((i, _) :: _, s) =>
        let va := if bar = 0 then 0 else (s.sval bar).toNat
        let r := leBytes 8 dst ++ leBytes 8 src ++ leBytes 4 n ++ leBytes 4 0 ++ leBytes 1 tag ++ leBytes 1 1
          ++ leBytes 1 (copyFlags trap bar) ++ leBytes 1 0 ++ leBytes 4 s.me.pc ++ leBytes 8 va ++ leBytes 8 0
          ++ leBytes 2 s.me.img ++ leBytes 2 0 ++ leBytes 4 s.cur ++ leBytes 8 0 ++ List.replicate 64 0
        (((s.copyPut core i 0 r).startRun i tag).popIf [d, a, b, bar]).advance 8)

/-- The record of the issuing core that an address names. -/
def State.recordAt (s : State) (va : Nat) : Option Nat :=
  let base := s.copyBase (coreOf s.cur)
  if base ≤ va ∧ (va - base) % 128 = 0 ∧ (va - base) / 128 < 16 then some ((va - base) / 128) else none

/-- `cpyrep` (R385). -/
def execCpyrep (a bar tag : Nat) (trap : Bool) (s : State) : Answer :=
  .next (s.withGate [.s a, .s bar] [] fun s =>
    let va := (s.sval a).toNat
    let core := coreOf s.cur
    match s.recordAt va with
    | none => s.trap 0x01 va
    | some i =>
      let (r, s) := s.copyRec core i
      if r.status ≠ 2 ∧ r.status ≠ 3 then s.trap 0x01 va
      else if s.me.roam then s.trapOpen 0x0D
      else s.withCopyBar bar fun s =>
        let b := if bar = 0 then 0 else (s.sval bar).toNat
        let s := s.copyPut core i 24 (leBytes 1 tag ++ leBytes 1 1 ++ leBytes 1 (copyFlags trap bar) ++ leBytes 1 0)
        let s := (s.copyPut core i 32 (leBytes 8 b ++ leBytes 8 0)).copyPut core i 56 (leBytes 8 0)
        ((s.startRun i tag).popIf [a, bar]).advance 8)

/-- The status word of a tag (R386). -/
def Core.tagWord (c : Core) (t stopped : Nat) : W64 :=
  BitVec.ofNat 64 ((if c.tg.getLsbD t then 2 ^ 25 else 0) + (if c.tagStop.getLsbD t then 2 ^ 24 else 0)
    + min (c.tagCount.getD t 0) 255 * 2 ^ 16 + stopped)

/-- `cpystat` (R386). -/
def execCpystat (d tag : Nat) (s : State) : Answer :=
  .next (s.withGate [] [.s d] fun s =>
    let (l, s) := s.copiesWith (coreOf s.cur) fun r => (r.status == 2 || r.status == 3) && r.tag == tag
    let mask := (l.map fun e => 2 ^ e.1).foldl (· + ·) 0
    (s.putS d (s.myCore.tagWord tag mask)).advance 8)

/-- Frees records of a core. -/
def State.freeRecords (s : State) (core : Nat) (l : List (Nat × CopyRec)) : State :=
  l.foldl (fun s e => s.copyPut core e.1 25 (leBytes 1 0)) s

/-- The running copies of a tag. -/
def State.runsOf (s : State) (core tag : Nat) : List CopyRun × State :=
  (s.core core).copies.foldl (fun (acc : List CopyRun × State) r =>
    let (c, s) := acc.2.copyRec core r.idx
    (if c.tag = tag then acc.1 ++ [r] else acc.1, s)) ([], s)

/-- `cpykill` (R385): it names the running copies and parks; sectors in flight may complete until it issues again and ends
them. -/
def execCpykill (tag : Nat) (s : State) : Answer :=
  let core := coreOf s.cur
  let (runs, s) := s.runsOf core tag
  .next (if runs.any fun r => !r.killed then
    (runs.foldl (fun s r => s.modRun core r.idx fun r => { r with killed := true }) s).park .unit
  else
    let s := runs.foldl (fun s r => (s.copyPut core r.idx 25 (leBytes 1 3)).endRun core r.idx tag) s
    let (l, s) := s.copiesWith core fun r => r.status == 2 && r.tag == tag
    ((s.freeRecords core l).modMyCore fun c => c.clearStop tag).advance 8)

end Sys2Proof.Machine
end

