-- ==== Sys2Proof/Machine/Matrix.lean ====
section
/-! DEFINITION. Sys2Proof/Machine/Matrix.lean: the matrix instructions and the matrix unit of a polder (chapter 15). -/

namespace Sys2Proof.Machine

/-! ## The format context (R349, R350) -/

/-- The formats of A and B operands: classes 0 to 4. -/
def operandFmt (b : Nat) : Bool :=
  match Fmt.ofCode b with
  | some (.b8 _ _ _) => true
  | some .f32 => true
  | some .bf16 => true
  | some .f16 => true
  | some .i8 => true
  | _ => false

/-- A context record passes R349 and R227. -/
def ctxOk (bs : List Byte) : Bool :=
  operandFmt (leAt bs 0 1) && operandFmt (leAt bs 1 1)
    && fmtWidth (ctxFmt (leAt bs 0 1)) == fmtWidth (ctxFmt (leAt bs 1 1))
    && leAt bs 2 1 == 0x20 && decide (leAt bs 3 1 < 128) && leAt bs 4 4 == 0 && leAt bs 16 48 == 0

/-- The table of 192 bytes. -/
def tableAt (bs : List Byte) : CompTable :=
  (List.range 16).map fun i => (leAt bs (12 * i) 4, leAt bs (12 * i + 4) 4, leAt bs (12 * i + 8) 4)

/-- The context that a record and a table give. -/
def ctxOf (bs : List Byte) (t : CompTable) : Ctx :=
  { afmt := leAt bs 0 1, bfmt := leAt bs 1 1, accfmt := leAt bs 2 1, mode := leAt bs 3 1, table := t }

/-- Installs a context; the slot goes on. -/
def State.installCtx (s : State) (a : Nat) (c : Ctx) : State :=
  ((s.modMyCore fun k => { k with ctx := c, mcfgBusy := none }).popIf [a]).advance 4

/-- `mcfg` (R350). -/
def execMcfg (a : Nat) (s : State) : Answer :=
  .next (s.withGate [.s a] [] fun s =>
    let p := (s.sval a).toNat
    let mine : Option Nat := some (slotNo s.cur)
    if s.me.roam then s.trapOpen 0x0D
    else if p % 64 ≠ 0 then s.trap 0x03 p
    else s.afterStores fun s =>
      if s.myCore.mcfgBusy ≠ none ∧ s.myCore.mcfgBusy ≠ mine then s.park .matrix
      else
        let s := s.modMyCore fun k => { k with mcfgBusy := mine }
        if s.myCore.mq ≠ [] then s.park .matrix
        else s.withRead p 64 fun bs s =>
          let t := leAt bs 8 8
          if !ctxOk bs then s.trap 0x09 p
          else if s.myStack.service = 1 ∧ (leAt bs 0 1 ≠ 0x40 ∨ leAt bs 1 1 ≠ 0x40) then s.trapOpen 0x09
          else if t = 0 then s.installCtx a (ctxOf bs Ctx.identity)
          else if t % 64 ≠ 0 then s.trap 0x09 t
          else s.withRead t 192 fun tb s =>
            if !compTableOk (tableAt tb) then s.trap 0x09 t else s.installCtx a (ctxOf bs (tableAt tb)))

/-! ## Operand records (R351, R352) -/

/-- What a record is used for. -/
inductive RecUse where
  | a | b (rows : Nat) | mld | mst
  deriving DecidableEq, Repr

/-- The K of the shape (R349). -/
def shapeK (c : Ctx) : Nat := match fmtWidth (ctxFmt c.afmt) with | 8 => 32 | 16 => 16 | _ => 8

/-- The operand carries block scales (R349). -/
def hasScales (c : Ctx) : RecUse → Bool
  | .a => c.mode.testBit 5
  | .b _ => c.mode.testBit 6
  | _ => false

/-- The conditions of R351 and R352. -/
def recordOk (c : Ctx) (use : RecUse) (bs : List Byte) : Bool :=
  let fmt := leAt bs 12 1
  let size := fmtWidth (ctxFmt fmt) / 8
  let rows := leAt bs 14 2
  let cols := leAt bs 16 2
  let k := shapeK c
  let scaled := hasScales c use
  (Fmt.ofCode fmt).isSome && leAt bs 0 8 % size == 0 && leAt bs 8 4 % size == 0 && leAt bs 13 1 == 0 && leAt bs 20 4 == 0
    && decide (1 ≤ rows) && decide (1 ≤ cols)
    && (match use with
        | .a => fmt == c.afmt && decide (rows ≤ 16) && decide (cols ≤ k)
        | .b r => fmt == c.bfmt && rows == r && decide (cols ≤ 16)
        | .mld => fmt == 0x20 && decide (rows ≤ 16) && decide (cols ≤ 16) && leAt bs 18 2 == 0
        | .mst => (match Fmt.ofCode fmt with
            | some .f32 => true | some .bf16 => true | some .f16 => true | some .i32 => true | _ => false)
            && decide (rows ≤ 16) && decide (cols ≤ 16) && leAt bs 18 2 == 0)
    && (if scaled then leAt bs 24 8 != 0 else leAt bs 24 8 == 0)

/-- The runs of bytes that a record covers: place in the value, address, length. A's scales are one byte a row, B's one row of
bytes, because K is at most 32 (R351). -/
def recordRuns (c : Ctx) (use : RecUse) (bs : List Byte) : List (Nat × Nat × Nat) :=
  let base := leAt bs 0 8
  let stride := leAt bs 8 4
  let size := fmtWidth (ctxFmt (leAt bs 12 1)) / 8
  let rows := leAt bs 14 2
  let cols := leAt bs 16 2
  let ss := leAt bs 18 2
  let sb := leAt bs 24 8
  let n := cols * size
  let elems := (List.range rows).flatMap fun r => cutPages 3 (r * n) ((base + r * stride) % 2 ^ 64) n
  let scales :=
    if !hasScales c use then []
    else match use with
      | .a => (List.range rows).flatMap fun r => cutPages 3 (rows * n + r) ((sb + r * ss) % 2 ^ 64) 1
      | _ => cutPages 3 (rows * n) sb cols
  elems ++ scales

/-- Runs in ascending address. -/
def insertRun (r : Nat × Nat × Nat) : List (Nat × Nat × Nat) → List (Nat × Nat × Nat)
  | [] => [r]
  | x :: xs => if r.2.1 ≤ x.2.1 then r :: x :: xs else x :: insertRun r xs

def sortRuns (l : List (Nat × Nat × Nat)) : List (Nat × Nat × Nat) := l.foldr insertRun []

/-- Pieces in the order of their places. -/
def insertPiece (p : Piece) : List Piece → List Piece
  | [] => [p]
  | x :: xs => if p.lo ≤ x.lo then p :: x :: xs else x :: insertPiece p xs

def sortPieces (l : List Piece) : List Piece := l.foldr insertPiece []

/-- A place that R352 allows; the own polder's scratchpad counts only through its own window. -/
def operandPlace (va : Nat) (t : Target) : Bool :=
  match t with
  | .dev pa cached _ => (region pa == .dram && cached) || (region pa == .spad && decide (0xFFFFFFFFF0000000 ≤ va))
  | .host _ cached _ => cached
  | _ => false

/-! ## Issue (R355) -/

/-- Brings the host lines of a piece into L2, or asks for them and parks (R50, R355): all that it reads, and those of which it writes a
word in part (R69). -/
def State.withHostLines (s : State) (p : Piece) (wr : Bool) (k : State → State) : State :=
  match p.tgt with
  | .host ha _ attr =>
    let lacks (s : State) : List Nat := s.hostWordsLacking (stkOf s.cur) ha p.len (if wr then partMask else wordMask)
    let got := (lacks s).filterMap fun ln => s.me.hgot.find? fun g => g.1 == ln && g.2.2.length == 64
    let s := got.foldl (fun s g => s.installHostLine (stkOf s.cur) g.1 g.2.2 g.2.1 attr) s
    if lacks s = [] then k s
    else
      let asked (ln : Nat) : Bool := s.myStack.hreads.any fun h => h.thr == s.thr && h.seq == 0 && h.piece == ln
      ((lacks s).foldl (fun s ln => if asked ln then s else s.hostAsk s.thr 0 ln ln 64 attr) s).park .host
  | _ => k s

/-- Checks what a record covers, in ascending address: R25, the place, then poison (R355). -/
def State.withCovered (s : State) (wr : Bool) : List (Nat × Nat × Nat) → List Piece → (List Piece → State → State) → State
  | [], acc, k => k acc s
  | r :: rest, acc, k =>
    s.withX r.2.1 wr fun tgt s =>
      let p : Piece := { lo := r.1, len := r.2.2, tgt := tgt }
      if !operandPlace r.2.1 tgt then s.trap 0x09 r.2.1
      else if s.memoryHeld [p] ∨ s.roomless (stkOf s.cur) none [p] false then s.park .matrix
      else s.withHostLines p wr fun s =>
        if wr then s.withCovered wr rest (acc ++ [p]) k
        else
          let (g, s) := s.readPieces (stkOf s.cur) s.cur none [{ p with lo := 0 }] false 6 []
          match g.bad.min? with
          | some i => s.trap 0x07 (r.2.1 + i)
          | none => s.withCovered wr rest (acc ++ [p]) k

/-- Reads and checks a record (R351, R352). -/
def State.withRecord (s : State) (use : RecUse) (va : Nat) (k : List Byte → State → State) : State :=
  if va % 32 ≠ 0 then s.trap 0x03 va
  else s.withRead va 32 fun bs s => if recordOk s.myCore.ctx use bs then k bs s else s.trap 0x09 va

/-- The operand of a record. -/
def operandOf (bs : List Byte) (ps : List Piece) : Operand :=
  { fmt := leAt bs 12 1, rows := leAt bs 14 2, cols := leAt bs 16 2, pieces := sortPieces ps }

/-- The L2 lines of pieces (R76). -/
def pinLines (ps : List Piece) : List Nat :=
  ps.flatMap fun p => match p.tgt with
    | .dev pa _ _ =>
      if region pa = .dram then (List.range ((pa % 64 + p.len + 63) / 64)).map fun i => devLine pa + i else []
    | .host ha _ _ => (List.range ((ha % 64 + p.len + 63) / 64)).map fun i => hostLine ha + i
    | _ => []

/-- The start of every `mop` (R355). -/
def State.mopStart (s : State) (srcs : List Nat) (k : State → State) : State :=
  s.withGate (srcs.map Desig.s) [] fun s =>
    if s.me.roam then s.trapOpen 0x0D
    else if s.myCore.mcfgBusy ≠ none then s.park .matrix
    else k s

/-- Pins lines, each counting up to 15; a set without a way, and a host line that has left L2 again, make the command wait (R61, R76). -/
def State.pinAll (s : State) (stk : Nat) (lines : List Nat) : Option State :=
  lines.foldl (fun acc l => acc.bind fun s =>
    match s.line? (proxyOf stk l) l with
    | some x => if 15 ≤ x.pins then none else some (s.pin stk l)
    | none => if 2 ^ 60 ≤ l ∨ s.noRoom (proxyOf stk l) l then none else some (s.pin stk l)) (some s)

/-- A command enters the core's queue of eight with its pins (R76, R355, R358). -/
def State.enqueue (s : State) (srcs : List Nat) (pins : List Nat) (cmd : MCmd) (drawn : Nat) : State :=
  let pins := pins.eraseDups
  match (if 8 ≤ s.myCore.mq.length then none else s.pinAll (stkOf s.cur) pins) with
  | none => s.park .matrix
  | some s =>
    let e : MEnt := { seq := s.myCore.mseq + 1, slot := slotNo s.cur, cmd := cmd, started := false,
                      epoch := s.myPolder.epoch, pins := pins }
    let s := s.modMyCore fun c => { c with mq := c.mq ++ [e], mseq := c.mseq + 1 }
    ((s.modMe fun t => { t with gen := t.gen + BitVec.ofNat 64 drawn }).popIf srcs).advance 4

/-- `mmul` (R355). -/
def execMmul (n a b : Nat) (s : State) : Answer :=
  .next (s.mopStart [a, b] fun s =>
    s.withRecord .a (s.sval a).toNat fun ra s =>
      s.withRecord (.b (leAt ra 16 2)) (s.sval b).toNat fun rb s =>
        s.afterStores fun s =>
          s.withCovered false (sortRuns (recordRuns s.myCore.ctx .a ra)) [] fun pa s =>
            s.withCovered false (sortRuns (recordRuns s.myCore.ctx (.b 0) rb)) [] fun pb s =>
              s.enqueue [a, b] (pinLines (pa ++ pb)) (.mmul n (operandOf ra pa) (operandOf rb pb)) 0)

/-- `mzero` (R355). -/
def execMzero (n : Nat) (s : State) : Answer := .next (s.mopStart [] fun s => s.enqueue [] [] (.mzero n) 0)

/-- The random bits that an `mst` takes at issue (R357). -/
def State.mstBits (s : State) (bs : List Byte) : List Nat × Nat :=
  let n := leAt bs 14 2 * leAt bs 16 2
  if s.myCore.ctx.mode % 4 = Rnd.sr.code ∧ leAt bs 12 1 ≠ 0x20 then
    ((List.range n).map fun k => genBits s.me.seed.toNat s.me.gen.toNat k, genDrawn n)
  else ([], 0)

/-- `mst` (R355). -/
def execMst (n a : Nat) (s : State) : Answer :=
  .next (s.mopStart [a] fun s =>
    s.withRecord .mst (s.sval a).toNat fun r s =>
      s.afterStores fun s =>
        s.withCovered true (sortRuns (recordRuns s.myCore.ctx .mst r)) [] fun ps s =>
          s.enqueue [a] (pinLines ps) (.mst n (operandOf r ps) (s.mstBits r).1) (s.mstBits r).2)

/-- `mld` (R355). -/
def execMld (n a : Nat) (s : State) : Answer :=
  .next (s.mopStart [a] fun s =>
    s.withRecord .mld (s.sval a).toNat fun r s =>
      s.afterStores fun s =>
        s.withCovered false (sortRuns (recordRuns s.myCore.ctx .mld r)) [] fun ps s =>
          s.enqueue [a] (pinLines ps) (.mld n (operandOf r ps)) 0)

/-! ## `mwait` (R360) -/

/-- The tile of a command. -/
def MCmd.tile : MCmd → Nat
  | .mzero n => n
  | .mld n _ => n
  | .mmul n _ _ => n
  | .mst n _ _ => n

/-- A tile, all +0 at first (R353). -/
def Tile.zero : Tile := { elem := [], poison := false }
def Core.tile (c : Core) (n : Nat) : Tile := c.acc.getD n Tile.zero

/-- The status of a tile. -/
def Tile.status (t : Tile) : Nat :=
  let any (p : Nat → Bool) : Nat := if t.elem.any fun e => p e.2.toNat then 1 else 0
  let nan := any fun x => decide (0x7F800000 < x % 2 ^ 31)
  let inf := any fun x => x % 2 ^ 31 == 0x7F800000
  inf * 4 + nan * 2 + (if t.poison then 1 else 0)

/-- `mwait` (R360): the last command it waits for is noted at its first issue, which an `mcfg` of the core holds up (R350). -/
def execMwait (d n : Nat) (s : State) : Answer :=
  .next (if s.me.roam then s.trapOpen 0x0D else
    s.withGate [] [.s d] fun s =>
      let begun : Option Nat := match s.me.prog with | .mwait l => some l | _ => none
      let last := begun.getD s.myCore.mseq
      if begun.isNone ∧ s.myCore.mcfgBusy ≠ none then s.park .matrix
      else if s.myCore.mq.any fun e => e.cmd.tile == n && decide (e.seq ≤ last) then
        (s.modMe fun t => { t with prog := .mwait last }).park .matrix
      else (s.putS d (BitVec.ofNat 64 (s.myCore.tile n).status)).advance 4)

/-! ## The unit (R357 to R359) -/

/-- The first core with a queue, from a turn on. -/
def State.nextQueue (s : State) (pol turn : Nat) : Option Nat :=
  ((List.range 8).map fun i => (turn + i) % 8).find? fun c => (s.core (pol * 8 + c)).mq != []

/-- MATRIX_COMMAND_START (R359): the core whose turn it is starts its oldest command; a turn lasts for its weight, or until its
queue is empty. -/
def execMatrixCommandStart (pol : Nat) (s : State) : Answer :=
  let p := s.polder pol
  let busy : Bool := (List.range 8).any fun c => (s.core (pol * 8 + c)).mq.any fun e => e.started
  if busy then .next s
  else
    let same : Bool := decide (0 < p.budget) && (s.core (pol * 8 + p.turn)).mq != []
    let from_ := if 0 < p.budget ∧ !same then (p.turn + 1) % 8 else p.turn
    match (if same then some p.turn else s.nextQueue pol from_) with
    | none => .next s
    | some c =>
      let left := (if same then p.budget else (s.core (pol * 8 + c)).mweight.toNat) - 1
      let s := s.modCore (pol * 8 + c) fun k =>
        { k with mq := match k.mq with | e :: r => { e with started := true } :: r | [] => [] }
      .next (s.modPolder pol fun p => { p with turn := if left = 0 then (c + 1) % 8 else c, budget := left })

/-- The elements of an operand: the value's bytes by row and column. -/
def Operand.elem (o : Operand) (data : List Byte) (r c : Nat) : FV :=
  let f := ctxFmt o.fmt
  let n := fmtWidth f / 8
  fmtDecode f (leAt data ((r * o.cols + c) * n) n)

/-- An element decoded, inverted and scaled (R266, R278, R274); `sc` is the place of its scale byte. A scaled value is rounded once to
FP32, and its overflow follows the context's sat. -/
def Operand.value (o : Operand) (ctx : Ctx) (cmp scl : Bool) (data : List Byte) (r c sc : Nat) : FV :=
  let x := o.elem data r c
  let x := if cmp then invert ctx.table x else x
  if scl then
    let e := leAt data (o.rows * o.cols * (fmtWidth (ctxFmt o.fmt) / 8) + sc) 1
    if e = 255 then .nan
    else ofF32 (BitVec.ofNat 32 (roundTo (x.scale (Int.ofNat e - 127)) .f32 .rne (ctx.mode.testBit 2) 0))
  else x

/-- The exact sum of a group's products, in ascending K (R279). -/
def dotGroup (f : Nat → FV) : List Nat → FV
  | [] => FV.zero false
  | [k] => f k
  | k :: ks => (f k).add (dotGroup f ks)

/-- Groups of 16 consecutive K. -/
def groupsOf (n : Nat) : List (List Nat) :=
  (List.range ((n + 15) / 16)).map fun g => (List.range 16).map (fun i => 16 * g + i) |>.filter fun k => decide (k < n)

/-- One element of `mmul`: group after group (R279, R357). -/
def mulElem (acc : BitVec 32) (n : Nat) (prod : Nat → FV) : BitVec 32 :=
  (groupsOf n).foldl (fun acc g => f32Add acc (toF32 (dotGroup prod g))) acc

/-- An element of a tile: row-major. -/
def Tile.at (t : Tile) (i j : Nat) : BitVec 32 := t.elem.getD (16 * i + j) 0
def Tile.set (t : Tile) (i j : Nat) (x : BitVec 32) : Tile := { t with elem := t.elem.put 0 (16 * i + j) x }

/-- Every place of a block of rows and columns. -/
def places (rows cols : Nat) : List (Nat × Nat) := (List.range rows).flatMap fun i => (List.range cols).map fun j => (i, j)

/-- The result of `mmul` on a tile. -/
def mmulTile (ctx : Ctx) (t : Tile) (a b : Operand) (da db : List Byte) (bad : Bool) : Tile :=
  let va (i k : Nat) : FV := a.value ctx (ctx.mode.testBit 3) (ctx.mode.testBit 5) da i k i
  let vb (k j : Nat) : FV := b.value ctx (ctx.mode.testBit 4) (ctx.mode.testBit 6) db k j j
  let t' := (places a.rows b.cols).foldl (fun u p =>
    u.set p.1 p.2 (mulElem (t.at p.1 p.2) a.cols fun k => (va p.1 k).mul (vb k p.2))) t
  { t' with poison := t.poison || bad }

/-- The result of `mld`. -/
def mldTile (o : Operand) (data : List Byte) (bad : Bool) : Tile :=
  let t := (places o.rows o.cols).foldl (fun (u : Tile) p =>
    u.set p.1 p.2 (BitVec.ofNat 32 (leAt data ((p.1 * o.cols + p.2) * 4) 4))) Tile.zero
  { t with poison := bad }

/-- The bytes of `mst`: f32 unchanged, other formats rounded by the mode with the bits taken at issue. -/
def mstBytes (ctx : Ctx) (t : Tile) (o : Operand) (rnd : List Nat) : List Byte :=
  let f := ctxFmt o.fmt
  (places o.rows o.cols).flatMap fun p =>
    let x := t.at p.1 p.2
    if f = .f32 then leBytes 4 x.toNat
    else leBytes (fmtWidth f / 8)
      (roundTo (ofF32 x) f ((Rnd.ofCode (ctx.mode % 4)).getD .rne) (ctx.mode.testBit 2) (rnd.getD (p.1 * o.cols + p.2) 0))

/-- Poison over a byte's granule, at the home, the bank or the far line (R178, R357). -/
def State.poisonAt (s : State) (stk : Nat) (t : Target) : State :=
  let far (line a : Nat) (other : State) : State := match s.line? (proxyOf stk line) line with
    | some l => s.setLine (proxyOf stk line) line (l.setBad a true)
    | none => other
  match t with
  | .dev pa cached _ => if region pa = .dram ∧ stkOfPa pa ≠ stk ∧ cached then far (devLine pa) pa (s.setPoison pa) else s.setPoison pa
  | .host ha _ _ => far (hostLine ha) ha s
  | _ => s

/-- Poison over every granule of the pieces. -/
def State.poisonPieces (s : State) (stk : Nat) (ps : List Piece) : State :=
  ps.foldl (fun s p => (List.range p.len).foldl (fun s i => s.poisonAt stk (p.tgt.plus i)) s) s

/-- What a command does to its tile or to memory (R66, R356, R357). -/
def State.runCommand (s : State) (core : Nat) (cmd : MCmd) : State :=
  let stk := stkOfCore core
  let c := s.core core
  let read (o : Operand) (s : State) : Got × State := s.readPieces stk (core * 16) none o.pieces false 6 []
  let setTile (s : State) (n : Nat) (t : Tile) : State := s.modCore core fun c => { c with acc := c.acc.put Tile.zero n t }
  match cmd with
  | .mzero n => setTile s n Tile.zero
  | .mld n o =>
    let (g, s) := read o s
    setTile s n (mldTile o g.data (g.bad != []))
  | .mmul n a b =>
    let (ga, s) := read a s
    let (gb, s) := read b s
    setTile s n (mmulTile c.ctx (c.tile n) a b ga.data gb.data (ga.bad != [] || gb.bad != []))
  | .mst n o rnd =>
    let t := c.tile n
    let bs := if t.poison then List.replicate (o.rows * o.cols * 4) 0 else mstBytes c.ctx t o rnd
    let s := s.writePieces stk o.pieces bs false false (core * 16)
    (if t.poison then s.poisonPieces stk o.pieces else s).engineFills o.pieces

/-- The operands of a matrix command. -/
def MCmd.operands : MCmd → List Operand
  | .mzero _ => []
  | .mld _ op => [op]
  | .mmul _ a b => [a, b]
  | .mst _ op _ => [op]

/-- The memory of a command's operands is being wiped, or a channel of it swaps a lane (R172, R184). -/
def State.commandHeld (s : State) (cmd : MCmd) : Bool := cmd.operands.any fun o => s.memoryHeld o.pieces

/-- MATRIX_COMMAND_DONE (R357, R358): a core's started command ends; its pins are released, and the core's turn ends early
when its queue is empty (R359). -/
def execMatrixCommandDone (core : Nat) (s : State) : Answer :=
  match (s.core core).mq with
  | e :: r =>
    if e.started ∧ !s.commandHeld e.cmd then
      let s := s.runCommand core e.cmd
      let s := (s.modCore core fun c => { c with mq := r }).turnEnds core
      .next (e.pins.foldl (fun s l => s.unpin (stkOfCore core) l) s)
    else .next s
  | [] => .next s

end Sys2Proof.Machine
end

