-- ==== Sys2Proof/Machine/TagInstr.lean ====
section
/-! DEFINITION. Sys2Proof/Machine/TagInstr.lean: the `tag` major (R384, R390, R453). -/

namespace Sys2Proof.Machine

/-- A late fault of a completing wait: the cause's address, offset and image (R384, R424). -/
def copyFault (addr pc efn : Nat) : Mark := { cause := 0x0A, addr := addr, origin := pc, efn := efn }

/-- What a wait that reports some tags traps with: the lowest record in status 2 with trap set, of a tag whose stop flag is set,
and else a stopped put or get (R384, R389). The trap flag is cleared. -/
def State.waitFault (s : State) (tags : W64) : Option Mark × State :=
  let core := coreOf s.cur
  let c := s.core core
  let hit (t : Nat) : Bool := tags.getLsbD t && c.tagStop.getLsbD t
  if tags &&& c.tagStop = 0 then (none, s)
  else
  let (l, s) := s.copiesWith core fun r => r.status == 2 && r.flags.testBit 0 && hit r.tag
  match l with
  | (i, r) :: _ => (some (copyFault r.stopAddr r.pc r.efn), s.copyPut core i 26 (leBytes 1 (r.flags - 1)))
  | [] =>
    match c.putStops.find? fun x => hit x.tag with
    | some x => (some (copyFault x.addr x.pc x.img), s.modCore core fun c => { c with putStops := c.putStops.erase x })
    | none => (none, s)

/-- The end of a wait that reports some tags. -/
def State.completeWait (s : State) (tags : W64) (k : State → State) : State :=
  match s.waitFault tags with
  | (some m, s) => s.trapMark m
  | (none, s) => k s

/-- `waitany` (R390). -/
def execWaitany (d a : Nat) (s : State) : Answer :=
  .next (s.withGate [.s a] [.s d] fun s =>
    let m := s.sval a
    if m = 0 then s.trapOpen 0x01
    else if s.me.roam then s.trapOpen 0x0D
    else
      let x := s.myCore.tg &&& m
      if x = 0 then s.park .tag
      else s.completeWait x fun s => ((s.putS d x).popIf [a]).advance 4)

/-- `waitall` (R390). -/
def execWaitall (a : Nat) (s : State) : Answer :=
  .next (s.withGate [.s a] [] fun s =>
    let m := s.sval a
    if s.me.roam then s.trapOpen 0x0D
    else if s.myCore.tg &&& m ≠ m then s.park .tag
    else s.completeWait m fun s => (s.popIf [a]).advance 4)

/-- The index of the lowest set bit, or all ones (R390). -/
def lowestBit (x : W64) : W64 :=
  match (List.range 64).find? fun i => x.getLsbD i with
  | some i => BitVec.ofNat 64 i
  | none => BitVec.allOnes 64

/-- `ffr` (R390). -/
def execFfr (d a : Nat) (s : State) : Answer :=
  .next (s.withGate [.s a] [.s d] fun s =>
    if s.me.roam then s.trapOpen 0x0D
    else ((s.putS d (lowestBit (s.myCore.tg &&& s.sval a))).popIf [a]).advance 4)

/-- `tagclr` (R390). -/
def execTagclr (a : Nat) (s : State) : Answer :=
  .next (s.withGate [.s a] [] fun s =>
    if s.me.roam then s.trapOpen 0x0D
    else
      let core := coreOf s.cur
      let m := s.sval a
      let free (t : Nat) : Bool := m.getLsbD t && s.myCore.tagCount.getD t 0 == 0
      let (l, s) := s.copiesWith core fun r => (r.status == 2 || r.status == 3) && free r.tag
      let s := (s.freeRecords core l).modCore core fun c =>
        ((List.range 64).filter free).foldl (fun c t => c.clearStop t) c
      (s.popIf [a]).advance 4)

end Sys2Proof.Machine
end

