-- ==== Sys2Proof/Machine/Remote.lean ====
section
/-! DEFINITION. Sys2Proof/Machine/Remote.lean: the put engine (R102 to R109, R388, R389): descriptors, channels, packets and their
answers, posted work requests. -/

namespace Sys2Proof.Machine

/-! ## Channels (R104, R105) -/

/-- Where a channel's record and its bitmap lie. -/
def State.chanRec (s : State) (stk c : Nat) : Nat := (s.stack stk).tblBase.toNat + 64 * c
def State.chanMap (s : State) (stk c : Nat) : Nat := (s.stack stk).bmpBase.toNat + 8192 * c

/-- A field of a channel's record, and setting one. -/
def State.chanNum (s : State) (stk c off n : Nat) : Nat := s.num (s.chanRec stk c + off) n
def State.chanPut (s : State) (stk c off n x : Nat) : State := s.writeRun stk (s.chanRec stk c + off) (leBytes n x) true true 0

/-- A channel exists and its record is valid (R105). -/
def State.chanValid (s : State) (stk c : Nat) : Bool :=
  decide (c < (s.stack stk).chanCount) && s.chanNum stk c 0 2 != 0

/-- The stack of the put engine at the other end, when it is in this pod. -/
def State.chanPeer (s : State) (stk c : Nat) : Nat := s.chanNum stk c 4 4 / 2 ^ 20

/-- A sequence number of the window of R106 has its bit set. -/
def State.seqBit (s : State) (stk c q : Nat) : Bool := (s.num (s.chanMap stk c + q % 65536 / 8) 1).testBit (q % 8)

def State.putSeqBit (s : State) (stk c q : Nat) (on : Bool) : State :=
  let a := s.chanMap stk c + q % 65536 / 8
  let x := s.num a 1
  let b := 2 ^ (q % 8)
  let x := if x.testBit (q % 8) then (if on then x else x - b) else (if on then x + b else x)
  s.writeRun stk a (leBytes 1 x) true true 0

/-- The distance of a sequence number from a window base, modulo 2^32. -/
def seqDist (q base : Nat) : Nat := (q % 2 ^ 32 + 2 ^ 32 - base % 2 ^ 32) % 2 ^ 32

/-- A sequence number has performed: it lies before the base, or its bit is set. -/
def State.seqDone (s : State) (stk c q : Nat) : Bool :=
  let d := seqDist q (s.chanNum stk c 20 4)
  decide (2 ^ 31 ≤ d) || (decide (d < 65536) && s.seqBit stk c q)

/-- The base moves past every set bit (R106). -/
def State.advanceBase (s : State) (stk c : Nat) : Nat → State
  | 0 => s
  | n + 1 =>
    let b := s.chanNum stk c 20 4
    if s.seqBit stk c b then ((s.putSeqBit stk c b false).chanPut stk c 20 4 ((b + 1) % 2 ^ 32)).advanceBase stk c n else s

/-! ## Packets on the way (R102, R103, R105) -/

/-- A packet's bytes (R103); a get request gives the length after its header. (DESIGN CHOICE, log 102.) -/
def RPkt.bytes (p : RPkt) : List Byte :=
  leBytes 2 p.chan ++ leBytes 1 p.kind ++ leBytes 1 ((if p.relaxed then 1 else 0) + (if p.hasKey then 2 else 0)) ++ leBytes 4 p.seq
    ++ leBytes 8 p.time ++ leBytes 4 p.first ++ leBytes 4 p.count ++ leBytes 4 p.key ++ leBytes 4 0 ++ leBytes 8 p.dst
    ++ (if p.kind = 3 then leBytes 4 p.need else p.data)

/-- The packet that bytes from a stack give; none for a kind that R103 does not list, and for a zero field that is not zero. -/
def pktOf (src : Nat) (ether : Bool) (bs : List Byte) : Option RPkt :=
  let kind := leAt bs 2 1
  let flags := leAt bs 3 1
  if bs.length < 40 ∨ kind = 0 ∨ 6 < kind ∨ 4 ≤ flags ∨ leAt bs 28 4 ≠ 0 ∨ (kind ≠ 2 ∧ leAt bs 16 8 ≠ 0) then none
  else some
    { chan := leAt bs 0 2, kind := kind, relaxed := flags.testBit 0, hasKey := flags.testBit 1, seq := leAt bs 4 4, time := leAt bs 8 8,
      first := leAt bs 16 4, count := leAt bs 20 4, key := leAt bs 24 4, dst := leAt bs 32 8,
      data := if kind = 3 then [] else bs.drop 40, src := src, need := if kind = 3 then leAt bs 40 4 else 0, ether := ether }

/-- The link packet that carries a remote-access packet to a stack: puts and get requests on the request class, answers on the reply class
(R78). -/
def remotePacket (dst src : Nat) (p : RPkt) : List Byte :=
  linkPacket (if p.kind ≤ 3 then 0 else 1) (dst * 2 ^ 20) (src * 2 ^ 20) (padUnits p.bytes)

/-- A remote-access packet comes to a stack's put engine; one that is malformed is discarded and counted (R103). -/
def State.pktArrives (s : State) (stk : Nat) (ether : Bool) (bs : List Byte) : State :=
  match pktOf (leAt bs 12 4 / 2 ^ 20) ether (unpadUnits (bs.drop 16)) with
  | some p => s.modStack stk fun k => { k with arrived := k.arrived ++ [p] }
  | none => s.modStack stk fun k => { k with discarded := k.discarded + 1 }

/-- The other end of a channel is in another pod. -/
def State.chanEther (s : State) (stk c : Nat) : Bool := s.chanNum stk c 2 1 % 2 == 1

/-- The put engine's router has room for one more packet of a kind on a channel; its slice is the stack's first. (DESIGN CHOICE, log 102.) -/
def State.sendReady (s : State) (stk c kind : Nat) : Bool :=
  s.chanEther stk c || s.inputReady (stk * 256) 4 (if kind ≤ 3 then 0 else 1)

/-- A packet leaves a stack on a channel: into its mesh, or as a frame of the record's Ethernet port to the record's address, under that
port's key (R102, R105). -/
def State.sendPkt (s : State) (stk c : Nat) (p : RPkt) : State :=
  let bs := remotePacket (s.chanPeer stk c) stk p
  if s.chanEther stk c then
    let port := s.chanNum stk c 3 1
    match (s.package (stk / 4)).ether.find? port with
    | some key => s.emit (.frame (stk / 4) port (s.chanNum stk c 8 6) key bs)
    | none => s
  else s.inject (stk * 256) bs

/-- An answer (kinds 4 to 6) to a packet that arrived on channel `c`. -/
def State.answer (s : State) (stk c kind seq : Nat) (data : List Byte) : State :=
  let p : RPkt :=
    { chan := s.chanNum stk c 14 2, kind := kind, relaxed := false, hasKey := false, seq := seq, time := s.podTime (stk / 4), first := 0,
      count := 0, key := 0, dst := 0, data := data, src := stk, need := 0, ether := s.chanEther stk c }
  s.sendPkt stk c p

/-! ## The end of a transfer (R383, R388, R389) -/

/-- Changes transfer `i` of a stack. -/
def State.modXfer (s : State) (stk i : Nat) (f : Xfer → Xfer) : State :=
  s.modStack stk fun k => { k with xfers := modNth i f k.xfers }

/-- The descriptor of a transfer can be written now, or never. -/
def State.descReady (s : State) (x : Xfer) : Bool × State :=
  match s.enginePieces (stkOf x.ep) x.dike (some x.ep) true ((x.desc + 56) % 2 ^ 64) 6 x.after with
  | (.wait, s) => (false, s)
  | (.ok ps, s) => (!s.enginePinned (stkOf x.ep) ps && !s.cutOff (stkOf x.ep) ps, s)
  | (.stop _ _ _ _ _, s) => (true, s)

/-- The barrier object of a transfer cannot be changed yet. -/
def State.xferBarWaits (s : State) (stk : Nat) (x : Xfer) : Bool :=
  x.flags.testBit 2 && s.engineWaits stk x.dike (some x.ep) x.bar 32

/-- The engine writes bytes 56 to 61 of a descriptor; one that can no longer be written stays as it is. -/
def State.descPut (s : State) (x : Xfer) (status cause : Nat) : State :=
  match s.enginePieces (stkOf x.ep) x.dike (some x.ep) true ((x.desc + 56) % 2 ^ 64) 6 x.after with
  | (.ok ps, s) => s.engineWrite (stkOf x.ep) ps (leBytes 4 x.done ++ leBytes 1 status ++ leBytes 1 cause)
  | (_, s) => s

/-- Transfer `i` leaves the engine. -/
def State.endXfer (s : State) (stk i : Nat) (x : Xfer) : State :=
  ((s.forgetEngine stk x.after).modStack stk fun k => { k with xfers := k.xfers.eraseIdx i }).tagDropOf x.dike (coreOf x.ep) x.tag

/-- A stopped transfer reports: descriptor, kind-3 record, barrier, tag (R107, R389, R424). -/
def State.xferStopped (s : State) (stk i : Nat) (x : Xfer) (st : CopyStop) : State :=
  let s := s.descPut x 2 st.cause
  let (eng, s) := s.enginePieces stk x.dike (some x.ep) false x.desc 64 x.after
  let recPa := match eng with | .ok ({ tgt := .dev pa _ _, .. } :: _) => pa | _ => 0
  let fq := faultRecord (s.podTime (stk / 4)) st.addr st.ua x.ep x.pc 3 st.cause st.flags x.chan st.prgi 0xFFFF x.img recPa x.done
  let s := s.faultQueue stk x.dike fq
  let s := if st.flags / 2 % 2 = 1 then s.keepStop st.port st.prgi fq else s
  let s := if x.flags.testBit 2 then s.barStops stk x.dike x.ep x.bar else s
  let s := s.putStopOf x.dike (coreOf x.ep) x.tag
    (if x.flags.testBit 3 then some { tag := x.tag, pc := x.pc, img := x.img, addr := st.addr } else none)
  s.endXfer stk i x

/-- Transfer `i` ends once nothing of it is in flight: done, or stopped; its descriptor and its barrier must be open to writes. -/
def State.xferSettle (s : State) (stk i : Nat) : State :=
  match (s.stack stk).xfers[i]? with
  | none => s
  | some x =>
    let whole := x.next == x.len && (!x.flags.testBit 1 || x.finalSent)
    if x.sent ≠ [] ∨ (x.stop = none ∧ !whole) then s
    else
      let (ready, s) := s.descReady x
      if !ready ∨ s.xferBarWaits stk x then s
      else match x.stop with
        | some st => s.xferStopped stk i x st
        | none => (s.descPut x 1 0).endXfer stk i x

/-- Transfer `i` meets a stop; the first that it meets stands. -/
def State.stopXfer (s : State) (stk i port cause addr ua flags prgi : Nat) : State :=
  let st : CopyStop := { port := port, sector := 0, cause := cause, addr := addr, ua := ua, flags := flags, prgi := prgi }
  (s.modXfer stk i fun x => { x with stop := x.stop.orElse fun _ => some st }).xferSettle stk i

/-! ## Sending (R102 to R104) -/

/-- The first transmission of a packet of transfer `i`; a put's packet keeps the epoch of its polder until it is acknowledged (R30). -/
def State.launchPkt (s : State) (stk i : Nat) (x : Xfer) (kind : Nat) (hasKey : Bool) (first count dst : Nat) (data : List Byte)
    (len off : Nat) : State :=
  let now := s.podTime (stk / 4)
  let q := s.chanNum stk x.chan 16 4
  let p : RPkt :=
    { chan := s.chanNum stk x.chan 14 2, kind := kind, relaxed := x.flags.testBit 0, hasKey := hasKey, seq := q, time := now,
      first := first, count := count, key := if hasKey then x.key else 0, dst := dst, data := data, src := stk,
      need := if kind = 3 then len else 0, ether := s.chanEther stk x.chan }
  let epoch := if kind = 1 then some (s.polder (polOf x.ep)).epoch else none
  let s := s.chanPut stk x.chan 16 4 ((q + 1) % 2 ^ 32)
  let s := s.modXfer stk i fun x =>
    { x with first := x.first.orElse fun _ => some q, sent := x.sent ++ [{ pkt := p, len := len, off := off, last := now, backoff := 8000, epoch := epoch }] }
  s.sendPkt stk x.chan p

/-- The number of data packets of a transfer, and whether one is the last that it sends. -/
def Xfer.packets (x : Xfer) : Nat := (x.len + 255) / 256

/-- Every packet of a transfer has been sent. -/
def Xfer.allSent (x : Xfer) : Bool := x.next == x.len && (!x.flags.testBit 1 || x.finalSent)

/-- Another transfer of the channel has sent a part of its packets: their numbers follow one another without a gap (R108). -/
def State.chanTaken (s : State) (stk i : Nat) (x : Xfer) : Bool :=
  (s.stack stk).xfers.zipIdx.any fun e => e.2 != i && e.1.chan == x.chan && e.1.first.isSome && e.1.stop.isNone && !e.1.allSent

/-- How many bytes a put sends before the sector that holds the poisoned byte `k` of its local bytes at `loc` (R180). -/
def goodBytes (loc k : Nat) : Nat := (loc + k) / 32 * 32 - loc

/-- The next packet of transfer `i`: a piece of a put, its final write, or a get request; `late` says that its local read has timed out
(R92), `data` is what the host supplied for local bytes in host memory, `bad` that it came in error. -/
def State.sendNext (s : State) (stk i : Nat) (late : Bool) (data : List Byte) (bad : Bool) : State :=
  match (s.stack stk).xfers[i]? with
  | none => s
  | some x =>
    if x.stop.isSome ∨ x.allSent then s.xferSettle stk i
    else if !s.handed x.ep x.after ∨ s.chanTaken stk i x ∨ !s.sendReady stk x.chan 1 then s
    else if x.next < x.len then
      let n := min 256 (x.len - x.next)
      let lastPkt := x.next + n == x.len && !x.flags.testBit 1
      let key := x.flags.testBit 4 && lastPkt
      let remote := (x.remote + x.next) % 2 ^ 64
      let loc := (x.loc + x.next) % 2 ^ 64
      let step (s : State) (n : Nat) : State := s.modXfer stk i fun x => { x with next := x.next + n }
      if x.isGet then step (s.launchPkt stk i x 3 key 0 0 remote [] n x.next) n
      else match s.enginePieces stk x.dike (some x.ep) false loc n x.after with
        | (.wait, s) => s
        | (.stop c a ua f g, s) => s.stopXfer stk i stk c a ua f g
        | (.ok ps, s) =>
          if late ∧ farAccess stk ps then s.stopXfer stk i stk 0x13 loc 0 0 0
          else if s.memoryHeld ps ∨ s.cutOff stk ps then s
          else
            let host := s.hostFor stk ps data
            let (g, s) := s.readPieces stk x.ep none ps false 3 host
            let failed := if bad then (host.filterMap fun h => ps[h.1]?).map (·.lo) else []
            match (g.bad ++ failed).min? with
            | some k =>
              let m := goodBytes loc k
              let s := if m = 0 then s else step (s.launchPkt stk i x 1 false 0 0 remote (g.data.take m) m x.next) m
              s.stopXfer stk i stk 0x07 ((loc + k) % 2 ^ 64) 0 0 0
            | none => step (s.launchPkt stk i x 1 key 0 0 remote g.data n x.next) n
    else
      let first := x.first.getD (s.chanNum stk x.chan 16 4)
      (s.launchPkt stk i x 2 (x.flags.testBit 4) first x.packets x.finalAddr (leBytes 8 x.final) 0 x.len).modXfer stk i
        fun x => { x with finalSent := true }

/-! ## Matching keys (R109) -/

/-- A work request is issued as if a thread had issued it. -/
def State.enable (s : State) (stk : Nat) (x : Xfer) : State :=
  (s.modStack stk fun k => { k with xfers := k.xfers ++ [x] }).tagIssue (coreOf x.ep) x.tag

/-- Takes the first element that a test selects out of a list. -/
def takeFirst {α : Type} (p : α → Bool) : List α → Option (α × List α)
  | [] => none
  | x :: l => if p x then some (x, l) else (takeFirst p l).map fun r => (r.1, x :: r.2)

/-- A performed packet with a key enables the oldest request of its dike and key, or leaves an early key: 64 for a dike. (DEDUCED, log 37.) -/
def State.keyArrives (s : State) (stk dike key : Nat) : State :=
  match takeFirst (fun w : WorkReq => w.dike == dike && w.key == key) (s.stack stk).wreqs with
  | some (w, rest) => (s.modStack stk fun k => { k with wreqs := rest }).enable stk w.xfer
  | none =>
    let mine := (s.stack stk).earlyKeys.filter fun e => e.1 == dike
    s.modStack stk fun k =>
      if mine.length < 64 then { k with earlyKeys := k.earlyKeys ++ [(dike, key)] }
      else match takeFirst (fun e : Nat × Nat => e.1 == dike) k.earlyKeys with
        | some (_, rest) => { k with earlyKeys := rest ++ [(dike, key)], droppedKeys := k.droppedKeys + 1 }
        | none => k

/-! ## Receiving (R104 to R108) -/

/-- Takes arrived packet `i` of a stack away. -/
def State.dropArrived (s : State) (stk i : Nat) : State :=
  s.modStack stk fun k => { k with arrived := k.arrived.eraseIdx i }

/-- Discards it and counts it. -/
def State.discardPkt (s : State) (stk i : Nat) : State :=
  (s.dropArrived stk i).modStack stk fun k => { k with discarded := k.discarded + 1 }

/-- The channel of a packet is one of the receiver's, valid, and names the sender's stack and pod (R105). -/
def State.chanKnows (s : State) (stk : Nat) (p : RPkt) : Bool :=
  s.chanValid stk p.chan && s.chanPeer stk p.chan == p.src && s.chanEther stk p.chan == p.ether

/-- A channel of the cache becomes the most recently used of 4,096 (R104). -/
def State.useChan (s : State) (stk c : Nat) : State :=
  s.modStack stk fun k => { k with chans := (c :: k.chans.filter fun x => x != c).take 4096 }

/-- Five milliseconds, four milliseconds and the longest backoff, in ticks. -/
def remoteAge : Nat := 20000000
def resendAge : Nat := 16000000
def maxBackoff : Nat := 1024000

/-- The checks of R106 on a packet with a number of the sender's: too old, a duplicate, beyond the window, not in order yet, or to be
performed. -/
inductive Arrive where
  | old | dup | far | later | perform
  deriving DecidableEq, Repr

/-- A get request is checked as a data packet is, and no order holds it. (DEDUCED, log 37.) -/
def State.checkPkt (s : State) (stk : Nat) (p : RPkt) : Arrive :=
  let now := s.podTime (stk / 4)
  let base := s.chanNum stk p.chan 20 4
  let d := seqDist p.seq base
  if p.time + remoteAge < now then .old
  else if 2 ^ 31 ≤ d then .dup
  else if 65536 ≤ d then .far
  else if s.seqBit stk p.chan p.seq then .dup
  else if p.kind ≠ 3 ∧ !p.relaxed ∧ d ≠ 0 then .later
  else if p.kind = 2 ∧ !(List.range p.count).all fun j => s.seqDone stk p.chan (p.first + j) then .later
  else .perform

/-- Packets of a channel and class go on in the order of their arrival, past those that wait for others (R78, R104, R108). -/
def State.inTurn (s : State) (stk i : Nat) (p : RPkt) : Bool :=
  ((s.stack stk).arrived.take i).all fun q =>
    q.chan != p.chan || q.src != p.src || decide (q.kind ≤ 3) != decide (p.kind ≤ 3) || (decide (q.kind ≤ 3) && s.checkPkt stk q == .later)

/-- Arrived packet `i` of a stack, when it is of a kind and its turn has come. -/
def State.arrivedOf (s : State) (stk i kind : Nat) : Option RPkt :=
  match (s.stack stk).arrived[i]? with
  | some p => if p.kind = kind ∧ s.inTurn stk i p then some p else none
  | none => none

/-- What a packet meets before it is processed: an unknown channel, a record that is not cached (the pool of 64, then not-ready for
what the sender would send again), or nothing (R104, R105). -/
def State.withChan (s : State) (stk i : Nat) (p : RPkt) (k : State → State) : State :=
  if !s.chanKnows stk p then s.discardPkt stk i
  else if (s.stack stk).chans.contains p.chan then k (s.useChan stk p.chan)
  else if (s.stack stk).pool.length < 64 then
    (s.dropArrived stk i).modStack stk fun k => { k with pool := k.pool ++ [p] }
  else if 3 < p.kind ∨ !s.sendReady stk p.chan 6 then s
  else (s.dropArrived stk i).answer stk p.chan 6 p.seq []

/-- A transfer of a stack with a packet in flight on a channel: its index. -/
def State.xferOf (s : State) (stk c q : Nat) : Option (Nat × Xfer × XPkt) :=
  (s.stack stk).xfers.zipIdx.findSome? fun e =>
    if e.1.chan = c then (e.1.sent.find? fun y => y.pkt.seq == q).map fun y => (e.2, e.1, y) else none

/-- A fault at the target stops the transfer at the sender, when it is in this pod (R46, R389, R454); of a get, `good` bytes are still on
their way. (DEDUCED, log 21.) -/
def State.refuseAtSender (s : State) (stk : Nat) (p : RPkt) (good cause addr ua flags prgi : Nat) : State :=
  if p.ether then s
  else
    let back := s.chanNum stk p.chan 14 2
    match s.xferOf p.src back p.seq with
    | some (i, _, _) =>
      (s.modXfer p.src i fun x =>
        { x with sent := if good = 0 then x.sent.filter fun y => y.pkt.seq != p.seq
                         else x.sent.map fun y => if y.pkt.seq = p.seq then { y with len := good } else y }).stopXfer p.src i stk cause
        addr ua flags prgi
    | none => s

/-- The key of a packet that has performed (R109). -/
def State.pktKey (s : State) (stk : Nat) (p : RPkt) : State :=
  if p.hasKey then s.keyArrives stk (s.chanNum stk p.chan 0 2) p.key else s

/-- A packet has performed: its bit, its answer, the base, its key. -/
def State.pktPerformed (s : State) (stk i : Nat) (p : RPkt) (kind : Nat) (data : List Byte) : State :=
  ((((s.dropArrived stk i).putSeqBit stk p.chan p.seq true).answer stk p.chan kind p.seq data).advanceBase stk p.chan 65536).pktKey stk p

/-- The bytes of a data or final packet reach the target's memory (R102, R106, R108). A final write is a release at the scope
of its address. -/
def State.receive (s : State) (stk i : Nat) (p : RPkt) : State :=
  s.withChan stk i p fun s =>
    if !s.sendReady stk p.chan 5 then s
    else match s.checkPkt stk p with
    | .old => s.discardPkt stk i
    | .dup => (s.dropArrived stk i).answer stk p.chan 5 p.seq []
    | .far => (s.dropArrived stk i).answer stk p.chan 6 p.seq []
    | .later => s
    | .perform =>
      match s.enginePieces stk (s.chanNum stk p.chan 0 2) none true p.dst p.data.length 0 with
      | (.wait, s) => s
      | (.stop c a ua f g, s) => (s.dropArrived stk i).refuseAtSender stk p 0 c a ua f g
      | (.ok ps, s) =>
        if s.enginePinned stk ps ∨ s.cutOff stk ps then s
        else if p.kind = 2 ∧ wideScope ps then
          let s := s.writebackFar stk
          match ps with
          | [{ tgt := .dev pa _ _, .. }] =>
            let old := s.flagSlot pa
            ((s.engineWrite stk ps p.data).signFlag stk pa old).pktPerformed stk i p 5 []
          | _ => (s.engineWrite stk ps p.data).pktPerformed stk i p 5 []
        else (s.engineWrite stk ps p.data).pktPerformed stk i p 5 []

/-- PUT_DATA_PACKET (R106): arrived packet `i` of a stack is put data. -/
def execPutDataPacket (stk i : Nat) (s : State) : Answer :=
  .next (match s.arrivedOf stk i 1 with
    | some p => s.receive stk i p
    | none => s)

/-- PUT_FINAL_WRITE (R108): arrived packet `i` of a stack is a final flagged write. -/
def execPutFinalWrite (stk i : Nat) (s : State) : Answer :=
  .next (match s.arrivedOf stk i 2 with
    | some p => s.receive stk i p
    | none => s)

/-- The bytes that a get request asks for are read and answered, up to a poisoned sector (R180); its number counts as performed, once. -/
def State.answerGet (s : State) (stk i : Nat) (p : RPkt) (again : Bool) (data : List Byte) (bad : Bool) : State :=
  match s.enginePieces stk (s.chanNum stk p.chan 0 2) none false p.dst p.need 0 with
  | (.wait, s) => s
  | (.stop c a ua f g, s) => (s.dropArrived stk i).refuseAtSender stk p 0 c a ua f g
  | (.ok ps, s) =>
    if s.memoryHeld ps ∨ s.cutOff stk ps then s
    else
      let host := s.hostFor stk ps data
      let (g, s) := s.readPieces stk 0 none ps false 3 host
      let failed := if bad then (host.filterMap fun h => ps[h.1]?).map (·.lo) else []
      let answer (s : State) (data : List Byte) : State :=
        if again then (s.dropArrived stk i).answer stk p.chan 4 p.seq data else s.pktPerformed stk i p 4 data
      match (g.bad ++ failed).min? with
      | none => answer s g.data
      | some k =>
        let m := goodBytes p.dst k
        let s := s.refuseAtSender stk p m 0x07 ((p.dst + k) % 2 ^ 64) 0 0 0
        if m = 0 then s.dropArrived stk i else answer s (g.data.take m)

/-- GET_REQUEST_PACKET (R102, R106): arrived packet `i` asks for bytes; `data` is what the host supplied for those in host memory. A
request that comes again is answered again, without its key. (DEDUCED, log 37.) -/
def execGetRequestPacket (stk i : Nat) (data : List Byte) (bad : Bool) (s : State) : Answer :=
  .next (match s.arrivedOf stk i 3 with
    | none => s
    | some p =>
      s.withChan stk i p fun s =>
        if !s.sendReady stk p.chan 4 then s
        else match s.checkPkt stk p with
        | .old => s.discardPkt stk i
        | .far => (s.dropArrived stk i).answer stk p.chan 6 p.seq []
        | .dup => s.answerGet stk i p true data bad
        | _ => s.answerGet stk i p false data bad)

/-- A packet of transfer `i` has performed: bytes done, barrier, acknowledgement time, end (R105, R388, R389). -/
def State.ackPkt (s : State) (stk i : Nat) (x : Xfer) (y : XPkt) : State :=
  let s := s.modXfer stk i fun x => { x with sent := x.sent.filter fun z => z.pkt.seq != y.pkt.seq, done := x.done + y.len }
  let s := s.chanPut stk x.chan 24 8 (s.podTime (stk / 4))
  if x.flags.testBit 2 ∧ 0 < y.len then
    match s.engineBar stk x.dike x.ep x.bar with
    | (.ok (pa, b), s) => (s.barAdd pa b 0 y.len).xferSettle stk i
    | (.error (c, a), s) =>
      (s.modXfer stk i fun x => { x with done := x.done - y.len }).stopXfer stk i stk c a 0 1 0
  else s.xferSettle stk i

/-- GET_DATA_PACKET (R389): an arrived packet answers a get request, and its bytes go to local memory, unless their write has timed out
(R92). -/
def execGetDataPacket (stk : Nat) (x : Landing) (s : State) : Answer :=
  let i := x.i
  let late := x.late
  .next (match s.arrivedOf stk i 4 with
    | none => s
    | some p =>
      s.withChan stk i p fun s => match s.xferOf stk p.chan p.seq with
        | none => s.dropArrived stk i
        | some (j, x, y) =>
          let stop (s : State) (c a ua f g : Nat) : State :=
            ((s.dropArrived stk i).modXfer stk j fun x =>
              { x with sent := x.sent.filter fun z => z.pkt.seq != p.seq }).stopXfer stk j stk c a ua f g
          if !x.isGet ∨ y.len ≠ p.data.length then s.dropArrived stk i
          else match s.enginePieces stk x.dike (some x.ep) true ((x.loc + y.off) % 2 ^ 64) p.data.length x.after with
          | (.wait, s) => s
          | (.stop c a ua f g, s) => stop s c a ua f g
          | (.ok ps, s) =>
            if late ∧ farAccess stk ps then stop s 0x13 ((x.loc + y.off) % 2 ^ 64) 0 1 0
            else if s.enginePinned stk ps ∨ s.cutOff stk ps ∨ s.xferBarWaits stk x then s
            else ((s.dropArrived stk i).engineWrite stk ps p.data).ackPkt stk j x y)

/-- REMOTE_ACK (R104): arrived packet `i` acknowledges one of the stack's packets. -/
def execRemoteAck (stk i : Nat) (s : State) : Answer :=
  .next (match s.arrivedOf stk i 5 with
    | none => s
    | some p =>
      s.withChan stk i p fun s => match s.xferOf stk p.chan p.seq with
        | none => s.dropArrived stk i
        | some (j, x, y) =>
          if x.isGet then s.dropArrived stk i
          else if s.xferBarWaits stk x then s
          else ((s.dropArrived stk i).modXfer stk j fun x =>
            { x with sent := x.sent.map fun z => { z with backoff := 8000 } }).ackPkt stk j x y)

/-- NOT_READY_REPLY (R104): the packet waits a backoff before it is sent again. -/
def execNotReadyReply (stk i : Nat) (s : State) : Answer :=
  .next (match s.arrivedOf stk i 6 with
    | none => s
    | some p =>
      s.withChan stk i p fun s =>
        let s := s.dropArrived stk i
        let now := s.podTime (stk / 4)
        match s.xferOf stk p.chan p.seq with
        | none => s
        | some (j, _, y) =>
          s.modXfer stk j fun x =>
            { x with sent := x.sent.map fun z => if z.pkt.seq = y.pkt.seq then { z with last := now } else z })

/-- RESEND_BACKOFF_EXPIRY (R104, R107): packet `k` of transfer `j` is sent again with its number and time, once its backoff has
passed; the backoff doubles up to 256 µs. At an age of 4 ms it is not sent again. -/
def execResendBackoffExpiry (stk j k : Nat) (s : State) : Answer :=
  let now := s.podTime (stk / 4)
  .next (match (s.stack stk).xfers[j]? with
    | none => s
    | some x =>
      match x.sent[k]? with
      | none => s
      | some y =>
        if now < y.last + y.backoff ∨ y.pkt.time + resendAge ≤ now ∨ !s.sendReady stk x.chan y.pkt.kind then s
        else
          let s := s.modXfer stk j fun x =>
            { x with sent := modNth k (fun z => { z with last := now, backoff := min (2 * z.backoff) maxBackoff }) x.sent }
          s.sendPkt stk x.chan y.pkt)

/-- REMOTE_AGE_STOP (R107): a packet of transfer `j` is 5 ms old and not acknowledged. -/
def execRemoteAgeStop (stk j : Nat) (s : State) : Answer :=
  let now := s.podTime (stk / 4)
  .next (match (s.stack stk).xfers[j]? with
    | none => s
    | some x =>
      match x.sent.find? fun y => decide (y.pkt.time + remoteAge ≤ now) with
      | none => s
      | some y =>
        (s.modXfer stk j fun x => { x with sent := [] }).stopXfer stk j stk 0x13 y.pkt.dst 0 (if x.isGet then 0 else 1) 0)

/-- CHANNEL_RECORD_REFILL (R104): a channel's record is in the cache again, and its pooled packets go on in order of arrival. -/
def execChannelRecordRefill (stk c : Nat) (s : State) : Answer :=
  let mine := (s.stack stk).pool.filter fun p => p.chan == c
  .next (if mine = [] then s
  else (s.useChan stk c).modStack stk fun k => { k with pool := k.pool.filter (fun p => p.chan != c), arrived := mine ++ k.arrived })

/-- SLICE_REQUEST (R62): a slice, a stack SRAM bank or the host port serves a thread's next load, its core's next store, or the
next packet of a transfer of the put engine of its stack. -/
def execSliceRequest (ep : Nat) (who : Requester) (s : State) : Answer :=
  .next (match who with
    | .load => s.runLoad ep false
    | .store => s.runStore (coreOf ep) false
    | .engine i late data bad => s.sendNext (stkOf ep) i late data bad)

/-! ## The `net` major (R388, R389) -/

/-- A descriptor that raises `ILLEGAL` (R389): a nonzero zero field, a `get` with a final write, no length and no final write; and
a tag, a length or a final address beyond what R388 allows (DESIGN CHOICE, log 22). -/
def descIllegal (bs : List Byte) (isGet : Bool) : Bool :=
  let flags := leAt bs 23 1
  decide (32 ≤ flags) || leAt bs 28 4 != 0 || leAt bs 62 2 != 0 || (isGet && flags.testBit 1)
    || (leAt bs 16 4 == 0 && !flags.testBit 1) || decide (64 ≤ leAt bs 22 1) || decide (2 ^ 24 < leAt bs 16 4)
    || (flags.testBit 1 && leAt bs 40 8 % 8 != 0)

/-- The transfer of a descriptor. -/
def State.xferFor (s : State) (va : Nat) (bs : List Byte) (isGet : Bool) : Xfer :=
  { ep := s.cur, dike := s.jobOf s.cur, desc := va, isGet := isGet, loc := leAt bs 0 8, remote := leAt bs 8 8, len := leAt bs 16 4,
    chan := leAt bs 20 2, tag := leAt bs 22 1, flags := leAt bs 23 1, key := leAt bs 24 4, final := leAt bs 32 8,
    finalAddr := leAt bs 40 8, bar := leAt bs 48 8, pc := s.me.pc, img := s.me.img, after := s.seq + 1, next := 0, first := none,
    finalSent := false, sent := [], done := 0, stop := none }

/-- The checks of a descriptor in their order (R389, R398). -/
def State.withDesc (s : State) (a : Nat) (isGet : Bool) (bad : Bool) (k : Xfer → State → State) : State :=
  let va := (s.sval a).toNat
  if s.me.roam then s.trapOpen 0x0D
  else if va % 64 ≠ 0 then s.trap 0x03 va
  else s.withRead va 64 fun bs s =>
    if descIllegal bs isGet ∨ bad then s.trap 0x01 va
    else
      let x := s.xferFor va bs isGet
      let stk := stkOf s.cur
      if !s.chanValid stk x.chan ∨ s.chanNum stk x.chan 0 2 ≠ x.dike then s.trap 0x05 va
      else if x.flags.testBit 2 then s.withBar x.bar fun _ _ s => k x s
      else k x s

/-- A put or get is issued. -/
def State.issueXfer (s : State) (a : Nat) (isGet : Bool) : State :=
  s.withGate [.s a] [] fun s =>
    s.withDesc a isGet false fun x s =>
      if 4096 ≤ s.myStack.xfers.length then s.park .record
      else ((s.nextSeq.enable (stkOf s.cur) x).popIf [a]).advance 4

/-- `put` (R389). -/
def execPut (a : Nat) (s : State) : Answer := .next (s.issueXfer a false)

/-- `get` (R389). -/
def execGet (a : Nat) (s : State) : Answer := .next (s.issueXfer a true)

/-- `wpost` (R109, R389): an early key enables it at once. A descriptor with a final write is a put's; of another the spec does not say
whether it is a put's or a get's. (DESIGN CHOICE, log 37.) -/
def execWpost (a b : Nat) (s : State) : Answer :=
  .next (s.withGate [.s a, .s b] [] fun s =>
    let key := (s.sval b).toNat
    s.withDesc a false (decide (2 ^ 32 ≤ key)) fun x s =>
      let stk := stkOf s.cur
      let x := { x with isGet := !x.flags.testBit 1 && Config.postedGet s.fresh }
      match takeFirst (fun e : Nat × Nat => e.1 == x.dike && e.2 == key) s.myStack.earlyKeys with
      | some (_, rest) =>
        (((s.modStack stk fun k => { k with earlyKeys := rest }).nextSeq.enable stk x).popIf [a, b]).advance 4
      | none =>
        if 1024 ≤ s.myStack.wreqs.length then s.park .record
        else
          let s := s.nextSeq.modStack stk fun k => { k with wreqs := k.wreqs ++ [{ key := key, dike := x.dike, xfer := x }] }
          (s.popIf [a, b]).advance 4)

/-- `wkill` (R389): a posted request goes; one that is enabled, or none, makes no difference. -/
def execWkill (a : Nat) (s : State) : Answer :=
  .next (s.withGate [.s a] [] fun s =>
    let va := (s.sval a).toNat
    let dike := s.jobOf s.cur
    match takeFirst (fun w : WorkReq => w.dike == dike && w.xfer.desc == va) s.myStack.wreqs with
    | some (_, rest) => ((s.modMyStack fun k => { k with wreqs := rest }).popIf [a]).advance 4
    | none => (s.popIf [a]).advance 4)

end Sys2Proof.Machine
end

