-- ==== Sys2Proof/Machine/Swap.lean ====
section
/-! DEFINITION. Sys2Proof/Machine/Swap.lean: pre-emption and resume (R425 to R427, R115, R98): draining a slot, the context it leaves,
and putting a context back into a slot. -/

namespace Sys2Proof.Machine

/-! ## The context record (R426) -/

/-- Two bits for a register state. -/
def RegState.code : RegState → Nat
  | .full => 0
  | .owed _ => 1
  | .idle => 2

/-- The 128 bits of register states. -/
def Thread.stateBits (t : Thread) : Nat :=
  let s := ((List.range 31).map fun i => (t.sreg (i + 1)).st.code * 2 ^ (2 * i)).foldl (· + ·) 0
  let v := ((List.range 16).map fun i => (t.vreg i).st.code * 2 ^ (62 + 2 * i)).foldl (· + ·) 0
  let p := ((List.range 7).map fun i => (t.preg (i + 1)).st.code * 2 ^ (94 + 2 * i)).foldl (· + ·) 0
  s + v + p

/-- A trap bank with a status word. -/
def Bank.bytes (b : Bank) (status : Nat) : List Byte :=
  leBytes 8 b.cause.toNat ++ leBytes 8 b.addr.toNat ++ leBytes 8 b.epc.toNat ++ leBytes 8 b.efn.toNat
    ++ leBytes 8 b.origin.toNat ++ leBytes 8 status

/-- The status bits that a bank carries. -/
def Bank.status (b : Bank) : Nat := b.user.toNat * 2 ^ 8 + (if b.late then 2 ^ 7 else 0)

/-- The status bits of a thread's current run (R418). -/
def Thread.runBits (t : Thread) : Nat :=
  (if t.twin then 2 ^ 6 else 0) + (if t.esc then 2 ^ 5 else 0) + (if t.ack then 2 ^ 4 else 0) + t.level

/-- The code of a scalar access size (R224). -/
def Withdrawn.bytes : Option Withdrawn → List Byte
  | none => List.replicate 12 0
  | some w => leBytes 8 w.va ++ leBytes 1 w.sz.code ++ leBytes 1 (if w.take then 3 else 2) ++ leBytes 1 w.dst ++ leBytes 1 0

/-- Bytes 0 to 1,023. -/
def Saved.low (x : Saved) (held : Bool) : List Byte :=
  let t := x.thr
  let flags := (if t.long then 1 else 0) + (if held then 2 else 0) + (if t.twin then 4 else 0) + (if t.escal.isSome then 8 else 0)
  leBytes 32 t.digest ++ leBytes 4 t.pc ++ leBytes 4 t.tag ++ leBytes 4 x.ep ++ leBytes 1 flags ++ leBytes 1 t.kills
    ++ leBytes 2 0 ++ leBytes 8 t.task.toNat ++ leBytes 8 t.seed.toNat ++ leBytes 8 t.gen.toNat ++ leBytes 16 t.stateBits
    ++ leBytes 8 0 ++ t.bank1.bytes (t.bank1.status + t.runBits) ++ t.bank0.bytes t.bank0.status
    ++ (List.range 31).flatMap (fun i => leBytes 8 (t.sreg (i + 1)).val.toNat)
    ++ (List.range 7).flatMap (fun i => leBytes 4 (t.preg (i + 1)).val.toNat)
    ++ Withdrawn.bytes t.withdrawn ++ leBytes 8 (match t.escal with | some e => e.record | none => 0) ++ List.replicate 24 0
    ++ (List.range 16).flatMap (fun i => leBytes 32 ((t.vreg i).val.toNat % 2 ^ 256))

/-- Bytes 1,024 to 2,559, for a long view. -/
def Saved.lanes (x : Saved) : List Byte := (List.range 16).flatMap fun i => leBytes 96 ((x.thr.vreg i).val.toNat / 2 ^ 256)

/-- Bytes 2,560 to 4,095: a deque entry stands as its record's address, with bit 0 set for a tombstone (DESIGN CHOICE, log 23). -/
def Saved.places (x : Saved) : List Byte :=
  let l := x.deque.flatMap fun e => leBytes 8 (e.recVa + (if e.live then 0 else 1))
  l ++ List.replicate (1536 - l.length) 0

/-! ## What ties a context to its endpoint (R427) -/

/-- A register of the thread is owed to a continuation or a census. -/
def Thread.owesName (t : Thread) : Bool :=
  let named (c : RegState) : Bool := c == .owed .cont || c == .owed .census
  (t.s.any fun e => named e.2.st) || t.v.any fun e => named e.2.st

/-- The context resumes only in its own slot. -/
def State.tied (s : State) (x : Saved) : Bool :=
  let g := (s.core (coreOf x.ep)).gang
  x.thr.owesName || x.deque != [] || x.thr.escal.isSome || x.thr.long || g.leader || g.donor || x.thr.withdrawn.isSome

/-! ## Swapping out (R425) -/

/-- A `sync` or `take` request that waits in a wait table, or has been refused by a full one. -/
def LoadEnt.waits (e : LoadEnt) : Bool :=
  (e.kind == .sync || e.kind == .take) && (e.phase == .table || e.phase == .refused)

/-- The request of a waiting load, as the context carries it. -/
def LoadEnt.request (e : LoadEnt) : Option Withdrawn :=
  match e.dest, e.vas with
  | .scalar n sz, (_, va, _) :: _ => some { va := va, sz := sz, take := e.kind == .take, dst := n }
  | _, _ => none

/-- The slot has drained (R115, R425 step 2): stores have performed, loads, results and divisions have filled, its block is done,
a `kmove` past step 1, a scatter that has begun and a move to a guest slot are over. (DEDUCED, log 44.) -/
def State.drained (s : State) (thr : Nat) : Bool :=
  let t := s.thread thr
  let c := s.core (thr / 8)
  let slot := thr % 8
  t.lvq == [] && (t.loadq == [] || (match t.loadq with | [e] => e.waits | _ => false)) && t.fills == []
    && !(c.sb.any fun e => e.slot == slot && e.phase != .performed) && !(c.divq.any fun e => e.slot == slot)
    && (match c.seqr with | some b => b.slot != slot | none => true)
    && (match t.prog with | .kmove => false | .scatter _ _ _ => false | .migrate _ .draining _ => false | .migrate _ .sent _ => false | _ => true)

/-- The task's context record gets some bytes (R426). A thread without a stack region has none. (DESIGN CHOICE, log 42.) -/
def State.ctxPut (s : State) (x : Saved) (off : Nat) (bs : List Byte) : State :=
  match x.thr.region with
  | some g => s.sysPut (stkOf x.ep) x.dike ((s.ctxAddr x.dike g + off) % 2 ^ 64) bs
  | none => s

/-- The oldest entry of a polder's thread-context cache is written back. -/
def State.writeBackOldest (s : State) (pol : Nat) : State :=
  match (s.polder pol).tcache with
  | [] => s
  | x :: rest =>
    let s := (s.modPolder pol fun p => { p with tcache := rest }).ctxPut x 0 (x.low (s.tied x))
    s.modStack (stkOfPol pol) fun k => { k with saved := k.saved ++ [x] }

/-- What a swapped thread keeps: nothing of the instruction at which it was parked, except that an `await` has been served and
the portable offset of a guest that has not found its image. -/
def Thread.withdraw (t : Thread) : Thread :=
  { t with swap := false, held := false, wait := .no, xfault := Option.none, hgot := [], loadq := [],
           withdrawn := match t.loadq with | [e] => e.request | _ => Option.none,
           prog := match t.prog with | .served => .served | .guest p => .guest p | _ => .none }

/-- A drained slot is swapped out: its context enters the cache of 64, its deque places go along, its task is ready again at
the pod time of the swap, the slot is free (R425 steps 3 and 4). -/
def State.swapOut (s : State) (ep : Nat) : State :=
  let thr := thrOf ep
  let pol := polOf ep
  let core := coreOf ep
  let stk := stkOf ep
  let dike := s.jobOf ep
  let mine := (s.core core).deque.filter fun e => e.slot == slotNo ep
  let x : Saved := { thr := (s.thread thr).withdraw, ep := ep, deque := mine, dike := dike }
  let s := if 64 ≤ (s.polder pol).tcache.length then s.writeBackOldest pol else s
  let s := if x.thr.long then s.ctxPut x 1024 x.lanes else s
  let s := if x.deque = [] then s else s.ctxPut x 2560 x.places
  let s := s.modPolder pol fun p => { p with tcache := p.tcache ++ [x] }
  let s := s.modCore core fun c => { c with deque := c.deque.filter fun e => e.slot != slotNo ep,
                                            mcfgBusy := if c.mcfgBusy = some (slotNo ep) then none else c.mcfgBusy }
  let s := s.freeSlot thr
  let task := x.thr.task.toNat
  if task = 0 then s else s.makeReady stk dike task (s.podTime (stk / 4)) (some x.thr.attrs) true

/-- The turn of a slot that is being pre-empted: nothing issues but the lanes of a scatter that has begun, and a drained slot is swapped
out. -/
def State.swapTurn (s : State) (ep : Nat) : State :=
  if s.drained (thrOf ep) then s.swapOut ep
  else match (s.thread (thrOf ep)).prog with
    | .scatter rest epoch hepoch => s.asSlot ep fun s => s.enterLanes rest epoch hepoch
    | _ => s

/-! ## Resuming (R427) -/

/-- The users that a context still holds in the polder that swapped it out. -/
def State.releaseUsers (s : State) (x : Saved) : State :=
  x.thr.runs.foldl (fun s r => s.dropUser (polOf x.ep) r.2) (s.dropUser (polOf x.ep) x.thr.img)

/-- A withdrawn request is sent again to its bank. -/
def State.resend (s : State) (ep : Nat) (w : Withdrawn) : State :=
  match s.window ep w.va w.take true with
  | .ok t =>
    let s := s.nextSeq
    let n := szBytes w.sz
    let e : LoadEnt :=
      { seq := s.seq, kind := if w.take then .take else .sync, dest := .scalar w.dst w.sz,
        pieces := [{ lo := 0, len := n, tgt := t }], phase := .queued, data := [], mark := none, vas := [(0, w.va, n)],
        pc := (s.thread (thrOf ep)).pc, img := (s.thread (thrOf ep)).img, epoch := (s.polder (polOf ep)).epoch,
        hepoch := (s.stack (stkOf ep)).hepoch, held := false, level := (s.thread (thrOf ep)).level, got := [] }
    s.modThread (thrOf ep) fun t => { t with loadq := [e] }
  | _ => s

/-- A context goes into an empty slot of a core: every field, with `c.tvec` of the dike record, and its image is used (R160); in another
polder the thread looks for its image again (R167). -/
def State.resumeAt (s : State) (ep : Nat) (x : Saved) : State :=
  let stk := stkOf ep
  let same : Bool := polOf ep == polOf x.ep
  let s := if same then s else s.releaseUsers x
  let t := x.thr
  let t := { t with tvec := BitVec.ofNat 64 ((s.stack stk).dike x.dike 16 8), withdrawn := none }
  let t := if same then t else { t with img := 16, was := t.efnSlot, runs := t.runs.map fun r => (r.1, 16) }
  let s := if same then s.touchImage (polOf ep) t.img else s
  let s := s.setThread (thrOf ep) t
  let s := s.modCore (coreOf ep) fun c => { c with gated := none, deque := c.deque ++ x.deque }
  let s := match x.thr.withdrawn with | some w => s.resend ep w | none => s
  let task := t.task.toNat
  if task = 0 then s else s.sysPut stk x.dike (task + 3) (leBytes 1 3)

/-- The context of a task in a stack: from the cache of a polder, or written back. (DEDUCED, log 47.) -/
def State.takeSaved (s : State) (stk dike task : Nat) : Option (Saved × State) :=
  let is (x : Saved) : Bool := x.dike == dike && x.thr.task.toNat == task
  match List.find? (fun (e : Nat × Polder) => stkOfPol e.1 == stk && e.2.tcache.any is) s.polders with
  | some (pol, p) =>
    match p.tcache.find? is with
    | some x => some (x, s.modPolder pol fun p => { p with tcache := p.tcache.erase x })
    | none => none
  | none =>
    match (s.stack stk).saved.find? is with
    | some x => some (x, s.modStack stk fun k => { k with saved := k.saved.erase x })
    | none => none

end Sys2Proof.Machine
end

