-- ==== Sys2Proof/Machine/Sys.lean ====
section
/-! DEFINITION. Sys2Proof/Machine/Sys.lean: the `sys` major (R391 to R397): control registers (R240), services, the return from a
trap (R394, R422), holds (R395), installs (R396), invalidations (R397, R30, R31) and scrubbing (R174, R175). -/

namespace Sys2Proof.Machine

/-! ## Control registers (R240) -/

/-- `c.status` of a thread (R418). -/
def Thread.status (t : Thread) : W64 :=
  BitVec.ofNat 64 (t.bank1.user.toNat * 2 ^ 8 + (if t.bank1.late then 2 ^ 7 else 0) + (if t.twin then 2 ^ 6 else 0)
    + (if t.esc then 2 ^ 5 else 0) + (if t.ack then 2 ^ 4 else 0) + t.level)

/-- `c.sleep` (R194). -/
def Core.sleep (c : Core) : W64 := BitVec.ofNat 64 (c.hold2.toNat * 2 ^ 16 + c.hold1.toNat * 2 ^ 8 + c.depth.toNat)

/-- `c.bond` of the issuing core's group (R201). -/
def State.bond (s : State) : W64 :=
  ((if coreNo s.cur < 4 then s.myPolder.bond0 else s.myPolder.bond1) : BitVec 38).setWidth 64

/-- `c.gang` (R207). -/
def State.gangWord (s : State) : W64 :=
  let g := s.myCore.gang
  let longs := ((List.range 8).map fun i => if (s.thread (coreOf s.cur * 8 + i)).long then 2 ^ i else 0).foldl (· + ·) 0
  BitVec.ofNat 64 (longs * 2 ^ 8 + (if g.leader then 2 ^ 3 else 0) + (if g.donor then 2 ^ 2 else 0) + g.width)

/-- The value of control register `n`; none for an unassigned number. -/
def State.creg (s : State) (n : Nat) : Option W64 :=
  let t := s.me
  match n with
  | 0x000 => some (t.bank1.cause.setWidth 64)
  | 0x001 => some t.bank1.addr
  | 0x002 => some (t.bank1.epc.setWidth 64)
  | 0x003 => some (t.bank1.efn.setWidth 64)
  | 0x004 => some (t.bank1.origin.setWidth 64)
  | 0x005 => some t.status
  | 0x008 => some t.tvec
  | 0x010 => some s.myCore.sleep
  | 0x011 => some (s.myCore.mweight.setWidth 64)
  | 0x012 => some (s.myCore.xmask.setWidth 64)
  | 0x013 => some t.seed
  | 0x018 => some (BitVec.ofNat 64 (s.timeAt s.cur))
  | 0x019 => some (BitVec.ofNat 64 s.cur)
  | 0x01A => some t.task
  | 0x01B => some (BitVec.ofNat 64 (s.jobOf s.cur))
  | 0x020 => some s.bond
  | 0x021 => some s.gangWord
  | 0x100 => some (BitVec.ofNat 64 s.myPolder.cslim)
  | 0x101 => some s.myStack.injaddr
  | 0x102 => some s.myStack.injctl
  | _ => none

/-- `getc` (R392): privileged numbers have been refused in job code by the decoder's second step (R243). -/
def execGetc (d n : Nat) (s : State) : Answer :=
  .next (match s.creg n with
    | none => s.trap 0x01 (Instr.getc d n).wordVal
    | some x => s.withGate [] [.s d] fun s => (s.putS d x).advance 4)

/-- A value of `c.injctl` may stand beside the address (R182): zero bits, and what an illegal type, a selector or an address of the
wrong memory forbids. A write of either register is held against what the other one holds. (DEDUCED, log 28.) -/
def injOk (stk : Nat) (addr ctl : W64) : Bool :=
  let a := addr.toNat
  let sel := ctl.toNat / 2 ^ 8 % 2 ^ 8
  let type := ctl.toNat % 8
  ctl.toNat / 2 ^ 16 % 2 ^ 46 == 0 && ctl.toNat / 8 % 32 == 0
    && (match type with
      | 1 => decide (sel < 36) && region a == .dram
      | 2 => decide (sel < 36) && region a == .dram
      | 3 => decide (sel < 136) && region a == .dram
      | 4 => decide (sel < 32) && region a == .dram
      | 5 => decide (sel < 32) && region a == .spad
      | _ => !ctl.getLsbD 63)
    && (type == 0 || stkOfPa a == stk)

/-- What `setc` does to control register `n`, or none when the value breaks a limit of the register (R240). The number is
assigned and writable for the slot. -/
def State.setCreg (s : State) (n : Nat) (x : W64) : Option State :=
  let v := x.toNat
  let bank (f : Bank → Bank) : Option State := some (s.modMe fun t => { t with bank1 := f t.bank1 })
  match n with
  | 0x000 => if v < 2 ^ 8 then bank fun b => { b with cause := BitVec.ofNat 8 v } else none
  | 0x001 => bank fun b => { b with addr := x }
  | 0x002 => if v < 2 ^ 32 then bank fun b => { b with epc := BitVec.ofNat 32 v } else none
  | 0x003 => if v < 2 ^ 4 then bank fun b => { b with efn := BitVec.ofNat 4 v } else none
  | 0x004 => if v < 2 ^ 32 then bank fun b => { b with origin := BitVec.ofNat 32 v } else none
  | 0x005 =>
    if x &&& 0xFFFFFFFFFFFF00FF = s.me.status &&& 0xFFFFFFFFFFFF00FF then bank fun b => { b with user := BitVec.ofNat 8 (v / 2 ^ 8) }
    else none
  | 0x008 => if v < 2 ^ 52 ∧ v % 2 ^ 10 = 0 then some (s.modMe fun t => { t with tvec := x }) else none
  | 0x010 =>
    if v < 2 ^ 24 ∧ v / 4 % 64 = 0 ∧ v % 4 ≠ 3 then
      some (s.modMyCore fun c =>
        { c with hold2 := BitVec.ofNat 8 (v / 2 ^ 16), hold1 := BitVec.ofNat 8 (v / 2 ^ 8), depth := BitVec.ofNat 2 v })
    else none
  | 0x011 => if 1 ≤ v ∧ v ≤ 8 then some (s.modMyCore fun c => { c with mweight := BitVec.ofNat 4 v }) else none
  | 0x012 => if v < 2 ^ 8 then some (s.modMyCore fun c => { c with xmask := BitVec.ofNat 8 v }) else none
  | 0x013 => some (s.modMe fun t => { t with seed := x, gen := 0 })
  | 0x100 => if 1 ≤ v ∧ v ≤ 16 then some (s.modMyPolder fun p => { p with cslim := v }) else none
  | 0x101 =>
    let k := s.myStack
    if v < 2 ^ 56 ∧ v % 32 = 0 ∧ stkOfPa v = stkOf s.cur ∧ !k.injctl.getLsbD 63 ∧ injOk (stkOf s.cur) x (k.injctl &&& ~~~(1#64 <<< 62)) then
      some (s.modMyStack fun k => { k with injaddr := x })
    else none
  | 0x102 =>
    let k := s.myStack
    if injOk (stkOf s.cur) k.injaddr (x &&& ~~~(1#64 <<< 62)) then
      let fired := k.injctl.getLsbD 62 && !x.getLsbD 62
      some (s.modMyStack fun k =>
        { k with injctl := (x &&& ~~~(1#64 <<< 62)) ||| (if fired then 1#64 <<< 62 else 0) })
    else none
  | _ => none

/-- A number that `setc` may name in a slot: assigned, and not read-only there (R240). -/
def cregWritable (slot n : Nat) : Bool :=
  [0x000, 0x001, 0x002, 0x003, 0x004, 0x005, 0x010, 0x011, 0x012, 0x013, 0x100, 0x101, 0x102].contains n
    || (n == 0x008 && slot == 7)

/-- `setc` (R392, R240). -/
def execSetc (n a : Nat) (s : State) : Answer :=
  .next (if !cregWritable (slotNo s.cur) n then s.trap 0x01 (Instr.setc n a).wordVal
    else s.withGate [.s a] [] fun s =>
      let x := s.sval a
      match s.setCreg n x with
      | none => s.trap 0x01 x.toNat
      | some s => (s.popIf [a]).advance 4)

/-! ## Services (R393, R252) -/

/-- A request to system software (R393, R428): a refused entry leaves the thread parked. -/
def State.request (s : State) (d a m : Nat) : State :=
  s.withGate [.s a] [.s d] fun s =>
    let e := mkEnt 3 (s.sval a).toNat (contOf 0 d s.cur) s.cur m (s.timeAt s.cur)
    match s.inboxPush (polOf s.cur) e with
    | (false, s) => s.park .inbox
    | (true, s) => ((s.modMe fun t => t.setSt (.s d) (.owed .cont)).popIf [a]).advance 4

/-- `sysc` (R393). -/
def execSysc (d a n : Nat) (s : State) : Answer :=
  .next (match n with
    | 1 =>
      s.withGate [.s a] [.s d] fun s =>
        let off := (s.sval a).toNat
        if off % 8 ≠ 0 then s.trap 0x03 off
        else match s.myImage with
          | none => s
          | some im =>
            if im.pool.length ≤ off then s.trap 0x05 off
            else ((s.result (.s d) (.s (BitVec.ofNat 64 (leAt im.pool off 8))) true).popIf [a]).advance 4
    | 2 =>
      if a ≠ 0 then s.trap 0x01 (Instr.sysc d a n).wordVal
      else s.withGate [] [.s d] fun s => (s.putS d (BitVec.ofNat 64 (s.copyBase (coreOf s.cur)))).advance 4
    | _ => if n < 16 then s.trap 0x01 (Instr.sysc d a n).wordVal else s.request d a n)

/-! ## `eack` and `eret` (R394, R422) -/

/-- `eack`. -/
def execEack (s : State) : Answer :=
  .next (if s.me.level = 0 ∨ s.me.ack then s.trap 0x01 Instr.eack.wordVal
    else (s.modMe fun t => { t with ack := true }).advance 4)

/-- The trap record at an address: it waits for nothing in flight, except for host memory (R422). -/
def State.withTrapRecord (s : State) (va : Nat) (k : List Byte → State → State) : State :=
  s.withPieces va 64 false fun ps s =>
    let go (g : Got) (s : State) : State :=
      match g.bad.min? with
      | some i => s.trap 0x07 ((va + i) % 2 ^ 64)
      | none => k g.data s
    if s.hostMissing (stkOf s.cur) ps = [] then
      let (g, s) := s.readOwn ps
      go g s
    else s.withBytes ps go

/-- A deferred fill from another stack would drop a far line that is pinned (R119, R76). -/
def State.deferredPinned (s : State) : Bool :=
  s.me.level == 1 && (s.putOff s.thr).any fun f => f.cross && s.farPinned (stkOf s.cur) fun _ l => stampOld f.time l

/-- `eret`. -/
def execEret (s : State) : Answer :=
  .next (if s.me.level = 0 then s.trap 0x01 Instr.eret.wordVal
    else s.withGate [.s 30] [.s 31] fun s =>
      let fp := (s.me.sreg 30).val.toNat
      if fp % 64 ≠ 0 then s.trap 0x03 fp
      else s.withTrapRecord fp fun bs s =>
        if leAt bs 32 2 ≠ 0xFFFF then s.trap 0x05 fp
        else if s.deferredPinned then s.park .matrix
        else s.leaveHandler (leAt bs 0 32) (leAt bs 36 4) (BitVec.ofNat 64 (leAt bs 48 8)) (BitVec.ofNat 64 (leAt bs 56 8)))

/-! ## Holds (R395, R423) -/

/-- `park`. -/
def execPark (a : Nat) (s : State) : Answer :=
  .next (s.withGate [.s a] [] fun s =>
    let ep := (s.sval a).toNat
    if !s.epWf ep then s.trap 0x05 ep
    else
      let s := (s.popIf [a]).advance 4
      if (s.thread (thrOf ep)).live then s.modThread (thrOf ep) fun t => { t with held := true } else s)

/-- An escalated thread takes handler entry again for the trap in bank 1, with esc set (R423). -/
def State.resumeEscalated (s : State) (ep : Nat) : State :=
  match (s.thread (thrOf ep)).escal with
  | none => s
  | some e =>
    s.asSlot ep fun s =>
      s.modMe fun t => { t with escal := none, esc := true, entry := some { written := false, abandon := e.record } }

/-- `wake`. -/
def execWake (a : Nat) (s : State) : Answer :=
  .next (s.withGate [.s a] [] fun s =>
    let ep := (s.sval a).toNat
    if !s.epWf ep then s.trap 0x05 ep
    else
      let s := (s.popIf [a]).advance 4
      let s := if (s.core (coreOf ep)).gated.isSome then s.modCore (coreOf ep) fun c => { c with gated := none } else s
      let t := s.thread (thrOf ep)
      if !t.live then s
      else
        let s := s.modThread (thrOf ep) fun t => { t with held := false, halted := t.halted && slotNo ep != 7 }
        s.resumeEscalated ep)

/-- An entry for the polder waits (R395, R428). -/
def State.inboxWaiting (s : State) (pol : Nat) : Bool :=
  (s.polder pol).inbox != [] || s.inRing pol || (s.polder pol).pend != []

/-- `halt`. -/
def execHalt (s : State) : Answer :=
  let waiting := s.inboxWaiting (polOf s.cur)
  .next ((s.advance 4).modMe fun t => { t with halted := !waiting })

/-! ## Installs (R396) -/

/-- A 64-byte install descriptor. -/
structure InstallDesc where
  digest : Nat
  addr : Nat
  len : Nat
  kind : Nat
  pinned : Bool
  ok : Bool
  deriving DecidableEq, Repr

/-- The descriptor in 64 bytes, and whether it is well formed. -/
def installDesc (bs : List Byte) : InstallDesc :=
  let addr := leAt bs 32 8
  let len := leAt bs 40 4
  let kind := leAt bs 44 1
  let flags := leAt bs 45 1
  { digest := leAt bs 0 32, addr := addr, len := len, kind := kind, pinned := flags % 2 == 1,
    ok := decide (flags < 2) && leAt bs 46 2 == 0 && leAt bs 56 8 == 0 && (kind == 1 || kind == 2) && decide (0 < len)
      && decide (len ≤ if kind = 1 then 32800 else 32928) && region addr == .dram && region (addr + len - 1) == .dram
      && stkOfPa addr == stkOfPa (addr + len - 1) }

/-- The image of a descriptor, or the reason of R153. -/
def State.checkImage (s : State) (d : InstallDesc) (bs : List Byte) : Except Nat Image :=
  if d.kind = 1 then checkPortable d.digest bs
  else match checkNative s.myStack d.digest bs with
    | .error r => .error r
    | .ok im => if checkSig s.myStack bs then .ok im else .error 4

/-- Pinned entries of a polder. -/
def Polder.pinned (p : Polder) : Nat := (p.code.filter fun e => e.2.pinned).length

/-- `cinst`: it waits for a slot as a loader install does. (DEDUCED, log 65.) -/
def execCinst (a : Nat) (s : State) : Answer :=
  .next (s.withGate [.s a] [] fun s =>
    let pa := (s.sval a).toNat
    let pol := polOf s.cur
    if pa % 64 ≠ 0 then s.trap 0x03 pa
    else if region pa ≠ .dram then s.trap 0x05 pa
    else if s.memoryHeld [{ lo := 0, len := 64, tgt := .dev pa true false }] then s.park .loads
    else s.afterAccesses fun s =>
      let d := installDesc (s.bytes pa 64)
      let done (s : State) (status : Nat) : State :=
        ((s.writeRun (stkOfPa pa) (pa + 48) (leBytes 8 status) false true 0).popIf [a]).advance 4
      match s.poisonIn pa 64 with
      | some b => s.trap 0x07 b
      | none =>
        if !d.ok then done s 10
        else
          let bs := s.bytes d.addr d.len
          match s.checkImage d bs with
          | .error r =>
            let key := if d.kind = 2 then leAt bs 36 4 else 0
            let model := if d.kind = 2 then leAt bs 32 4 else 0
            done (s.codeRecord pol d.digest 4 r key model (stkOf s.cur * 2 ^ 20 + sliceNo s.cur * 2 ^ 12)) r
          | .ok im =>
            match s.myPolder.imageOf d.digest with
            | some (slot, old) =>
              if !d.pinned ∨ old.pinned then done s 0
              else if 4 ≤ s.myPolder.pinned then done s 9
              else done (s.modImage pol slot fun im => { im with pinned := true }) 0
            | none =>
              if d.pinned ∧ 4 ≤ s.myPolder.pinned then done s 9
              else match s.install pol { im with pinned := d.pinned } with
                | (true, s) => done s 0
                | (false, s) =>
                  match s.me.prog with
                  | .cinst _ true => done s 9
                  | .cinst _ false => s.park .pool
                  | _ => (s.modMe fun t => { t with prog := .cinst (s.timeAt s.cur) false }).park .pool)

/-- `cdrop`. -/
def execCdrop (a : Nat) (s : State) : Answer :=
  .next (s.withGate [.s a] [] fun s =>
    let n := (s.sval a).toNat
    if 16 ≤ n then s.trapOpen 0x01
    else match s.myPolder.code.find? n with
      | none => (s.popIf [a]).advance 4
      | some im =>
        if im.users ≠ 0 then s.park .pool
        else ((s.modMyPolder fun p => { p with code := p.code.erase n }).popIf [a]).advance 4)

/-! ## Invalidations (R30, R31, R397) -/

/-- Removes what overlaps `n` bytes of addresses modulo 2^52. -/
def tlbDropRange (l : List TlbEnt) (dike lo n : Nat) : List TlbEnt := tlbDrop (tlbDrop l dike lo (lo + n)) dike 0 (lo + n - 2 ^ 52)

/-- Two runs of addresses meet, the second modulo 2^52. -/
def runsMeet (a m lo n : Nat) : Bool := (decide (a < lo + n) && decide (lo < a + m)) || decide (a < lo + n - 2 ^ 52)

/-- The walk cache without the table entries that cover part of a range. -/
def wcacheDrop (l : List (Nat × Nat × Nat × Nat)) (dike lo n : Nat) : List (Nat × Nat × Nat × Nat) :=
  l.filter fun e => !(e.1 == dike && runsMeet (e.2.2.1 * 2 ^ levelLo (e.2.1 + 1)) (2 ^ levelLo (e.2.1 + 1)) lo n)

/-- The stacks and the polders of a dike. -/
def State.dikePolders (s : State) (dike : Nat) : List Nat := (s.polders.filter fun e => e.2.dike == dike).map (·.1)

/-- An invalidation reaches a stack: slice TLBs and walk cache lose what it covers, and walks that it covers run again. -/
def State.invalidateStack (s : State) (stk dike lo n : Nat) : State :=
  let redo (w : Walk) : Walk := if w.dike = dike ∧ runsMeet (w.vpn * 2 ^ 16) (2 ^ 16) lo n then { w with redo := true } else w
  let s := s.modStack stk fun k =>
    { k with wcache := wcacheDrop k.wcache dike lo n, walks := k.walks.map redo }
  { s with slices := s.slices.map fun e =>
      if stkOfSlice e.1 = stk then (e.1, { e.2 with stlb := tlbDropRange e.2.stlb dike lo n }) else e }

/-- An invalidation of a dike begins: it is sent to every stack and every polder of the dike. -/
def State.beginInvalidation (s : State) (dike lo n : Nat) : State :=
  let s := s.nextSeq
  let pols := s.dikePolders dike
  let s := (pols.map stkOfPol).eraseDups.foldl (fun s k => s.invalidateStack k dike lo n) s
  let inv : PolderInv := { id := s.seq, dike := dike, lo := lo, hi := n, started := false, old := false }
  let s := pols.foldl (fun s p => s.modPolder p fun x => { x with invs := x.invs ++ [inv] }) s
  (s.modMyStack fun k => { k with tlbis := k.tlbis.insert s.seq pols }).modMe fun t => { t with prog := .tlbi s.seq }

/-- `tlbi`: the slot parks until every polder has reported. -/
def execTlbi (a b : Nat) (whole : Bool) (s : State) : Answer :=
  .next (match s.me.prog with
    | .tlbi id =>
      if s.myStack.tlbis.getD id [] ≠ [] then s.park .unit
      else (s.modMyStack fun k => { k with tlbis := k.tlbis.erase id }).advance 4
    | _ =>
      if whole then
        if a ≠ 0 ∨ b ≠ 0 then s.trap 0x01 (Instr.tlbi a b whole).wordVal
        else (s.beginInvalidation (s.jobOf s.cur) 0 (2 ^ 52)).park .unit
      else s.withGate [.s a, .s b] [] fun s =>
        let n := (s.sval b).toNat
        if n = 0 ∨ 2 ^ 52 < n then s.trapOpen 0x01
        else
          let lo := (s.sval a).toNat % 2 ^ 52
          ((s.beginInvalidation (s.jobOf s.cur) lo n).popIf [a, b]).park .unit)

/-! ## Scrubbing (R174, R175, R183) -/

/-- A scrub reads a sector and writes it back: a single-symbol error is corrected, and a sector that reads as uncorrectable takes the
poison pattern (R174, R175). A failed channel discards what is written (R173). -/
def State.scrubSector (s : State) (pa ep : Nat) : State :=
  match s.arraySector pa 4 ep with
  | (true, s) => if (s.slice (proxyDev (stkOfPa pa) pa)).chan.failed then s else s.setPattern pa true
  | (false, s) => s

/-- The sectors of a run where a scrub finds something, in order: those that hold the pattern, the armed one, and those that an error
has struck. -/
def State.scrubWork (s : State) (pa n : Nat) : List Nat :=
  let k := s.stack (stkOfPa pa)
  let armed := k.injaddr.toNat
  let l := s.poison.filter fun g => decide (pa ≤ g) && decide (g < pa + n)
  let l := (k.upsets.filter fun u => u.kind.array && decide (pa ≤ u.addr) && decide (u.addr < pa + n)).foldl
    (fun l u => NSet.add l (u.addr / 32 * 32)) l
  if k.injctl.getLsbD 63 ∧ pa ≤ armed ∧ armed < pa + n then NSet.add l armed else l

/-- `scrub`. -/
def execScrub (a b : Nat) (s : State) : Answer :=
  .next (s.withGate [.s a, .s b] [] fun s =>
    let pa := (s.sval a).toNat
    let n := (s.sval b).toNat
    let stk := stkOf s.cur
    if pa % 32 ≠ 0 ∨ n % 32 ≠ 0 ∨ n < 32 ∨ 2 ^ 30 < n ∨ stkOfPa pa ≠ stk ∨ region pa ≠ .dram ∨ region (pa + n - 1) ≠ .dram then
      s.trapOpen 0x01
    else if s.memoryHeld [{ lo := 0, len := 32, tgt := .dev pa true false }] then s.park .loads
    else (((s.scrubWork pa n).foldl (fun s g => s.scrubSector g s.cur) s).popIf [a, b]).advance 4)

end Sys2Proof.Machine
end

