-- ==== Sys2Proof/Machine/TaskInstr.lean ====
section
/-! DEFINITION. Sys2Proof/Machine/TaskInstr.lean: the task instructions (R363 to R370, R404 to R406). -/

namespace Sys2Proof.Machine

/-! ## Spawning and joining (R364, R366) -/

/-- The registers that a continuation block saves. -/
def savedRegs : List Nat := (List.range 12).map fun i => 16 + i

/-- The four 32-byte stores of a continuation block: `s16` to `s27`, then 32 zero bytes. -/
def State.contBlock (s : State) : List Byte :=
  savedRegs.flatMap (fun r => leBytes 8 (s.me.sreg r).val.toNat) ++ List.replicate 32 0

/-- The runs of the block, each within one granule. -/
def blockRuns (blk : Nat) : List (Nat × Nat × Nat) := (List.range 4).map fun i => (32 * i, (blk + 32 * i) % 2 ^ 64, 32)

/-- The push of a spawn: the join word counts one more child, record and block enter the store buffer in one issue, and the
entry stands at the deque's bottom (R364). -/
def State.spawnPush (s : State) (cur : Image) (site slot : Nat) (im : Image) (rtgt : Target) (bps : List Piece) : State :=
  let sp := (s.me.sreg 31).val.toNat
  let fp := (s.me.sreg 30).val.toNat
  let rec_ := (sp + 2 ^ 64 - 64) % 2 ^ 64
  let blk := (sp + 2 ^ 64 - 192) % 2 ^ 64
  s.withObject ((fp + 2 ^ 64 - 8) % 2 ^ 64) 8 fun pa s =>
    if s.sbFree < 12 then s.park .storeBuf
    else
      let s := s.putNum pa 4 ((s.num pa 4 + 1) % 2 ^ 32)
      let bs := s.contBlock
      let s := s.enterRecord rec_ rtgt (s.frameRecord cur site (s.me.pc + 8))
      let s := bps.foldl (fun s p => s.enterStore .plain (blk + p.lo) [{ p with lo := 0 }] ((bs.drop p.lo).take 32)) s
      let s := s.modMyCore fun c => { c with deque := c.deque ++ [{ live := true, slot := slotNo s.cur, recVa := rec_ }] }
      let s := (s.addFrame (polOf s.cur) s.me.img).moveUser slot
      s.enter slot im 0 rec_ ((blk + 2 ^ 64 - im.frame) % 2 ^ 64)

/-- `spawn` (R364): with a full deque it goes on exactly as a call. A join word out of line is MISALIGN. (DEDUCED, log 110.) -/
def execSpawn (site imp : Nat) (s : State) : Answer :=
  .next (s.withSite (.spawn site imp) site (some imp) fun cur s =>
    s.withGate (frameRegs ++ savedRegs.map Desig.s) frameRegs fun s =>
      s.aligned64 31 fun s =>
        s.withImage (cur.import? imp) 0 fun slot im s =>
          let sp := (s.me.sreg 31).val.toNat
          let jw := ((s.me.sreg 30).val.toNat + 2 ^ 64 - 8) % 2 ^ 64
          s.withX ((sp + 2 ^ 64 - 64) % 2 ^ 64) true fun rtgt s =>
            s.withRuns true (blockRuns ((sp + 2 ^ 64 - 192) % 2 ^ 64)) [] fun bps s =>
              if jw % 8 ≠ 0 then s.trap 0x03 jw
              else s.withX jw true fun jt s =>
                match jt with
                | .host _ _ _ => s.trap 0x05 jw
                | _ =>
                  if 64 ≤ s.myCore.deque.length then s.callRecord cur site 8 slot im []
                  else s.spawnPush cur site slot im rtgt bps)

/-- `join` (R366): a count of 0 passes as an acquire; otherwise the endpoint is recorded and the thread parks. -/
def execJoin (s : State) : Answer :=
  .next (s.withGate [.s 30] [] fun s =>
    let jw := ((s.me.sreg 30).val.toNat + 2 ^ 64 - 8) % 2 ^ 64
    if jw % 8 ≠ 0 then s.trap 0x03 jw
    else s.withObject jw 8 fun pa s =>
      if s.num pa 4 = 0 then s.withAcquire pa fun s => s.advance 4 else (s.putNum (pa + 4) 4 s.cur).park .join)

/-! ## Creating and releasing tasks (R367, R404, R405) -/

/-- The launch the issuing task counts in; 0 for none. -/
def State.myLaunch (s : State) : Nat := if s.me.task = 0 then 0 else s.launchOf (s.jobOf s.cur) s.me.task.toNat

/-- The issuing task's levels; all zero without a task. -/
def State.myLevels (s : State) : (Nat × Nat × Nat) × State :=
  if s.me.task = 0 then ((0, 0, 0), s) else s.tcbLevels (stkOf s.cur) (s.jobOf s.cur) s.me.task.toNat

/-- A task created into a cancelled level is retired at once (R217). -/
def State.retireIfCancelled (s : State) (stk slice dike task : Nat) : Bool × State :=
  let ((_, g, p), s) := s.tcbLevels stk dike task
  if s.cancelledAt dike (s.launchOf dike task) g p 1 then (true, s.endTask stk slice dike task 7 0 false none) else (false, s)

/-- `tnew` (R367, R404): it waits as an atomic does (R445). -/
def execTnew (d a b : Nat) (s : State) : Answer :=
  .next (s.withGate [.s a, .s b] [.s d] fun s =>
    let p := (s.sval a).toNat
    let extra := (s.sval b).toNat
    let stk := stkOf s.cur
    let dike := s.jobOf s.cur
    if 2 ^ 31 ≤ extra then s.trapOpen 0x01
    else if p % 64 ≠ 0 then s.trap 0x03 p
    else s.afterAccesses fun s => s.withRead p 64 fun bs s =>
      match s.myImage with
      | none => s
      | some im =>
        if im.imports.length ≤ leAt bs 0 2 then s.trap 0x05 p
        else match s.tcbFree stk dike with
          | (none, s) => s.park .pool
          | (some h, s) =>
            let ((ltag, graph, phase), s) := s.myLevels
            let init : TcbInit :=
              { imp := leAt bs 0 2, prio := leAt bs 2 1 % 8, status := 1, counter := extra + 1,
                regs := (List.range 5).map fun i => leAt bs (16 + 8 * i) 8, ltag := ltag, graph := graph, phase := phase,
                responder := false, ranged := false, digest := im.import? (leAt bs 0 2) }
            let s := (s.tcbWrite stk dike h init).taskAdded dike s.myLaunch h
            let s := (s.retireIfCancelled stk (sliceOf s.cur) dike h).2
            ((s.result (.s d) (.s (BitVec.ofNat 64 h)) true).popIf [a, b]).advance 4)

/-- The status of a handle: 0 for one that names no TCB of the pool. -/
def State.handleStatus (s : State) (h : Nat) : Nat × State :=
  match s.tcbIndex (stkOf s.cur) (s.jobOf s.cur) h with
  | none => (0, s)
  | some _ => s.sysNum (stkOf s.cur) (s.jobOf s.cur) (h + 3) 1

/-- A handle must name a live TCB of the dike (R367). -/
def State.withHandle (s : State) (h : Nat) (k : Nat → State → State) : State :=
  match s.handleStatus h with
  | (st, s) => if st = 0 ∨ st = 8 then s.trap 0x05 h else k st s

/-- The first block of a successor list with an unused place, and that place (R405); a fuel bounds the list. -/
def State.freePlace (s : State) (stk dike : Nat) : Nat → Nat → Option Nat × State
  | 0, _ => (none, s)
  | _, 0 => (none, s)
  | n + 1, blk =>
    let (places, s) := (List.range 6).foldl (fun (acc : List Nat × State) i =>
      let (h, s) := acc.2.sysNum stk dike (blk + 8 + 8 * i) 8
      (acc.1 ++ [h], s)) ([], s)
    match (List.range 6).find? fun i => places.getD i 1 == 0 with
    | some i => (some (blk + 8 + 8 * i), s)
    | none =>
      let (next, s) := s.sysNum stk dike (blk + 56) 8
      s.freePlace stk dike n next

/-- The last block of a successor list, or 0. -/
def State.lastBlock (s : State) (stk dike : Nat) : Nat → Nat → Nat × State
  | 0, blk => (blk, s)
  | n + 1, blk =>
    if blk = 0 then (0, s)
    else
      let (next, s) := s.sysNum stk dike (blk + 56) 8
      if next = 0 then (blk, s) else s.lastBlock stk dike n next

/-- A new successor block with one handle. -/
def succBlock (h : Nat) : List Byte := leBytes 3 0 ++ leBytes 1 8 ++ leBytes 4 0 ++ leBytes 8 h ++ List.replicate 48 0

/-- Appends a successor to a task's list (R405): the first unused place, else a new block of the pool; none when the pool is
empty. -/
def State.addSuccessor (s : State) (stk dike pred succ : Nat) : Bool × State :=
  let n := (s.stack stk).dike dike 56 4
  let (head, s) := s.sysNum stk dike (pred + 8) 8
  match s.freePlace stk dike n head with
  | (some at_, s) => (true, s.sysPut stk dike at_ (leBytes 8 succ))
  | (none, s) =>
    match s.tcbFree stk dike with
    | (none, s) => (false, s)
    | (some blk, s) =>
      let s := s.sysPut stk dike blk (succBlock succ)
      let (last, s) := s.lastBlock stk dike n head
      if last = 0 then (true, s.sysPut stk dike (pred + 8) (leBytes 8 blk))
      else (true, s.sysPut stk dike (last + 56) (leBytes 8 blk))

/-- `tdep` (R367). (DEDUCED, log 62.) -/
def execTdep (a b : Nat) (s : State) : Answer :=
  .next (s.withGate [.s a, .s b] [] fun s =>
    let pred := (s.sval a).toNat
    let succ := (s.sval b).toNat
    let stk := stkOf s.cur
    let dike := s.jobOf s.cur
    s.withHandle pred fun st s =>
      s.withHandle succ fun _ s =>
        s.afterAccesses fun s =>
          let (n, s) := s.sysNum stk dike (succ + 4) 4
          if n = 0 then s.trapOpen 0x05
          else if st = 5 ∨ st = 7 then (s.popIf [a, b]).advance 4
          else match s.addSuccessor stk dike pred succ with
            | (false, s) => s.park .pool
            | (true, s) => ((s.sysPut stk dike (succ + 4) (leBytes 4 (n + 1))).popIf [a, b]).advance 4)

/-- `trel` (R367). -/
def execTrel (a : Nat) (s : State) : Answer :=
  .next (s.withGate [.s a] [] fun s =>
    let h := (s.sval a).toNat
    let stk := stkOf s.cur
    let dike := s.jobOf s.cur
    s.withHandle h fun _ s =>
      s.afterAccesses fun s =>
        let (n, s) := s.sysNum stk dike (h + 4) 4
        if n = 0 then s.trapOpen 0x05
        else ((s.releaseOne stk dike h (s.timeAt s.cur)).popIf [a]).advance 4)

/-- `tdone` (R368). -/
def execTdone (s : State) : Answer := .next (s.finishTask none true)

/-! ## Ranges (R369) -/

/-- The chunk that a claim takes: the new next index. -/
def rangeClaim (next fin minc p : Nat) : Nat :=
  let rem := fin - next
  next + min rem (max minc ((rem + 2 * p - 1) / (2 * p)))

/-- `range` (R369). -/
def execRange (d a : Nat) (s : State) : Answer :=
  .next (s.withGate [.s a] [.s d, .s (d + 1)] fun s =>
    let va := (s.sval a).toNat
    if va % 32 ≠ 0 then s.trap 0x03 va
    else s.withObject va 32 fun pa s =>
      let next := s.num pa 8
      let fin := s.num (pa + 8) 8
      let minc := s.num (pa + 16) 4
      let p := s.num (pa + 20) 4
      if minc = 0 ∨ p = 0 ∨ s.num (pa + 24) 8 ≠ 0 then s.trap 0x05 va
      else
        let (lo, hi) := if fin ≤ next then (fin, fin) else (next, rangeClaim next fin minc p)
        let s := if fin ≤ next then s else s.putNum pa 8 hi
        let s := (s.putS d (BitVec.ofNat 64 lo)).putS (d + 1) (BitVec.ofNat 64 hi)
        (s.popIf [a]).advance 4)

/-! ## Yield and cancelling (R368, R370) -/

/-- `yield` (R368): the slot drains and its thread is saved as a pre-emption saves it; it resumes at the next instruction. -/
def execYield (s : State) : Answer := .next ((s.advance 4).modMe fun t => { t with swap := true })

/-- The number of a level (R370). -/
def levelNo : Level → Nat
  | .launch => 1
  | .graph => 2
  | .phase => 3
  | .job => 4

/-- `tcancel` (R370). -/
def execTcancel (lev : Level) (s : State) : Answer :=
  let ((_, g, p), s) := s.myLevels
  .next ((s.cancelLevel (s.jobOf s.cur) s.myLaunch g p (levelNo lev)).advance 4)

/-- `tlev` (R370). -/
def execTlev (d : Nat) (lev : Level) (s : State) : Answer :=
  .next (s.withGate [] [.s d] fun s =>
    let ((_, g, p), s) := s.myLevels
    let x : W64 := if s.cancelledAt (s.jobOf s.cur) s.myLaunch g p (levelNo lev) then 1 else 0
    (s.result (.s d) (.s x) true).advance 4)

end Sys2Proof.Machine
end

