-- ==== Sys2Proof/Machine/Sched.lean ====
section
/-! DEFINITION. Sys2Proof/Machine/Sched.lean: the scheduler (chapter 17): empty slots and what fills them (R410), tasks that start
(R402, R404, R408), steals and splits (R365, R411, R412), the load-summary token (R413), release units (R406), attributes of entry
images (R456), gangs (R415) and job switches (R416). -/

namespace Sys2Proof.Machine

/-! ## Slots that take work (R188, R195, R410) -/

/-- The dike runs its tasks as twin pairs in a stack (R195). -/
def State.twinDike (s : State) (stk dike : Nat) : Bool := (s.stack stk).dike dike 2 1 / 2 % 2 == 1

/-- Dispatch to the polder goes on (R15, R186, R416). -/
def State.dispatches (s : State) (pol : Nat) : Bool :=
  let p := s.polder pol
  let k := s.stack (stkOfPol pol)
  p.dike != 0 && !p.stopped && !k.dikeStopped.has p.dike && decide (1 ≤ k.service) && k.dikeValid p.dike

/-- A slot holds no thread and no trailing copy of one. -/
def State.slotEmpty (s : State) (thr : Nat) : Bool :=
  !(s.thread thr).live && !(thr % 2 == 1 && (s.thread (thr - 1)).live && (s.thread (thr - 1)).twin)

/-- A slot of a mapped core is empty, its core is not reserved, a twin dike finds the pair free, and no migration has reserved the guest
slot (R94, R195, R410, R415). (DEDUCED, log 79.) -/
def State.takesWork (s : State) (ep : Nat) : Bool :=
  let thr := thrOf ep
  let g := (s.core (coreOf ep)).gang
  s.epWf ep && s.dispatches (polOf ep) && decide (slotNo ep < 7) && s.slotEmpty thr && !g.reserved && !g.donor
    && (!s.twinDike (stkOf ep) (s.jobOf ep) || (thr % 2 == 0 && s.slotEmpty (thr + 1)))
    && !(slotNo ep == 6 && ((s.slice (sliceOf ep)).guests.find? (coreOf ep)).isSome)

/-! ## Stack regions (R408, R432) -/

/-- What a killed task that will be retried keeps: its region and its kills. (DEDUCED, log 50.) -/
def State.keptOf (s : State) (dike task : Nat) : Option (Nat × Nat) :=
  s.stackRecs.findSome? fun (e : Nat × Stack) => e.2.kept.find? (keptKey dike task)

/-- The task keeps nothing any more. -/
def State.dropKept (s : State) (dike task : Nat) : State :=
  { s with stackRecs := s.stackRecs.map fun (e : Nat × Stack) => (e.1, { e.2 with kept := e.2.kept.erase (keptKey dike task) }) }

/-- The region a task starts in: the one it keeps, else the lowest free one of the stack's area. (DESIGN CHOICE, log 74.) -/
def State.regionFor (s : State) (stk dike task : Nat) : Option Nat :=
  match s.keptOf dike task with
  | some (g, _) => some g
  | none =>
    let k := s.stack stk
    match (List.range (k.regions.length + 1)).find? fun r => (k.regions.find? (dike * 2 ^ 32 + r)).isNone with
    | some r => if r < k.dike dike 76 4 then some (regionOf stk r) else none
    | none => none

/-- The top of a region (R408). -/
def State.regionTop (s : State) (dike g : Nat) : Nat :=
  let k := s.stack (regStk g)
  k.dike dike 64 8 + 2 ^ (k.dike dike 72 1) * (regNo g + 1)

/-! ## Starting a task (R191, R402, R404, R408) -/

/-- A thread at its first instruction, its entry image not yet found: `s1` to `s5` and `fp` are set. (DEDUCED, log 70.) -/
def startThread (digest task tvec fp kills attrs g : Nat) (twin : Bool) (regs : List Nat) : Thread :=
  let t : Thread :=
    { Thread.none with live := true, img := 16, digest := digest, tvec := BitVec.ofNat 64 tvec, task := BitVec.ofNat 64 task,
                       seed := BitVec.ofNat 64 task, region := some g, kills := kills, attrs := attrs, twin := twin,
                       prog := .start }
  let t := regs.zipIdx.foldl (fun t e => t.setS (e.2 + 1) (Cell.full (BitVec.ofNat 64 e.1))) t
  (t.setS 30 (Cell.full (BitVec.ofNat 64 fp))).setS 31 (Cell.full (BitVec.ofNat 64 fp))

/-- A ready task starts in a slot with a region. A task that a release unit readied finds the far lines of R119 dropped (R368). A fault on a
system area stops the dike's dispatch, and the task stays ready (R15). -/
def State.startTask (s : State) (ep : Nat) (e : ReadyEnt) (g : Nat) : State :=
  let stk := stkOf ep
  let fp := s.regionTop e.dike g - 64
  let kills := match s.keptOf e.dike e.task with | some (_, n) => n | none => 0
  let s := s.sysPut stk e.dike fp (List.replicate 64 0)
  let (digest, s) := s.sysNum stk e.dike (s.tcbDigest stk e.dike e.task) 32
  let (regs, s) := (List.range 5).foldl (fun (acc : List Nat × State) i =>
    let (x, s) := acc.2.sysNum stk e.dike (e.task + 16 + 8 * i) 8
    (acc.1 ++ [x], s)) ([], s)
  let s := (s.sysPut stk e.dike (e.task + 3) (leBytes 1 3)).sysPut stk e.dike (e.task + 60) (leBytes 2 (regNo g))
  let t := startThread digest e.task ((s.stack stk).dike e.dike 16 8) fp kills (e.attrs.getD 0) g (s.twinDike stk e.dike) regs
  if (s.stack stk).dikeStopped.has e.dike then s.modStack stk fun k => { k with ready := e :: k.ready }
  else
    let s := if (s.keptOf e.dike e.task).isSome then s.dropKept e.dike e.task else s.joinRegion e.dike g
    let s := if e.ordered then (s.dropFarIf stk fun _ l => stampOld e.release l).raiseT stk e.release else s
    (s.setThread (thrOf ep) t).modCore (coreOf ep) fun c => { c with gated := none }

/-! ## Ready entries (R409, R410, R414, R415) -/

/-- The context of a swapped task. -/
def State.savedOf (s : State) (stk dike task : Nat) : Option Saved := (s.takeSaved stk dike task).map (·.1)

/-- The gang bits of an entry image (R143). -/
def gangAttrs (a : Nat) : Nat := a / 4 % 4

/-- A responder's hold allows the polder (R414). -/
def ReadyEnt.heldFrom (e : ReadyEnt) (pol : Nat) : Bool :=
  match e.polder with
  | none => true
  | some p => p == pol || (e.wide && p / 32 == pol / 32)

/-- An empty slot may take an entry: its attributes are known and ask for no gang, its hold allows the polder, a region is free; a
swapped context is not held elsewhere (R410, R427). A far line that R119 drops is not pinned (R76). -/
def State.eligible (s : State) (ep : Nat) (e : ReadyEnt) : Bool :=
  e.dike == s.jobOf ep && e.heldFrom (polOf ep) &&
    (if e.saved then
      match s.savedOf (stkOf ep) e.dike e.task with
      | some x => if s.tied x then x.ep == ep else decide (slotNo ep < 6)
      | none => false
    else decide (slotNo ep < 6) && (match e.attrs with | some a => gangAttrs a == 0 | none => false)
      && (s.regionFor (stkOf ep) e.dike e.task).isSome
      && !(e.ordered && s.farPinned (stkOf ep) fun _ l => stampOld e.release l))

/-- A level of a waiting task is cancelled (R217); a swapped task has started. -/
def State.entCancelled (s : State) (stk : Nat) (e : ReadyEnt) : Bool × State :=
  if e.saved then (false, s)
  else
    let ((_, g, p), s) := s.tcbLevels stk e.dike e.task
    (s.cancelledAt e.dike (s.launchOf e.dike e.task) g p 1, s)

/-- A task that has not started is retired as cancelled. (DEDUCED, log 29.) -/
def State.retire (s : State) (stk slice : Nat) (e : ReadyEnt) : State :=
  let s := match s.keptOf e.dike e.task with
    | some (g, _) => (s.leaveRegion e.dike g).dropKept e.dike e.task
    | none => s
  s.endTask stk slice e.dike e.task 7 0 false none

/-- A ready entry starts, or resumes, in a slot. -/
def State.runReady (s : State) (ep : Nat) (e : ReadyEnt) : State :=
  if e.saved then
    match s.takeSaved (stkOf ep) e.dike e.task with
    | some (x, s) => s.resumeAt ep x
    | none => s
  else
    match s.regionFor (stkOf ep) e.dike e.task with
    | some g => s.startTask ep e g
    | none => s

/-! ## Steals (R365, R411, R412) -/

/-- The order in which a level's cores are searched from a thief's endpoint: polder, slice, stack, package; the thief's own core
stands first at the polder level. `first` says which stack of the package answers first. -/
def stealOrder (level ep first core : Nat) : Option Nat :=
  let own := coreOf ep
  match level with
  | 0 => if core / 8 = own / 8 then some ((core % 8 + 8 - own % 8) % 8) else none
  | 1 => if core / 256 = own / 256 then some ((core / 8 % 32 + 32 - own / 8 % 32) % 32 * 8 + core % 8) else none
  | 2 =>
    if core / 65536 = own / 65536 then some ((core / 256 % 256 + 256 - own / 256 % 256) % 256 * 256 + core % 256) else none
  | _ =>
    if core / 262144 = own / 262144 ∧ core / 65536 ≠ own / 65536 then
      some ((core / 65536 % 4 + 4 - first % 4) % 4 * 65536 + core % 65536)
    else none

/-- The stores of a spawn record and its block have performed. (DEDUCED, log 71.) -/
def Core.recordStands (c : Core) (e : DequeEnt) : Bool :=
  !(c.sb.any fun x => x.slot == e.slot && x.phase != .performed && decide (e.recVa < x.va + 128) && decide (x.va < e.recVa + 64))

/-- The top entry of a deque that may be taken, with its place: the oldest live one, once its record and block have performed. -/
def Core.stealable (c : Core) : Option (Nat × DequeEnt) :=
  match c.deque.zipIdx.find? fun e => e.1.live with
  | some (e, i) => if c.recordStands e then some (i, e) else none
  | none => none

/-- The victims of a level in the order they are searched. -/
def State.victims (s : State) (level ep first : Nat) : List Nat :=
  let dike := s.jobOf ep
  ((s.cores.foldl (fun (m : SMap Nat) (e : Nat × Core) =>
    match stealOrder level ep first e.1 with
    | some d => if e.1 ≠ coreOf ep ∧ (s.polder (e.1 / 8)).dike = dike ∧ e.2.stealable.isSome then m.insert d e.1 else m
    | none => m) []).map (·.2))

/-- A resumed continuation (R365): the block's registers, `fp` and `sp` of the record, the rest as at task start; `c.seed` and the
generator counter are free values. (DESIGN CHOICE, log 69.) -/
def stolenThread (v : Thread) (tvec rec_ : Nat) (blk bs : List Byte) (seed gen : W64) : Thread :=
  let t : Thread :=
    { Thread.none with live := true, img := 16, digest := leAt bs 0 32, tag := leAt bs 36 4, tvec := BitVec.ofNat 64 tvec,
                       task := v.task, seed := seed, gen := gen, region := v.region, kills := v.kills, attrs := v.attrs,
                       twin := v.twin, prog := .stolen rec_ (leAt bs 32 2) (leAt bs 36 4) (leAt bs 40 4) }
  let t := (List.range 12).foldl (fun t i => t.setS (16 + i) (Cell.full (BitVec.ofNat 64 (leAt blk (8 * i) 8)))) t
  (t.setS 30 (Cell.full (BitVec.ofNat 64 (leAt bs 48 8)))).setS 31 (Cell.full (BitVec.ofNat 64 (rec_ + 64)))

/-- A thief takes an entry: it leaves a tombstone, and the continuation goes on in the thief's slot; a malformed record kills the
strand (R365). Faults on the record are those of a system area (R15). (DEDUCED, log 76.) -/
def State.takeEntry (s : State) (ep core i : Nat) (e : DequeEnt) : State :=
  let stk := stkOf ep
  let dike := s.jobOf ep
  let v := s.thread (core * 8 + e.slot)
  match s.sysRead (stkOfCore core) dike ((e.recVa + 2 ^ 64 - 128) % 2 ^ 64) 192 with
  | (.error (c, a), s) => s.sysFault (stkOfCore core) dike c a
  | (.ok all, s) =>
    let bs := all.drop 128
    let seed := Config.openWord (2 * s.fresh)
    let gen := Config.openWord (2 * s.fresh + 1)
    let t := stolenThread v ((s.stack stk).dike dike 16 8) e.recVa all bs seed gen
    let s := s.modCore core fun c => { c with deque := modNth i (fun e => { e with live := false }) c.deque }
    let s := match v.region with | some g => s.joinRegion dike g | none => s
    let s := (s.setThread (thrOf ep) t).modCore (coreOf ep) fun c => { c with gated := none, retry := false }
    if leAt bs 56 8 ≠ 0 ∨ 2 ≤ leAt bs 34 2 then s.killWith (thrOf ep) 0x05 e.recVa else s

/-- The threads of a level that may run a ranged task, in order. (DESIGN CHOICE, log 72.) -/
def State.rangers (s : State) (level ep first : Nat) : List Nat :=
  let dike := s.jobOf ep
  ((s.threads.foldl (fun (m : SMap Nat) (e : Nat × Thread) =>
    match stealOrder level ep first (e.1 / 8) with
    | some d =>
      if e.2.live ∧ e.2.task ≠ 0 ∧ (s.polder (e.1 / 64)).dike = dike then m.insert (d * 8 + e.1 % 8) e.1 else m
    | none => m) []).map (·.2))

/-- The lowest free range object of a stack's area for a dike (R14, R412). -/
def State.freeRangeObj (s : State) (stk dike : Nat) : Option Nat :=
  let k := s.stack stk
  match (List.range (k.ranges.length + 1)).find? fun r => !k.ranges.has (dike * 2 ^ 32 + r) with
  | some r => if r < k.dike dike 96 4 then some r else none
  | none => none

/-- The 32 bytes of a range object (R369). -/
def rangeBytes (next fin minc p : Nat) : List Byte := leBytes 8 next ++ leBytes 8 fin ++ leBytes 4 minc ++ leBytes 4 p ++ leBytes 8 0

/-- A range object comes into use. -/
def State.putRange (s : State) (stk dike r : Nat) (bs : List Byte) : Nat × State :=
  let va := (s.stack stk).dike dike 88 8 + 32 * r
  (va, (s.modStack stk fun k => { k with ranges := k.ranges.add (dike * 2 ^ 32 + r) }).sysPut stk dike va bs)

/-- The split of a running ranged task (R412): the old object keeps the lower half, and a new task of the launch takes the upper
one. It needs a free object and a free TCB; none when the thread has nothing to split. -/
def State.splitOf (s : State) (stk thr : Nat) : Option (ReadyEnt × State) :=
  let dike := (s.polder (thr / 64)).dike
  let task := (s.thread thr).task.toNat
  let (b, s) := s.sysNum stk dike (task + 59) 1
  let (obj, s) := s.sysNum stk dike (task + 24) 8
  let (next, s) := s.sysNum stk dike obj 8
  let (fin, s) := s.sysNum stk dike (obj + 8) 8
  let (minc, s) := s.sysNum stk dike (obj + 16) 4
  let (p, s) := s.sysNum stk dike (obj + 20) 4
  if !b.testBit 5 ∨ obj = 0 ∨ fin ≤ next ∨ minc = 0 ∨ fin - next < 2 * minc then none
  else match s.freeRangeObj stk dike, s.tcbFree stk dike with
    | some r, (some h, s) =>
      let mid := next + (fin - next) / 2
      let s := s.sysPut stk dike (obj + 8) (leBytes 8 mid)
      let (va, s) := s.putRange stk dike r (rangeBytes mid fin minc p)
      let ((l, g, ph), s) := s.tcbLevels stk dike task
      let (prio, s) := s.sysNum stk dike (task + 2) 1
      let (arg, s) := s.sysNum stk dike (task + 16) 8
      let (digest, s) := s.sysNum stk dike (s.tcbDigest stk dike task) 32
      let init : TcbInit :=
        { imp := 0xFFFF, prio := prio % 8, status := 2, counter := 0, regs := [arg, va, l, 0, 0], ltag := l, graph := g, phase := ph,
          responder := false, ranged := true, digest := digest }
      let s := (s.tcbWrite stk dike h init).taskAdded dike (s.launchOf dike task) h
      let e : ReadyEnt :=
        { task := h, dike := dike, prio := prio % 8, release := s.podTime (stk / 4), index := (s.tcbIndex stk dike h).getD 0,
          attrs := some (s.thread thr).attrs, polder := none, since := s.podTime (stk / 4), wide := false, saved := false,
          ordered := false }
      some (e, s)
    | _, _ => none

/-- A thief runs the task of a split, or leaves it in the ready queue when it may not run there. -/
def State.runSplit (s : State) (ep : Nat) (e : ReadyEnt) : State :=
  match s.entCancelled (stkOf ep) e with
  | (true, s) => s.retire (stkOf ep) (sliceOf ep) e
  | (false, s) =>
    if s.eligible ep e then s.runReady ep e else s.modStack (stkOf ep) fun k => { k with ready := k.ready ++ [e] }

/-- A steal from one level on: a deque entry, a split, then the next level; after the package level the core waits to retry. -/
def State.stealFrom (s : State) (ep first : Nat) : List Nat → State
  | [] => s.modCore (coreOf ep) fun c => { c with retry := true }
  | level :: rest =>
    match s.victims level ep first with
    | core :: _ =>
      match (s.core core).stealable with
      | some (i, e) => s.takeEntry ep core i e
      | none => s
    | [] =>
      match (s.rangers level ep first).findSome? fun thr => s.splitOf (stkOf ep) thr with
      | some (e, s) => (s.modCore (coreOf ep) fun c => { c with retry := false }).runSplit ep e
      | none => s.stealFrom ep first rest

/-! ## Filling a slot (R410) -/

/-- The responder or the ready entry that a slot takes. -/
def State.nextEntry (s : State) (ep : Nat) : Option ReadyEnt :=
  match (s.polder (polOf ep)).respQ.find? fun e => s.eligible ep e with
  | some e => some e
  | none => ReadyEnt.first (s.timeAt ep) (fun e => s.eligible ep e) (s.stack (stkOf ep)).ready

/-- An entry leaves the queues of a stack and of a polder. -/
def State.dropEntry (s : State) (stk pol : Nat) (e : ReadyEnt) : State :=
  (s.modPolder pol fun p => { p with respQ := p.respQ.erase e }).modStack stk fun k => { k with ready := k.ready.erase e }

/-- The slot takes work; a cancelled task is retired and the slot takes work again. -/
def State.takeWork (s : State) (ep first : Nat) : Nat → State
  | 0 => s
  | n + 1 =>
    match s.nextEntry ep with
    | none => if slotNo ep < 6 then s.stealFrom ep first [0, 1, 2, 3] else s
    | some e =>
      let s := s.dropEntry (stkOf ep) (polOf ep) e
      match s.entCancelled (stkOf ep) e with
      | (true, s) => (s.retire (stkOf ep) (sliceOf ep) e).takeWork ep first n
      | (false, s) => s.runReady ep e

/-- SLOT_DISPATCH (R410). A guest slot only takes back a context that is held to it (R427). -/
def execSlotDispatch (ep first : Nat) (s : State) : Answer :=
  let n := (s.polder (polOf ep)).respQ.length + (s.stack (stkOf ep)).ready.length + 1
  .next (if s.takesWork ep then s.takeWork ep first n else s)

/-- STEAL_REQUEST (R411, R412): an empty job slot that finds no entry steals. -/
def execStealRequest (ep first : Nat) (s : State) : Answer :=
  .next (if s.takesWork ep ∧ slotNo ep < 6 ∧ s.nextEntry ep = none then s.stealFrom ep first [0, 1, 2, 3] else s)

/-- STEAL_RETRY_TIMER (R411): a core whose steal failed tries again for its lowest empty slot. -/
def execStealRetryTimer (core first : Nat) (s : State) : Answer :=
  .next (if !(s.core core).retry then s
    else match (List.range 6).find? fun i => s.takesWork (epOf core i) with
      | some i => if s.nextEntry (epOf core i) = none then s.stealFrom (epOf core i) first [0, 1, 2, 3] else s
      | none => s)

/-! ## The load-summary token (R413) -/

/-- The packages of a dike, rising. -/
def State.dikePkgs (s : State) (dike : Nat) : NSet := (s.dikePolders dike).foldl (fun l p => NSet.add l (p / 2 ^ 15)) []

/-- The token of a dike; it starts at the lowest package. (DESIGN CHOICE, log 73.) -/
def State.token (s : State) (dike : Nat) : Token :=
  (s.tokens.find? dike).getD { pkg := (s.dikePkgs dike).headD 0, seen := false, reqs := [] }

/-- The tasks of a package that could run elsewhere, with their stacks. -/
def State.surplus (s : State) (pkg dike : Nat) : List (Nat × ReadyEnt) :=
  (List.range 4).flatMap fun i => ((s.stack (pkg * 4 + i)).ready.filter fun e =>
    e.dike == dike && !e.saved && e.polder == none).map fun e => (pkg * 4 + i, e)

/-- The last entry in the order of R409. -/
def lastOf (now : Nat) (l : List (Nat × ReadyEnt)) : Option (Nat × ReadyEnt) :=
  l.foldl (fun b e => match b with
    | none => some e
    | some x => if x.2.before now e.2 then some e else some x) none

/-- Moves tasks from the back of a package's order to a requester's stack 0, where their attributes are looked up again (R456). -/
def State.moveTasks (s : State) (pkg dike dst : Nat) : Nat → State
  | 0 => s
  | n + 1 =>
    match lastOf (s.podTime pkg) (s.surplus pkg dike) with
    | none => s
    | some (stk, e) =>
      let s := s.modStack stk fun k => { k with ready := k.ready.erase e }
      let e := { e with attrs := none, since := s.podTime dst }
      (s.modStack (dst * 4) fun k => { k with ready := k.ready ++ [e] }).moveTasks pkg dike dst n

/-- The empty job slots of a package after failed steals. -/
def State.emptySlots (s : State) (pkg dike : Nat) : Nat :=
  ((s.cores.filter fun (e : Nat × Core) => e.1 / 2 ^ 18 == pkg && e.2.retry && (s.polder (e.1 / 8)).dike == dike).map
    fun e => ((List.range 6).filter fun i => s.takesWork (epOf e.1 i)).length).foldl (· + ·) 0

/-- LOAD_TOKEN_VISIT (R413): own request, others' requests in order, then a new request. -/
def execLoadTokenVisit (dike : Nat) (s : State) : Answer :=
  let t := s.token dike
  let pkg := t.pkg
  .next (if s.dikePkgs dike = [] ∨ t.seen then s
    else
      let (left, s) := (t.reqs.filter fun r => r.1 != pkg).foldl (fun (acc : List (Nat × Nat) × State) r =>
        let s := acc.2
        if 2 * r.2 ≤ (s.surplus pkg dike).length then (acc.1, s.moveTasks pkg dike r.1 r.2) else (acc.1 ++ [r], s)) ([], s)
      let want := min 64 (s.emptySlots pkg dike)
      let reqs := if want ≠ 0 ∧ left.length < 16 then left ++ [(pkg, want)] else left
      { s with tokens := s.tokens.insert dike { pkg := pkg, seen := true, reqs := reqs } })

/-- TOKEN_HOLD_EXPIRY (R413): the token goes to the dike's next package. -/
def execTokenHoldExpiry (dike : Nat) (s : State) : Answer :=
  let t := s.token dike
  let l := s.dikePkgs dike
  let next := (l.find? fun p => decide (t.pkg < p)).getD (l.headD 0)
  .next (if l = [] then s else { s with tokens := s.tokens.insert dike { t with pkg := next, seen := false } })

/-! ## Release units (R406) -/

/-- Releases the successors of one block. -/
def State.releaseBlock (s : State) (stk dike blk t : Nat) : State :=
  (List.range 6).foldl (fun s i =>
    let (h, s) := s.sysNum stk dike (blk + 8 + 8 * i) 8
    if h = 0 then s
    else
      (s.releaseOne stk dike h t).modStack stk fun k =>
        { k with ready := k.ready.map fun e => if e.dike = dike ∧ e.task = h then { e with ordered := true } else e }) s

/-- Walks a list of successor blocks and frees them; a fuel bounds the list. -/
def State.releaseList (s : State) (stk dike t : Nat) : Nat → Nat → State
  | 0, _ => s
  | n + 1, blk =>
    if blk = 0 then s
    else
      let s := s.releaseBlock stk dike blk t
      let (next, s) := s.sysNum stk dike (blk + 56) 8
      (s.sysPut stk dike (blk + 3) (leBytes 1 0)).releaseList stk dike t n next

/-- RELEASE_UNIT_WALK (R406): a slice's release unit takes its oldest list. -/
def execReleaseUnitWalk (sl : Nat) (s : State) : Answer :=
  let stk := stkOfSlice sl
  .next (match (s.slice sl).rel with
    | [] => s
    | (dike, list, t) :: rest =>
      (s.modSlice sl fun x => { x with rel := rest }).releaseList stk dike t ((s.stack stk).dike dike 56 4) list)

/-! ## Attributes (R456) -/

/-- The image of a digest in the stack's code-store directories. (DEDUCED, log 85.) -/
def State.directoryAttrs (s : State) (stk digest : Nat) : Option Nat :=
  s.polders.findSome? fun (e : Nat × Polder) =>
    if stkOfPol e.1 = stk then (e.2.imageOf digest).map fun x => x.2.attrs else none

/-- The attributes of a cached image that passes R153. -/
def Stack.offerAttrs (k : Stack) (digest : Nat) (c : CacheImg) : Option Nat :=
  if c.transl then
    match checkNative k digest c.bytes with
    | .ok im => if checkSig k c.bytes then some im.attrs else none
    | .error _ => none
  else
    match checkPortable digest c.bytes with
    | .ok im => some im.attrs
    | .error _ => none

/-- An image of the stack code cache that passes R153, translations first. -/
def Stack.cacheAttrs (k : Stack) (digest : Nat) : Option Nat :=
  let mine := k.ccache.filter fun c => c.digest == digest
  ((mine.filter fun c => c.transl) ++ mine.filter fun c => !c.transl).findSome? (k.offerAttrs digest)

/-- The entries of a task of a stack learn their attributes; a gang task leaves the responder queue, held to its polder. -/
def State.learnAttrs (s : State) (stk dike task a : Nat) : State :=
  let know (e : ReadyEnt) : ReadyEnt := if e.dike = dike ∧ e.task = task then { e with attrs := some a } else e
  let mine (e : ReadyEnt) : Bool := e.dike == dike && e.task == task
  let s := s.modStack stk fun k => { k with ready := k.ready.map know }
  s.polders.foldl (fun s (x : Nat × Polder) =>
    if stkOfPol x.1 ≠ stk ∨ !(x.2.respQ.any mine) then s
    else
      let s := s.modPolder x.1 fun p => { p with respQ := p.respQ.map know }
      if gangAttrs a = 0 then s
      else
        let moved := (s.polder x.1).respQ.filter mine
        let now := s.podTime (stk / 4)
        (s.modPolder x.1 fun p => { p with respQ := p.respQ.filter fun e => !mine e }).modStack stk fun k =>
          { k with ready := k.ready ++ moved.map fun e => { e with since := now } }) s

/-- The stack controller asks sources 2 to 4 for an entry image (R155, R456): it joins a fetch of the digest, or one begins in the
dike's lowest polder of the stack. -/
def State.wantImage (s : State) (stk dike digest : Nat) : State :=
  let has (p : Polder) : Bool := p.fetches.any fun f => f.digest == digest
  match List.find? (fun (e : Nat × Polder) => stkOfPol e.1 == stk && has e.2) s.polders with
  | some (pol, _) => s.modPolder pol fun p =>
      { p with fetches := p.fetches.map fun f => if f.digest = digest then { f with wanted := true } else f }
  | none =>
    match (s.dikePolders dike).find? fun p => stkOfPol p == stk with
    | some pol => s.modPolder pol fun p =>
        { p with fetches := p.fetches ++ [Fetch.new digest none [] true 2 (s.podTime (stk / 4))] }
    | none => s

/-- The job slots of a core that hold threads. -/
def State.occupied (s : State) (core : Nat) : Nat := ((List.range 6).filter fun i => !s.slotEmpty (core * 8 + i)).length

/-- The leaders that a drain may choose for a width, with what it prefers: the fewest occupied donor slots, then the lower polder,
then the lower group (R415). -/
def State.drainChoices (s : State) (stk : Nat) (e : ReadyEnt) (width : Nat) : SMap Nat :=
  ((s.dikePolders e.dike).filter fun p =>
      stkOfPol p == stk && (s.polder p).drain.isNone && s.dispatches p && e.heldFrom p).foldl (fun m p =>
    ((List.range 8).filter fun c => leads (p * 8 + c) width).foldl (fun (m : SMap Nat) c =>
      let core := p * 8 + c
      let free (d : Nat) : Bool :=
        s.mapped d && !(s.core d).gang.reserved && !(s.core d).gang.donor && !(s.core d).gang.leader
          && !((s.polder p).gangs.any fun g => g.2.1 == d)
      if free core ∧ (donorsOf core width).all free then
        m.insert ((((donorsOf core width).map s.occupied).foldl (· + ·) 0 * 8192 + polIndex p) * 8 + c) core
      else m) m) []

/-- The width code of a gang task (R202, R204). -/
def gangWidth (a : Nat) : Nat := if a.testBit 3 then 2 else 1

/-- A ready gang task without donors begins its drain, unless a drain of its dike is in progress in the stack (R415). -/
def State.startDrain (s : State) (stk : Nat) (e : ReadyEnt) : State :=
  let a := e.attrs.getD 0
  let busy (x : Nat × Polder) : Bool := stkOfPol x.1 == stk && x.2.dike == e.dike && x.2.drain.isSome
  if e.saved ∨ gangAttrs a = 0 ∨ s.polders.any busy then s
  else match s.drainChoices stk e (gangWidth a) with
    | [] => s
    | (_, core) :: _ =>
      let s := (donorsOf core (gangWidth a)).foldl (fun s d =>
        s.modCore d fun c => { c with gang := { c.gang with reserved := true } }) s
      s.modPolder (core / 8) fun p =>
        { p with drain := some { task := e.task, leader := core, width := gangWidth a, start := s.podTime (stk / 4), forced := false } }

/-- The entry of a task in a stack's queues. -/
def State.entryOf (s : State) (stk dike task : Nat) : Option ReadyEnt :=
  let mine (e : ReadyEnt) : Bool := e.dike == dike && e.task == task
  match (s.stack stk).ready.find? mine with
  | some e => some e
  | none => s.polders.findSome? fun (x : Nat × Polder) => if stkOfPol x.1 = stk then x.2.respQ.find? mine else none

/-- ENTRY_ATTRIBUTE_LOOKUP (R456): the attributes of a ready task's entry image, from a directory, from the stack's cache, or by a
fetch. A gang task whose attributes are known begins its drain when it may (R415). -/
def execEntryAttributeLookup (stk dike task : Nat) (s : State) : Answer :=
  .next (match s.entryOf stk dike task with
    | none => s
    | some e =>
      if e.saved then s
      else if e.attrs.isSome then s.startDrain stk e
      else
        let (digest, s) := s.sysNum stk dike (s.tcbDigest stk dike task) 32
        match s.directoryAttrs stk digest with
        | some a => (s.learnAttrs stk dike task a).startDrain stk { e with attrs := some a }
        | none =>
          match (s.stack stk).cacheAttrs digest with
          | some a => (s.learnAttrs stk dike task a).startDrain stk { e with attrs := some a }
          | none => s.wantImage stk dike digest)

/-- No source has an image that the stack controller wants: every task of a dike in the stack that waits for it fails (R456). -/
def State.failWanted (s : State) (stk dike digest : Nat) : State :=
  let ents := (s.stack stk).ready ++ (s.polders.flatMap fun (x : Nat × Polder) => if stkOfPol x.1 = stk then x.2.respQ else [])
  (ents.filter fun e => e.dike == dike && e.attrs == none && !e.saved).foldl (fun s e =>
    let (d, s) := s.sysNum stk dike (s.tcbDigest stk dike e.task) 32
    if d ≠ digest then s
    else
      let s := s.polders.foldl (fun s (x : Nat × Polder) => if stkOfPol x.1 = stk then s.dropEntry stk x.1 e else s) s
      let s := s.modStack stk fun k => { k with ready := k.ready.erase e }
      let s := match s.keptOf dike e.task with
        | some (g, _) => (s.leaveRegion dike g).dropKept dike e.task
        | none => s
      s.endTask stk (stk * 256) dike e.task 6 0x08 false none) s

/-! ## Gang drains (R415) -/

/-- A slot is to be pre-empted (R425). -/
def State.preempt (s : State) (thr : Nat) : State :=
  if (s.thread thr).live then s.modThread thr fun t => { t with swap := true } else s

/-- Gives up a drain: its donors are free again. -/
def State.dropDrain (s : State) (pol : Nat) : State :=
  match (s.polder pol).drain with
  | none => s
  | some d =>
    ((donorsOf d.leader d.width).foldl (fun s c =>
      s.modCore c fun k => { k with gang := { k.gang with reserved := false } }) s).modPolder pol fun p => { p with drain := none }

/-- GANG_DRAIN_TIMEOUT (R415): 20 µs after a polder's drain began, what remains in the donors, and in the leader's guest slot, is
pre-empted. -/
def execGangDrainTimeout (pol : Nat) (s : State) : Answer :=
  .next (match (s.polder pol).drain with
    | none => s
    | some d =>
      if d.forced ∨ s.podTime (pol / 2 ^ 15) < d.start + 80000 then s
      else
        let thrs := (donorsOf d.leader d.width).flatMap fun c => (List.range 7).map fun i => c * 8 + i
        (thrs.foldl (fun s t => s.preempt t) (s.preempt (d.leader * 8 + 6))).modPolder pol fun p =>
          { p with drain := some { d with forced := true } })

/-- GANG_DRAIN_DONE (R415): every donor is empty, and the gang task starts in the lowest empty slot of the leader. (DESIGN CHOICE, log 77.) -/
def execGangDrainDone (pol : Nat) (s : State) : Answer :=
  let stk := stkOfPol pol
  .next (match (s.polder pol).drain with
    | none => s
    | some d =>
      match s.entryOf stk (s.polder pol).dike d.task with
      | none => s.dropDrain pol
      | some e =>
        let quiet : Bool := ((donorsOf d.leader d.width).all fun c => (List.range 7).all fun i => !(s.thread (c * 8 + i)).live)
          && !(s.thread (d.leader * 8 + 6)).live
        match s.entCancelled stk e with
        | (true, s) => ((s.dropEntry stk pol e).dropDrain pol).retire stk (pol / 32) e
        | (false, s) =>
          match (List.range 6).find? (fun i => s.takesWork (epOf d.leader i)), s.regionFor stk e.dike e.task with
          | some i, some g =>
            if !quiet ∨ (e.ordered ∧ s.farPinned stk fun _ l => stampOld e.release l) then s
            else
              let s := (s.dropEntry stk pol e).startTask (epOf d.leader i) e g
              if !(s.thread (d.leader * 8 + i)).live then s.dropDrain pol
              else s.modPolder pol fun p => { p with drain := none, gangs := p.gangs ++ [(d.task, d.leader, d.width)] }
          | _, _ => s)

/-! ## Job switches (R416) -/

/-- The 8,576 bytes that a job switch saves of a core (R14, R361, R416): tiles, poison bits, `c.mweight` and format context, then the tag
state with `c.xmask` and `c.sleep`. (DESIGN CHOICE, log 104.) -/
def Core.saveBytes (c : Core) : List Byte :=
  let tile (n : Nat) : Tile := c.acc.getD n { elem := [], poison := false }
  ((List.range 8).flatMap fun n => (List.range 256).flatMap fun i => leBytes 4 ((tile n).elem.getD i 0).toNat)
    ++ leBytes 1 (((List.range 8).map fun n => if (tile n).poison then 2 ^ n else 0).foldl (· + ·) 0) ++ leBytes 1 c.mweight.toNat
    ++ leBytes 1 c.ctx.afmt ++ leBytes 1 c.ctx.bfmt ++ leBytes 1 c.ctx.accfmt ++ leBytes 1 c.ctx.mode ++ List.replicate 58 0
    ++ ((List.range 16).flatMap fun i =>
      let e := c.ctx.table.getD i (0, 0, 0)
      leBytes 4 e.1 ++ leBytes 4 e.2.1 ++ leBytes 4 e.2.2)
    ++ leBytes 8 c.tg.toNat
    ++ leBytes 104 (((List.range 64).map fun t => min (c.tagCount.getD t 0) 8191 * 2 ^ (13 * t)).foldl (· + ·) 0)
    ++ leBytes 8 c.tagStop.toNat ++ leBytes 1 c.xmask.toNat ++ leBytes 1 c.hold2.toNat ++ leBytes 1 c.hold1.toNat
    ++ leBytes 1 c.depth.toNat ++ List.replicate 4 0

/-- A core with what a save area gives back. -/
def Core.fromBytes (c : Core) (bs : List Byte) : Core :=
  let tile (n : Nat) : Tile :=
    { elem := (List.range 256).foldl (fun (m : SMap (BitVec 32)) i => m.put 0 i (BitVec.ofNat 32 (leAt bs (1024 * n + 4 * i) 4))) [],
      poison := (leAt bs 8192 1).testBit n }
  let counts := leAt bs 8456 104
  { c with acc := (List.range 8).foldl (fun (m : SMap Tile) n => m.put { elem := [], poison := false } n (tile n)) [],
           ctx := { afmt := leAt bs 8194 1, bfmt := leAt bs 8195 1, accfmt := leAt bs 8196 1, mode := leAt bs 8197 1,
                    table := (List.range 16).map fun i =>
                      (leAt bs (8256 + 12 * i) 4, leAt bs (8260 + 12 * i) 4, leAt bs (8264 + 12 * i) 4) },
           mweight := BitVec.ofNat 4 (leAt bs 8193 1), tg := BitVec.ofNat 64 (leAt bs 8448 8),
           tagCount := (List.range 64).foldl (fun (m : SMap Nat) t => m.put 0 t (countOf counts t)) [],
           tagStop := BitVec.ofNat 64 (leAt bs 8560 8), xmask := BitVec.ofNat 8 (leAt bs 8568 1),
           hold2 := BitVec.ofNat 8 (leAt bs 8569 1), hold1 := BitVec.ofNat 8 (leAt bs 8570 1),
           depth := BitVec.ofNat 2 (leAt bs 8571 1) }

/-- A core as a job without saved state finds it: accumulators and format context as a reset leaves them, every tag ready. -/
def Core.fresh (c : Core) : Core :=
  let r := Core.reset
  { c with acc := r.acc, ctx := r.ctx, mweight := r.mweight, tg := r.tg, tagCount := r.tagCount, tagStop := r.tagStop,
           xmask := r.xmask, hold2 := r.hold2, hold1 := r.hold1, depth := r.depth, copies := [], putStops := [],
           gang := r.gang, up := 8, down := 8, chan := [], retry := false }

/-- Where a core's save area lies (R14). -/
def State.saveArea (s : State) (core : Nat) : Nat :=
  (s.stack (stkOfCore core)).dike (s.polder (core / 8)).dike 112 8 + 8576 * s.ordinal core

/-- Step 2: every job and guest thread of the polder is to be swapped out, and a drain is given up. -/
def State.beginSwitch (s : State) (pol : Nat) : State :=
  let s := (s.dropDrain pol).modPolder pol fun p => { p with stopped := true }
  ((List.range 8).flatMap fun c => (List.range 7).map fun i => pol * 64 + c * 8 + i).foldl (fun s t => s.preempt t) s

/-- Every thread has been swapped out and every matrix queue is empty (R416 steps 2 and 3). -/
def State.switchQuiet (s : State) (pol : Nat) : Bool :=
  (List.range 8).all fun c =>
    (s.core (pol * 8 + c)).mq == [] && (List.range 7).all fun i => !(s.thread (pol * 64 + c * 8 + i)).live

/-- Writes every context of the cache back. -/
def State.writeBackAll (s : State) (pol : Nat) : Nat → State
  | 0 => s
  | n + 1 => if (s.polder pol).tcache = [] then s else (s.writeBackOldest pol).writeBackAll pol n

/-- The copies of a polder's cores take a status (R387). -/
def State.copiesStatus (s : State) (pol status : Nat) : State :=
  (List.range 8).foldl (fun s c =>
    (s.core (pol * 8 + c)).copies.foldl (fun s r => s.copyPut (pol * 8 + c) r.idx 25 (leBytes 1 status)) s) s

/-- The outgoing job's state of a core goes to its save area, and what has no place there is kept (R361, R416). -/
def State.saveCore (s : State) (core : Nat) : State :=
  let dike := (s.polder (core / 8)).dike
  let s := s.freeSpill core
  let k := s.core core
  let x : SavedCore :=
    { area := s.saveArea core, copies := k.copies, putStops := k.putStops, gang := k.gang,
      gangs := (s.polder (core / 8)).gangs.filter fun g => g.2.1 == core }
  let s := s.sysPut (stkOfCore core) dike x.area k.saveBytes
  { s with jobs := s.jobs.insert (savedCoreKey dike core) x }

/-- Steps 3 to 5: the outgoing job's state is saved, and the polder is emptied. -/
def State.leaveJob (s : State) (pol : Nat) : State :=
  let stk := stkOfPol pol
  let s := s.copiesStatus pol 4
  let s := (List.range 8).foldl (fun s c => s.saveCore (pol * 8 + c)) s
  let s := s.writeBackAll pol 64
  let s := ((s.polder pol).code.map (·.1)).foldl (fun s slot => s.loseImage pol slot) s
  let q := (s.polder pol).respQ
  let now := s.podTime (stk / 4)
  let s := s.modStack stk fun k => { k with ready := k.ready ++ q.map fun e => { e with since := now } }
  s.modPolder pol fun p => { p with respQ := [], exch := [], gangs := [], turn := 0, budget := 0, dead := [] }

/-- A handler that the controller installs: an image that passes R153, pinned. -/
def State.installHandler (s : State) (pol : Nat) (transl : Bool) (bs : List Byte) : State :=
  let stk := stkOfPol pol
  let r := if transl then
      match checkNative (s.stack stk) (leAt bs 0 32) bs with
      | .ok im => if checkSig (s.stack stk) bs then some im else none
      | .error _ => none
    else match checkPortable (sha256 bs) bs with
      | .ok im => some im
      | .error _ => none
  match r with
  | some im =>
    if 4 ≤ ((s.polder pol).code.filter fun e => e.2.pinned).length then s
    else (s.install pol { im with pinned := true }).2
  | none => s

/-- A core takes back what a job left of it; what its save area holds is lost when the area cannot be read (R15, R416). -/
def State.restoreCore (s : State) (core dike : Nat) : State :=
  match s.jobs.find? (savedCoreKey dike core) with
  | none => s.modCore core fun c => c.fresh
  | some x =>
    let s := match s.sysRead (stkOfCore core) dike x.area 8576 with
      | (.ok bs, s) => s.modCore core fun c => c.fresh.fromBytes bs
      | (.error (c, a), s) => (s.sysFault (stkOfCore core) dike c a).modCore core fun c => c.fresh
    let s := s.modCore core fun c => { c with copies := x.copies, putStops := x.putStops, gang := x.gang }
    let s := s.modPolder (core / 8) fun p => { p with gangs := p.gangs ++ x.gangs }
    { s with jobs := s.jobs.erase (savedCoreKey dike core) }

/-- Steps 6 to 8: the polder belongs to the incoming dike, whose saved state and pinned handlers come back. -/
def State.enterJob (s : State) (pol dike : Nat) (handlers : List (Bool × List Byte)) : State :=
  let s := s.modPolder pol fun p => { p with dike := dike }
  let s := (List.range 8).foldl (fun s c => s.restoreCore (pol * 8 + c) dike) s
  let s := s.copiesStatus pol 1
  let s := handlers.foldl (fun s h => s.installHandler pol h.1 h.2) s
  let tvec := BitVec.ofNat 64 ((s.stack (stkOfPol pol)).dike dike 16 8)
  let s := (List.range 8).foldl (fun s c =>
    if (s.thread (pol * 64 + c * 8 + 7)).live then s.modThread (pol * 64 + c * 8 + 7) fun t => { t with tvec := tvec } else s) s
  s.modPolder pol fun p => { p with stopped := false }

/-- JOB_SWITCH (R416): the first time it stops dispatch and pre-empts; once the polder is quiet, the switch is made. The handlers are
the images that the stack controller pins for the job. (DESIGN CHOICE, log 78.) -/
def execJobSwitch (pol dike : Nat) (handlers : List (Bool × List Byte)) (s : State) : Answer :=
  .next (if !(s.polder pol).stopped then s.beginSwitch pol
    else if !s.switchQuiet pol then s
    else (if (s.polder pol).dike = 0 then s else s.leaveJob pol).enterJob pol dike handlers)

end Sys2Proof.Machine
end

