-- ==== Sys2Proof/Machine/HostPort.lean ====
section
/-! DEFINITION. Sys2Proof/Machine/HostPort.lean: the PCI Express port (chapter 02: translations, page requests, completions, host
invalidations), walkers (R27, R28, R31) and the invalidations of polders (R30). `hreqs` holds the Translation Requests, `hwaitq` the page
requests, sent or waiting for the allocation. -/

namespace Sys2Proof.Machine

/-! ## Page requests (R38, R39) -/

/-- The Page Request Group Index of a new request: the lowest that no outstanding request uses, and that no timed-out request used
whose response may still come. (DESIGN CHOICE, log 100.) -/
def Stack.freePrgi (k : Stack) : Option Nat :=
  (List.range 512).find? fun i => !(k.hwaitq.any fun h => h.sent && h.prgi == i) && !k.latePrgi.has i

/-- The outstanding page requests of a port. -/
def Stack.pagesOut (k : Stack) : Nat := (k.hwaitq.filter fun h => h.sent).length

/-- A page request is sent, and the engines that joined it stop there (R38, R46). -/
def State.sendPage (s : State) (stk i prgi : Nat) (h : HostReq) : State :=
  let now := s.podTime (stk / 4)
  let send (h : HostReq) : HostReq := { h with sent := true, paged := true, prgi := prgi, asked := now, engines := [] }
  let stops := h.engines.map fun x => { pasid := h.pasid, page := h.ua / 4096, who := x.1, prgi := some prgi : EngStop }
  (s.modStack stk fun k => { k with hwaitq := modNth i send k.hwaitq, efail := stops ++ k.efail }).emit
    (.pageRequest h.pasid h.ua true h.write prgi)

/-- Sends waiting page requests, oldest first, within the host's allocation and the port's capacity of 512 (R32, R38). -/
def State.pumpPages (s : State) (stk : Nat) : Nat → State
  | 0 => s
  | n + 1 =>
    let k := s.stack stk
    if min k.priAlloc 512 ≤ k.pagesOut then s
    else match k.hwaitq.zipIdx.find? fun e => !e.1.sent, k.freePrgi with
      | some (h, i), some g => (s.sendPage stk i g h).pumpPages stk n
      | _, _ => s

/-- Joined accesses end in `HOST_PAGE` (R36, R39, R40): each thread with its kind-1 record; engines stop at their next look. -/
def State.failHost (s : State) (stk : Nat) (h : HostReq) (code : Nat) : State :=
  let s := h.thrs.foldl (fun s x =>
    let t := s.thread x.1
    if !t.live then s
    else
      let r := faultRecord (s.podTime (stk / 4)) x.2.1 (h.ua / 4096 * 4096 + x.2.1 % 4096) (x.1 * 2) t.pc 1 0x12
        ((if h.write then 1 else 0) + (if h.paged then 2 else 0)) 0 h.prgi code t.efnSlot 0 0
      (s.modThread x.1 fun t => { t with xfault := some (hostKey h.ua, { cause := 0x12, addr := x.2.1 }) }).faultQueue stk h.dike r) s
  let stops := h.engines.map fun x => { pasid := h.pasid, page := h.ua / 4096, who := x.1, prgi := none : EngStop }
  s.modStack stk fun k => { k with efail := stops ++ k.efail }

/-- A page that is not present: a page request, or the end when PRI is stopped or four rounds have passed (R36, R39). -/
def State.pageAbsent (s : State) (stk : Nat) (h : HostReq) : State :=
  if (s.stack stk).priStopped ∨ 4 ≤ h.rounds then s.failHost stk h (if h.rounds = 0 then 0xFFFF else 0)
  else
    let h := { h with paging := true, sent := false, stopRec := [] }
    (s.modStack stk fun k => { k with hwaitq := k.hwaitq ++ [h] }).pumpPages stk 512

/-- The set of an ATC entry: its page number, in pages of its own size, modulo 512. (DESIGN CHOICE, log 75.) -/
def AtcEnt.set (e : AtcEnt) : Nat := e.ua / e.size % 512

/-- A new ATC entry of 4 KiB to 2 MiB: of the 8 entries of its set, the least recently used leaves (R35). -/
def atcAdd (l : List AtcEnt) (e : AtcEnt) : List AtcEnt :=
  let l := l.filter fun x => !(x.pasid == e.pasid && decide (x.ua < e.ua + e.size) && decide (e.ua < x.ua + x.size))
  let mine := l.filter fun x => x.set == e.set
  if mine.length < 8 then e :: l
  else match mine.getLast? with
    | some old => e :: l.erase old
    | none => e :: l

/-- The entry that a completion gives, at most 2 MiB (R35, R36). -/
def atcEntry (h : HostReq) (ta size : Nat) (r w n u : Bool) : AtcEnt :=
  let sz := max 4096 (min size (2 ^ 21))
  { pasid := h.pasid, ua := h.ua / sz * sz, size := sz, ta := ta / sz * sz, r := r, w := w, n := n, u := u }

/-- TRANSLATION_COMPLETION (R36, R44): request `i`; status 0 is Success. One that an invalidation has overtaken is discarded and asked
again. Where a write joined and only reading is granted, the reads proceed and the writes wait for the page. -/
def execTranslationCompletion (stk i status ta size : Nat) (r w n u : Bool) (s : State) : Answer :=
  .next (match (s.stack stk).hreqs[i]? with
    | none => s
    | some h =>
      let drop (s : State) : State := s.modStack stk fun k => { k with hreqs := k.hreqs.eraseIdx i }
      let put (s : State) : State := s.modStack stk fun k => { k with atc := atcAdd k.atc (atcEntry h ta size r w n u) }
      if h.stale then
        (s.modStack stk fun k => { k with hreqs := modNth i (fun h => { h with stale := false }) k.hreqs }).emit
          (.translationRequest h.pasid h.ua (!h.write))
      else if status ≠ 0 then (drop s).failHost stk h 0xFFFF
      else if (if h.write then w else r) then put (drop s)
      else if 1024 ≤ ((s.stack stk).hwaitq.filter fun h => !h.sent).length then s
      else if r then
        (put (drop s)).pageAbsent stk { h with thrs := h.thrs.filter fun x => x.2.2, engines := h.engines.filter fun x => x.2 }
      else (drop s).pageAbsent stk h)

/-- The kind-4 record of a response (R46, R452), when an engine's stop joined the request. -/
def State.answerEngine (s : State) (stk : Nat) (h : HostReq) (code : Nat) : State :=
  if h.stopRec = [] then s
  else
    let b := h.stopRec
    s.faultQueue stk h.dike (leBytes 8 (s.podTime (stk / 4)) ++ (b.drop 8).take 24 ++ leBytes 1 4 ++ leBytes 1 0x12
      ++ (b.drop 34).take 6 ++ leBytes 2 code ++ b.drop 42)

/-- The dikes that own a polder of a stack. -/
def State.dikesOf (s : State) (stk : Nat) : NSet :=
  s.polders.foldl (fun (l : NSet) (e : Nat × Polder) => if stkOfPol e.1 = stk ∧ e.2.dike ≠ 0 then l.add e.2.dike else l) []

/-- What a response code does to its request (R39): success asks for the translation again, 0xF stops PRI, anything else fails. -/
def State.pageAnswer (s : State) (stk i : Nat) (h : HostReq) (code : Nat) : State :=
  let s := (s.modStack stk fun k => { k with hwaitq := k.hwaitq.eraseIdx i }).answerEngine stk h code
  match code with
  | 0 =>
    let h := { h with paging := false, sent := true, rounds := h.rounds + 1, stopRec := [] }
    ((s.modStack stk fun k => { k with hreqs := k.hreqs ++ [h] }).emit (.translationRequest h.pasid h.ua (!h.write))).pumpPages stk 512
  | 0xF =>
    let rest := (s.stack stk).hwaitq
    let s := s.modStack stk fun k => { k with hwaitq := [], priStopped := true }
    let s := rest.foldl (fun s h => (s.answerEngine stk h 0xF).failHost stk h 0xF) (s.failHost stk h 0xF)
    (s.dikesOf stk).foldl (fun s d =>
      s.faultQueue stk d (faultRecord (s.podTime (stk / 4)) 0 0 0 0 5 0x12 0 0 0 0xF 0 0 0)) s
  | c => (s.failHost stk h c).pumpPages stk 512

/-- The outstanding page request of a PRGI, with its place. -/
def Stack.pageOf (k : Stack) (prgi : Nat) : Option (HostReq × Nat) := k.hwaitq.zipIdx.find? fun e => e.1.sent && e.1.prgi == prgi

/-- An engine that a page request stops has not stopped yet. -/
def Stack.stopping (k : Stack) (prgi : Nat) : Bool := k.efail.any fun e => e.prgi == some prgi && e.who != 0

/-- PRG_RESPONSE (R39, R46): the engines that stop at the page have stopped, and a Translation Request is free. A response that comes
after its request has timed out is discarded. (DESIGN CHOICE, log 82.) -/
def execPrgResponse (stk prgi code : Nat) (s : State) : Answer :=
  let k := s.stack stk
  .next (match k.pageOf prgi with
    | none => if k.latePrgi.has prgi then (s.modStack stk fun k => { k with latePrgi := k.latePrgi.del prgi }).pumpPages stk 512 else s
    | some (h, i) => if k.stopping prgi ∨ (code = 0 ∧ 256 ≤ k.hreqs.length) then s else s.pageAnswer stk i h code)

/-- PRG_RESPONSE_TIMEOUT (R39): one second without a response is an Invalid Request, recorded as 0x00FF (R48). -/
def execPrgResponseTimeout (stk prgi : Nat) (s : State) : Answer :=
  let k := s.stack stk
  .next (match k.pageOf prgi with
    | none => s
    | some (h, i) =>
      if s.podTime (stk / 4) < h.asked + 4000000000 ∨ k.stopping prgi then s
      else (s.modStack stk fun k => { k with latePrgi := k.latePrgi.add prgi }).pageAnswer stk i h 0xFF)

/-- PRI_STOPPED_CLEAR (R39). -/
def execPriStoppedClear (stk : Nat) (s : State) : Answer := .next (s.modStack stk fun k => { k with priStopped := false })

/-! ## Completions of reads (R41, R42) -/

/-- What a load still waits for from the host has arrived: it goes on. -/
def State.hostArrived (s : State) (stk thr seq : Nat) : State :=
  if (s.stack stk).hreads.any fun h => h.thr == thr && h.seq == seq then s
  else s.modLoad thr seq fun e => if e.phase = .host then { e with phase := .queued } else e

/-- The merging fill of a store's host line has arrived: once all have, the store goes on (R59, R69). -/
def State.storeArrived (s : State) (stk : Nat) (h : HostRd) (data : List Byte) (bad : Bool) : State :=
  let s := s.installHostLine stk ((h.piece - 2 ^ 60) * 64) data bad h.attr
  if (s.stack stk).hreads.any fun x => x.thr == h.thr && x.seq == h.seq then s
  else s.modStore (h.thr / 8) h.seq fun e => if e.phase = .filling then { e with phase := .sent } else e

/-- A completion for a load: the old value of an AtomicOp, a whole line, or a piece. -/
def State.hostLoad (s : State) (stk : Nat) (h : HostRd) (data : List Byte) (bad : Bool) : State :=
  match (s.thread h.thr).loadq.find? fun e => e.seq == h.seq with
  | none => if (s.core (h.thr / 8)).sb.any fun e => e.seq == h.seq && e.phase == .filling then s.storeArrived stk h data bad else s
  | some e =>
    match e.kind with
    | .amo _ _ _ _ => s.bind h.thr e data (if bad then [0] else []) .bound
    | _ =>
      let s := if 2 ^ 60 ≤ h.piece then s.installHostLine stk ((h.piece - 2 ^ 60) * 64) data bad h.attr
        else s.modLoad h.thr h.seq fun e => { e with got := e.got ++ [(h.piece, bad, data)] }
      s.hostArrived stk h.thr h.seq

/-- HOST_READ_COMPLETION (R41): answer to read `i` of a stack's port, with the bytes or in error; the port logs an error. (DESIGN
CHOICE, log 82.) -/
def execHostReadCompletion (stk i : Nat) (data : List Byte) (bad : Bool) (s : State) : Answer :=
  .next (match (s.stack stk).hreads[i]? with
    | none => s
    | some h =>
      let now := s.podTime (stk / 4)
      let s := s.modStack stk fun k =>
        { k with hreads := k.hreads.eraseIdx i, portLog := if bad then k.portLog ++ [(now, h.tag)] else k.portLog }
      if h.thr = noThread then s
      else if h.seq = 0 then s.modThread h.thr fun t => { t with hgot := t.hgot ++ [(h.piece, bad, data)] }
      else s.hostLoad stk h data bad)

/-! ## Host invalidations (R43, R44) -/

/-- The host addresses that an ATC entry reaches, and their number. -/
def AtcEnt.span (e : AtcEnt) : Nat × Nat := (if e.u then e.ua else e.ta, e.size)

/-- The far lines of a stack whose host address lies in a span. -/
def State.linesIn (s : State) (stk : Nat) (spans : List (Nat × Nat)) : List Nat :=
  (s.allFar stk).filter fun line => decide (2 ^ 60 ≤ line) && spans.any fun x =>
    decide (x.1 ≤ (line - 2 ^ 60) * 64) && decide ((line - 2 ^ 60) * 64 < x.1 + x.2)

/-- The oldest invalidation begins its drain: the epoch flips. -/
def State.flipHost (s : State) (stk : Nat) : State :=
  s.modStack stk fun k =>
    match k.hinvs with
    | [] => k
    | h :: rest => { k with hepoch := !k.hepoch, hinvs := { h with old := k.hepoch } :: rest }

/-- ATS_INVALIDATE_REQUEST (R43, R44): entries and far lines of the range go, requests in the range are asked again, and the
invalidation waits for its drain in arrival order. It waits for pinned lines (R76). -/
def execAtsInvalidateRequest (stk itag pasid ua size : Nat) (s : State) : Answer :=
  let k := s.stack stk
  let hit (e : AtcEnt) : Bool := e.pasid == pasid && decide (e.ua < ua + size) && decide (ua < e.ua + e.size)
  let spans := (k.atc.filter hit).map AtcEnt.span
  let lines := s.linesIn stk spans
  .next (if 32 ≤ k.hinvs.length ∨ (k.hinvs.any fun h => h.itag == itag) ∨ s.farPinned stk fun l _ => lines.contains l then s
    else
      let s := lines.foldl (fun s l => s.dropFar stk l) s
      let stale (h : HostReq) : HostReq :=
        if h.pasid = pasid ∧ h.ua < ua + size ∧ ua < h.ua + 4096 then { h with stale := true } else h
      let s := s.modStack stk fun k =>
        { k with atc := k.atc.filter fun e => !hit e, hreqs := k.hreqs.map stale,
                 hinvs := k.hinvs ++ [{ itag := itag, old := k.hepoch, spans := spans }] }
      if k.hinvs = [] then s.flipHost stk else s)

/-- Pieces in host memory. -/
def hostPieces (ps : List Piece) : Bool := ps.any fun p => match p.tgt with | .host _ _ _ => true | _ => false

/-- Host accesses of a stack under an old host epoch are left. (DEDUCED, log 83.) -/
def State.hostBusy (s : State) (stk : Nat) (old : Bool) : Bool :=
  (s.stack stk).hreads.any (fun h => h.epoch == old)
    || s.threads.any (fun (e : Nat × Thread) => e.1 / 2 ^ 19 == stk &&
        e.2.loadq.any fun l => l.hepoch == old && l.phase != .bound && l.phase != .arrived && hostPieces l.pieces)
    || s.cores.any fun (e : Nat × Core) => stkOfCore e.1 == stk &&
        (e.2.sb.any (fun x => x.hepoch == old && x.phase != .performed && hostPieces x.pieces)
          || e.2.mq.any fun m => m.cmd.operands.any fun o => hostPieces o.pieces)

/-- INVALIDATE_COMPLETION (R43): the oldest invalidation has drained, and the next begins. What accesses of the old epoch left in far
lines since is sent first, so that the completion follows every write to the old frames. -/
def execInvalidateCompletion (stk : Nat) (s : State) : Answer :=
  .next (match (s.stack stk).hinvs with
    | [] => s
    | h :: rest =>
      let lines := s.linesIn stk h.spans
      if s.hostBusy stk h.old ∨ s.farPinned stk fun l _ => lines.contains l then s
      else (((lines.foldl (fun s l => s.dropFar stk l) s).modStack stk fun k => { k with hinvs := rest }).flipHost stk).emit (.invalidateCompletion h.itag))

/-! ## Walkers (R27, R28, R31) -/

/-- WALKER_START (R27): a free walker takes the oldest waiting miss. -/
def execWalkerStart (stk : Nat) (s : State) : Answer :=
  .next (match (s.stack stk).walkq with
    | [] => s
    | w :: rest =>
      if 64 ≤ (s.stack stk).walks.length then s
      else s.modStack stk fun k => { k with walkq := rest, walks := k.walks ++ [{ w with started := true }] })

/-- WALK_COMPLETE (R27, R31): walk `i` ends: every joined thread is served from its result; after an invalidation it runs again. -/
def execWalkComplete (stk i : Nat) (s : State) : Answer :=
  .next (match (s.stack stk).walks[i]? with
    | none => s
    | some w =>
      if s.walkHeld stk w.dike (w.vpn * 2 ^ 16) then s
      else if w.redo then s.modStack stk fun k => { k with walks := modNth i (fun w => { w with redo := false }) k.walks }
      else
        let (r, s) := s.walkNow stk w.dike (w.vpn * 2 ^ 16)
        let s := s.modStack stk fun k => { k with walks := k.walks.eraseIdx i }
        let note (s : State) (cause : Nat) : State := w.thrs.foldl (fun s t =>
          s.modThread t fun t => { t with xfault := some (w.vpn, { cause := cause, addr := 0 }) }) s
        match r with
        | .leaf lf _ =>
          note (w.polders.foldl (fun s p =>
            if (s.polder p).dike = w.dike then s.tlbFill p w.dike (w.vpn * 2 ^ 16) lf else s) s) 0
        | .fault c _ => note s c)

/-! ## Invalidations at a polder (R30) -/

/-- POLDER_INVALIDATION (R30): the oldest invalidation of a polder starts: entries go and the epoch flips. -/
def execPolderInvalidation (pol : Nat) (s : State) : Answer :=
  .next (match (s.polder pol).invs with
    | [] => s
    | v :: rest =>
      if v.started then s
      else s.modPolder pol fun p =>
        { p with tlb := tlbDropRange p.tlb v.dike v.lo v.hi, epoch := !p.epoch,
                 invs := { v with started := true, old := p.epoch } :: rest })

/-- An access that used a translation: one through a window takes no part in an invalidation (R10). -/
def translated (ps : List Piece) : Bool :=
  ps.any fun p => match p.tgt with
    | .dev pa _ _ => region pa == .dram
    | .host _ _ _ => true
    | _ => false

/-- An instruction in progress holds translations of an epoch: a move to a guest slot that has begun or been asked for (R94, R95), or
the lanes of a scatter that have not entered (R313). -/
def Prog.holds (p : Prog) (old : Bool) : Bool :=
  match p with
  | .migrate (some _) _ e => e == old
  | .scatter rest e _ => e == old && translated (rest.map fun x => { lo := 0, len := 4, tgt := x.2.1 })
  | _ => false

/-- A load or an atomic has not drained: its value is not in its register, or the atomic has not performed. -/
def LoadEnt.undrained (l : LoadEnt) : Bool :=
  match l.kind with
  | .amo _ _ _ _ => l.phase != .bound && l.phase != .arrived
  | _ => true

/-- Accesses of a polder under an old epoch are left, packets of its puts in flight among them. -/
def State.polderBusy (s : State) (pol : Nat) (old : Bool) : Bool :=
  s.threads.any (fun (e : Nat × Thread) => e.1 / 64 == pol &&
      (e.2.loadq.any (fun l => l.epoch == old && l.undrained && translated l.pieces) || e.2.prog.holds old))
    || (s.cores.any fun (e : Nat × Core) => e.1 / 8 == pol &&
        (e.2.sb.any (fun x => x.epoch == old && x.phase != .performed && translated x.pieces)
          || e.2.mq.any fun m => m.epoch == old && m.cmd.operands.any fun o => translated o.pieces))
    || (s.stack (stkOfPol pol)).xfers.any fun x => polOf x.ep == pol && x.sent.any fun y => y.epoch == some old

/-- EPOCH_DRAINED (R30): the polder reports its oldest invalidation. -/
def execEpochDrained (pol : Nat) (s : State) : Answer :=
  .next (match (s.polder pol).invs with
    | [] => s
    | v :: rest =>
      if !v.started ∨ s.polderBusy pol v.old then s
      else
        let s := s.modPolder pol fun p => { p with invs := rest }
        let report (k : Stack) : Stack :=
          match k.tlbis.find? v.id with
          | some l => { k with tlbis := k.tlbis.insert v.id (l.erase pol) }
          | none => k
        { s with stackRecs := s.stackRecs.map fun (e : Nat × Stack) => (e.1, report e.2) })

end Sys2Proof.Machine
end

