-- ==== Sys2Proof/Machine/Device.lean ====
section
/-! DEFINITION. Sys2Proof/Machine/Device.lean: reset, wipe and life cycle (R184 to R187), management (R14, R33), power (R4), the
vertical channels (R171 to R175), sleep (R193, R194), the divider (R285), channel deadlock (R431), twin signatures (R434), and the
polder control block with its inbox (R423, R425, R427 to R429, R432). -/

namespace Sys2Proof.Machine

/-! ## Reset, wipe and training -/

/-- What a slice keeps of its channel through a wipe that no cold reset causes: lane swaps are permanent until one (R172). -/
def Slice.wiped (x : Slice) : Slice :=
  { Slice.reset with chan := { Channel.reset with swaps := x.chan.swaps, half := x.chan.half, failed := x.chan.failed } }

/-- A wipe begins (R184): every record of the stack's threads, cores, polders and slices is as at reset; fuses, life cycle, trust
list, model code and the key of the state stay, and without a cold reset the lanes and widths of its channels. What launches and jobs kept
there is gone. (DEDUCED, log 68.) -/
def State.beginWipe (s : State) (stk : Nat) (cold : Bool) : State :=
  let k := s.stack stk
  let k' : Stack := { Stack.reset with life := k.life, trust := k.trust, model := k.model, attestKey := k.attestKey,
                                       lifeLog := k.lifeLog, halfw := if cold then 0 else k.halfw,
                                       failedCh := if cold then 0 else k.failedCh }
  let keep (e : Nat × Slice) : Option (Nat × Slice) :=
    if stkOfSlice e.1 ≠ stk then some e else if cold then none else some (e.1, e.2.wiped)
  let fused (p : Polder) : Polder := { Polder.reset with bond0 := p.bond0, bond1 := p.bond1 }
  { s with
    threads := s.threads.filter fun (e : Nat × Thread) => e.1 / 2 ^ 19 != stk,
    cores := s.cores.filter fun (e : Nat × Core) => stkOfCore e.1 != stk,
    polders := s.polders.map fun (e : Nat × Polder) => if stkOfPol e.1 = stk then (e.1, fused e.2) else e,
    slices := s.slices.filterMap keep,
    stackRecs := s.stackRecs.insert stk k',
    launches := s.launches.filter fun (e : Nat × Launch) => e.2.stk != stk,
    members := s.members.filter fun (e : Nat × Nat) => match s.launches.find? e.2 with | some l => l.stk != stk | none => false,
    jobs := s.jobs.filter fun (e : Nat × SavedCore) => e.1 % 2 ^ 40 / 2 ^ 16 != stk }

/-- COLD_RESET (R184). -/
def execColdReset (stk : Nat) (s : State) : Answer := .next (s.beginWipe stk true)

/-- The memory of a stack that a test selects reads zero, holds no poison and is full. -/
def State.clearMem (s : State) (stk : Nat) (p : Region → Bool) : State :=
  let hit (pa : Nat) : Bool := stkOfPa pa == stk && p (region pa)
  { s with mem := s.mem.filter fun (e : Nat × Byte) => !hit e.1,
           poison := s.poison.filter fun a => !hit a, empties := s.empties.filter fun a => !hit a }

/-- SRAM_WIPE_DONE (R184, R186): stage-one service begins. -/
def execSramWipeDone (stk : Nat) (s : State) : Answer :=
  .next (if (s.stack stk).wiping ≠ 1 then s
    else (s.clearMem stk fun r => r != .dram).modStack stk fun k => { k with service := 1, wiping := 2 })

/-- DRAM_WIPE_DONE (R184). -/
def execDramWipeDone (stk : Nat) (s : State) : Answer :=
  .next (if (s.stack stk).wiping ≠ 2 then s
    else (s.clearMem stk fun r => r == .dram).modStack stk fun k => { k with wiping := 0 })

/-- A record of a channel's transfer log (R176); kinds 4 to 6 carry no address. -/
def State.logChannel (s : State) (sl addr kind agent sym attempts ep : Nat) : State :=
  let stk := stkOfSlice sl
  let r := errRecord (s.podTime (stk / 4)) addr kind agent sym attempts 0 (sl % 256) ep
  (s.modSlice sl fun x =>
    let (log, o) := ringAdd 64 x.chan.xferLog r
    { x with chan := { x.chan with xferLog := log, xferOvf := if o then x.chan.xferOvf + 1 else x.chan.xferOvf } }).logSignal stk kind

/-- A channel fails (R173); one that ran at half width no longer counts as such (R187). -/
def State.failChannel (s : State) (sl attempts : Nat) : State :=
  let c := (s.slice sl).chan
  if c.failed then s
  else
    ((s.modSlice sl fun x => { x with chan := { x.chan with failed := true } }).modStack (stkOfSlice sl) fun k =>
      { k with failedCh := k.failedCh + 1, halfw := if c.half.isSome then k.halfw - 1 else k.halfw }).logChannel sl 0 6 0 0 attempts 0

/-- TRAINING_COMPLETE (R186): full service; channels that failed training are failed. -/
def execTrainingComplete (stk : Nat) (failed : List Nat) (s : State) : Answer :=
  .next (if (s.stack stk).service ≠ 1 ∨ (s.stack stk).wiping ≠ 0 then s
    else (failed.foldl (fun s n => if n < 160 then s.failChannel (stk * 256 + n) 1 else s) s).modStack stk fun k =>
      { k with service := 2 })

/-- The stack status register (R187). -/
def Stack.statusWord (k : Stack) : Nat :=
  k.service % 4 + (if k.tfault then 2 ^ 8 else 0) + k.life % 8 * 2 ^ 16 + k.failedCh % 256 * 2 ^ 32 + k.halfw % 256 * 2 ^ 40

/-- The byte that a host read of BAR0 gives: status (R187), model (R5), queue records (R399), or what a register of no other rule keeps. -/
def Stack.bar0Read (k : Stack) (off : Nat) : Byte :=
  if 0x10 ≤ off ∧ off < 0x18 then BitVec.ofNat 8 (k.statusWord / 2 ^ (8 * (off - 0x10)))
  else if 0x18 ≤ off ∧ off < 0x1C then BitVec.ofNat 8 (k.model.toNat / 2 ^ (8 * (off - 0x18)))
  else if 0x100000 ≤ off ∧ off < 0x108000 then k.wq.getD (off - 0x100000) 0
  else BitVec.ofNat 8 (k.mgmt.getD (2 ^ 48 + off) 0)

/-- The life-cycle changes that a signed command may make (R185): 0 blank, 1 provisioned, 2 deployed, 3 returned. -/
def lifeChange (src dst : Nat) (service : Bool) : Bool :=
  (src == 0 && dst == 1) || (src == 1 && dst == 2) || (src == 2 && dst == 1) || ((src == 1 || src == 2) && dst == 3)
    || (src == 3 && dst == 0 && service)

/-- The keys of the stack's ports are destroyed (R89). -/
def State.dropLinkKeys (s : State) (stk : Nat) : State :=
  (portsOfStack stk).foldl (fun s i =>
    s.modPackage (stk / 4) fun p =>
      match p.ports.find? i with
      | some q => { p with ports := p.ports.insert i { q with txKeys := [], rxKeys := [] } }
      | none => p) s

/-- The MACsec keys of the Ethernet ports at the stack's sluices are destroyed (R80, R102, R185). -/
def State.dropEtherKeys (s : State) (stk : Nat) : State :=
  let mine (port : Nat) : Bool := (List.range 4).any fun e => sluiceTo stk e == .ethernet (port / 2 * 2)
  s.modPackage (stk / 4) fun p => { p with ether := p.ether.filter fun (e : Nat × Nat) => !mine e.1 }

/-- LIFE_CYCLE_COMMAND (R185): a change destroys the keys, begins a wipe and derives a new attestation key; what is not signed or
not allowed is refused and logged. (DESIGN CHOICE, log 88.) -/
def execLifeCycleCommand (stk dst : Nat) (signed service : Bool) (s : State) : Answer :=
  .next (if signed ∧ lifeChange (s.stack stk).life dst service then
      (((s.dropLinkKeys stk).dropEtherKeys stk).beginWipe stk false).modStack stk fun k => { k with life := dst, attestKey := Config.attestation stk dst }
    else s.modStack stk fun k => { k with lifeLog := k.lifeLog ++ [dst] })

/-! ## Power (R4) -/

/-- POWER_GOVERNOR_SAMPLE (R4): the shares of matrix and vector issue slots that the governor withholds until the next sample. It
changes timing only. (DESIGN CHOICE, log 49.) -/
def execPowerGovernorSample (stk : Nat) (s : State) : Answer :=
  .next (s.modStack stk fun k =>
    { k with gov := [(0, Config.governor (2 * s.fresh) stk), (1, Config.governor (2 * s.fresh + 1) stk)] })

/-! ## Management registers (R14, R33) -/

/-- Writes bytes at numbered places with what each place does. -/
def eachByte (f : Nat → Byte → State → State) (off : Nat) (bs : List Byte) (s : State) : State :=
  bs.zipIdx.foldl (fun s e => f (off + e.2) e.1 s) s

/-- A register that the spec gives no other effect keeps what is written (R33). -/
def keepByte (stk key : Nat) (b : Byte) (s : State) : State := s.modStack stk fun k => { k with mgmt := k.mgmt.put 0 key b.toNat }

/-- One byte of BAR0: queue records (R399), the read-only status and model registers (R5, R187), doorbells (R158), or a register of
no other rule. -/
def bar0Byte (stk off : Nat) (b : Byte) (s : State) : State :=
  if 0x100000 ≤ off ∧ off < 0x108000 then s.modStack stk fun k => { k with wq := k.wq.put 0 (off - 0x100000) b }
  else if 0x10 ≤ off ∧ off < 0x20 then s
  else if 0x200000 ≤ off ∧ off < 0x280000 then s
  else keepByte stk (2 ^ 48 + off) b s

/-- A byte of a dike record after a write (R14, R47): the fault queue's tail is read-only, its `ovf` is cleared by writing 1. -/
def dikeByte (o : Nat) (old new : Byte) : Byte :=
  if o = 42 ∨ o = 43 then old
  else if o = 47 then (new &&& 0xBF) ||| (old &&& 0x40 &&& ~~~new)
  else new

/-- One of three 64-bit registers gets a byte. -/
def regByte (x : BitVec 64) (i : Nat) (b : Byte) : BitVec 64 :=
  (x &&& ~~~(0xFF#64 <<< (8 * i))) ||| (b.setWidth 64 <<< (8 * i))

/-- A dike ends in a stack: its record is made not valid while no polder there is the dike's. The copies that job switches suspended
are dropped without completing, and their records are free (R430). (DESIGN CHOICE, log 112.) -/
def State.dikeEnds (s : State) (stk dike : Nat) : State :=
  if (s.dikePolders dike).any fun p => stkOfPol p == stk then s
  else
    let k := s.stack stk
    let mine (e : Nat × SavedCore) : Bool := e.1 / 2 ^ 40 == dike && stkOfCore (e.1 % 2 ^ 40) == stk
    let free (s : State) (e : Nat × SavedCore) : State :=
      let base := k.dike dike 104 8 + 2048 * ((e.2.area - k.dike dike 112 8) / 8576)
      e.2.copies.foldl (fun s r => (s.forgetEngine stk r.after).sysPut stk dike (base + 128 * r.idx + 25) (leBytes 1 0)) s
    let s := (s.jobs.filter mine).foldl free s
    { s with jobs := s.jobs.filter fun e => !mine e }

/-- One byte of control space above 0xF00_0000_0000: polder control blocks have rows of their own (R423), the channel table's
registers (R105), dike records (R14), whose flags [0] written with 1 let dispatch resume (R15), or a register of no other rule. -/
def controlByte (stk off : Nat) (b : Byte) (s : State) : State :=
  let x := off - 0xF0000000000
  if x < 0x20000000 then s
  else if x < 0x20000008 then s.modStack stk fun k => { k with tblBase := regByte k.tblBase (x - 0x20000000) b }
  else if x < 0x20000010 then s.modStack stk fun k => { k with bmpBase := regByte k.bmpBase (x - 0x20000008) b }
  else if x < 0x20000018 then s.modStack stk fun k =>
      let n := (regByte (BitVec.ofNat 64 k.chanCount) (x - 0x20000010) b).toNat
      { k with chanCount := n }
  else if 0xF4000000000 ≤ off ∧ off < 0xF4001000000 then
    let y := off - 0xF4000000000
    let s := if y % 256 ≠ 2 then s else if b.getLsbD 0 then s.jobStarts (y / 256) else s.dikeEnds stk (y / 256)
    s.modStack stk fun k =>
      { k with drec := k.drec.put 0 y (dikeByte (y % 256) (k.drec.getD y 0) b),
               dikeStopped := if y % 256 = 2 ∧ b.getLsbD 0 then k.dikeStopped.del (y / 256) else k.dikeStopped }
  else keepByte stk off b s

/-- MANAGEMENT_REGISTER_WRITE (R33). -/
def execManagementRegisterWrite (stk : Nat) (w : MgmtWrite) (s : State) : Answer :=
  .next (match w with
    | .bar0 off bs => eachByte (bar0Byte stk) off bs s
    | .control off bs => if 0xF0000000000 ≤ off ∧ off + bs.length ≤ 2 ^ 44 then eachByte (controlByte stk) off bs s else s
    | .trust l => s.modStack stk fun k =>
        { k with trust := (l.take 16).map fun e => { key := e.1 % 2 ^ 32, pub := e.2.1 % 2 ^ 512, revoked := e.2.2 } }
    | .codeCache digest tag transl bs => s.modStack stk fun k =>
        let c : CacheImg := { digest := digest, model := k.model.toNat, tag := tag, transl := transl, bytes := bs }
        { k with ccache := cacheInsert k.ccache c }
    | .scrub chan hours on =>
      if chan < 160 ∧ 1 ≤ hours ∧ hours ≤ 168 then
        s.modSlice (stk * 256 + chan) fun x => { x with chan := { x.chan with scrubHours := hours, scrubOn := on } }
      else s
    | .priAllocation n => (s.modStack stk fun k => { k with priAlloc := min n 512 }).pumpPages stk 512
    | .phase dike phase close =>
      let key := phaseKey dike (phase % 16)
      let s := if (s.levels.find? key).isSome then s
        else
          let j := s.level (jobKey dike)
          (s.setLevel (jobKey dike) { j with live := j.live + 1 }).setLevel key LevelSt.none
      if !close then s
      else if (s.level key).live = 0 then
        { s with levels := s.levels.erase key }.phaseDone dike
      else s.setLevel key { s.level key with closed := true }
    | .timeRoot on => s.modPackage (stk / 4) fun p => { p with root := on }
    | .macsec port key =>
      if port < 4 then s.modPackage (stk / 4) fun p => { p with ether := p.ether.insert port (key % 2 ^ 256) } else s)

/-- DIKE_RECORD_REVALIDATE (R15): flags [0] is written with 1, and dispatch to the dike resumes. -/
def execDikeRecordRevalidate (stk dike : Nat) (s : State) : Answer :=
  .next ((s.jobStarts dike).modStack stk fun k =>
    { k with drec := k.drec.put 0 (256 * dike + 2) (k.drec.getD (256 * dike + 2) 0 ||| 1), dikeStopped := k.dikeStopped.del dike })

/-! ## Vertical channels (R171 to R175) -/

/-- The lowest free spare lane. -/
def Channel.spare (c : Channel) : Option Nat :=
  (List.range 4).findSome? fun i => if c.swaps.any fun e => e.2 == 136 + i then none else some (136 + i)

/-- The half width that a channel moves to: false for lanes 0 to 63 with 128 to 131, true for the others; none when failing lanes
lie in both halves (R172). -/
def halfFor (lanes : List Nat) : Option Bool :=
  let upper (n : Nat) : Bool := decide (64 ≤ n ∧ n ≤ 127) || decide (132 ≤ n ∧ n ≤ 139)
  let lower (n : Nat) : Bool := decide (n ≤ 63) || decide (128 ≤ n ∧ n ≤ 131)
  if lanes.all upper then some false else if lanes.all lower then some true else none

/-- A lane reaches three consecutive failures: a spare replaces it, or the channel halves its width, or it fails (R172). -/
def State.swapLane (s : State) (sl lane attempts : Nat) : State :=
  let c := (s.slice sl).chan
  let hold (f : Channel → Channel) : State := s.modSlice sl fun x => { x with chan := { f x.chan with fails := [], holding := true } }
  match c.spare with
  | some spare => (hold fun c => { c with swaps := c.swaps.insert lane spare }).logChannel sl 0 4 0 lane attempts 0
  | none =>
    match halfFor (lane :: c.swaps.map (·.1)) with
    | some h =>
      let s := hold fun c => { c with half := some h, swaps := c.swaps.insert lane lane }
      let s := if c.half.isSome then s else s.modStack (stkOfSlice sl) fun k => { k with halfw := k.halfw + 1 }
      s.logChannel sl 0 5 0 lane attempts 0
    | none => s.failChannel sl attempts

/-- One failing attempt: the lane check names a lane, or the error is transient. -/
def State.laneFails (s : State) (sl attempt : Nat) : Option Nat → State
  | none => s
  | some lane =>
    let n := (s.slice sl).chan.fails.getD lane 0 + 1
    if (s.slice sl).chan.failed then s
    else if 3 ≤ n then s.swapLane sl lane attempt
    else s.modSlice sl fun x => { x with chan := { x.chan with fails := x.chan.fails.insert lane n } }

/-- A transfer of a line is uncorrectable (R172): what a read brought is poisoned, in the home line if it is held, else for the read that it
was for; a write has stored the pattern in its sector. -/
def State.transferLost (s : State) (pa : Nat) (write : Bool) : State :=
  let stk := stkOfPa pa
  if write then s.setPattern (granule pa) true
  else (List.range 2).foldl (fun s j =>
    let a := pa / 64 * 64 + 32 * j
    match s.homeLine? pa with
    | some l => s.setHomeLine pa (l.setBad a true)
    | none => s.modStack stk fun k => { k with upsets := k.upsets ++ [{ kind := .lost, addr := a, sel := 0, injected := false }] }) s

/-- VBUS_PARITY_FAILURE (R172): a transfer of a line of a channel fails parity, for an agent of R176; `fails` gives, for each of its
failing attempts, the lane that the lane check names. After a fourth failing attempt the transfer is uncorrectable; otherwise the next
attempt passes and resets every count. (DEDUCED, log 81.) -/
def execVbusParityFailure (x : Transfer) (fails : List (Option Nat)) (s : State) : Answer :=
  let pa := x.pa
  let sl := proxyDev (stkOfPa pa) pa
  .next (if fails = [] ∨ region pa ≠ .dram ∨ (s.slice sl).chan.failed then s
    else
      let s := (fails.take 4).zipIdx.foldl (fun s l => s.laneFails sl (l.2 + 1) l.1) s
      if (s.slice sl).chan.failed then (if x.write then s else s.transferLost pa false)
      else if fails.length < 4 then
        (s.passTransfer sl).logChannel sl (granule pa) 3 x.agent ((fails.getLast?.bind id).getD 0) (fails.length + 1) x.ep
      else s.transferLost pa x.write)

/-- LANE_SWAP_DONE (R172). -/
def execLaneSwapDone (sl : Nat) (s : State) : Answer :=
  .next (s.modSlice sl fun x => { x with chan := { x.chan with holding := false } })

/-- The physical address of sector `i` of a channel (R56). -/
def sectorAddr (sl i : Nat) : Nat := dramPa (stkOfSlice sl) ((i / 8 * 160 + sl % 256) * 256 + i % 8 * 32)

/-- PATROL_SCRUB (R175): the scrubber of a channel takes its next sector. -/
def execPatrolScrub (sl : Nat) (s : State) : Answer :=
  let c := (s.slice sl).chan
  .next (if !c.scrubOn ∨ c.failed ∨ c.holding ∨ (s.stack (stkOfSlice sl)).wiping ≠ 0 then s
    else
      let pa := sectorAddr sl c.scrubAt
      if region pa ≠ .dram then s.modSlice sl fun x => { x with chan := { x.chan with scrubAt := 0 } }
      else (s.scrubSector pa 0).modSlice sl fun x => { x with chan := { x.chan with scrubAt := x.chan.scrubAt + 1 } })

/-! ## Sleep (R193, R194) -/

/-- A slot leaves its cycles idle: empty, parked, held, halted or escalated (R189, R193). -/
def Thread.idles (t : Thread) : Bool := !t.live || t.wait != .no || t.held || t.halted || t.escal.isSome

/-- SLEEP_DEPTH_TIMER (R194): a core whose slots are all parked or empty gates its clock, or goes one depth further. -/
def execSleepDepthTimer (core : Nat) (s : State) : Answer :=
  let c := s.core core
  .next (match c.gated with
    | none =>
      if (List.range 8).all fun i => (s.thread (core * 8 + i)).idles then s.modCore core fun c => { c with gated := some 0 } else s
    | some d => if d < c.depth.toNat then s.modCore core fun c => { c with gated := some (d + 1) } else s)

/-- CORE_WAKE (R193): the wake latency has ended, and the core issues again. Which event woke it is not looked at: sleep changes
timing only. (DESIGN CHOICE, log 67.) -/
def execCoreWake (core : Nat) (s : State) : Answer := .next (s.modCore core fun c => { c with gated := none })

/-! ## The divider (R285) -/

/-- DIVIDER_COMPLETE (R285): the oldest division of a core fills its destination. -/
def execDividerComplete (core : Nat) (s : State) : Answer :=
  .next (match (s.core core).divq with
    | [] => s
    | e :: rest =>
      (s.modCore core fun c => { c with divq := rest }).modThread (core * 8 + e.slot) fun t =>
        { t.put (.s e.dst) (.s e.val) none with wait := .no })

/-! ## Twin signatures (R197, R434) -/

/-- TWIN_SIGNATURE_CHECK (R434): a mismatch, which only a fault makes, kills the pair. (DESIGN CHOICE, log 48.) -/
def execTwinSignatureCheck (ep : Nat) (mismatch : Bool) (s : State) : Answer :=
  let t := s.thread (thrOf ep)
  .next (if t.live ∧ t.twin ∧ mismatch then s.kill (thrOf ep) 0x11 else s)

/-! ## Channel deadlock (R214, R431) -/

/-- The core that a core's downstream channel leads to. -/
def State.downOf (s : State) (core : Nat) : Option Nat :=
  let d := (s.core core).down
  if d < 8 ∧ (s.core (core / 8 * 8 + d)).up = core % 8 then some (core / 8 * 8 + d) else none

/-- The mask of the cycle that a core lies on, or 0: each core has one channel out and one in. -/
def State.cycleFrom (s : State) (start : Nat) : Nat → Nat → Nat → Nat
  | 0, _, _ => 0
  | n + 1, core, mask =>
    match s.downOf core with
    | none => 0
    | some d => if d = start then mask else s.cycleFrom start n d (mask + 2 ^ (d % 8))

/-- The cycle sets of a polder. -/
def State.cycles (s : State) (pol : Nat) : List Nat :=
  (((List.range 8).map fun c => s.cycleFrom (pol * 8 + c) 8 (pol * 8 + c) (2 ^ c)).filter fun m => m != 0).eraseDups

/-- The job threads of a set. -/
def State.setThreads (s : State) (pol mask : Nat) : List Nat :=
  ((maskCores mask).flatMap fun c => (List.range 7).map fun i => pol * 64 + c * 8 + i).filter fun t => (s.thread t).live

/-- Every job thread of a set is parked on a channel, and there is one (R431). -/
def State.deadSet (s : State) (pol mask : Nat) : Bool :=
  let l := s.setThreads pol mask
  l != [] && l.all fun t => (s.thread t).wait == .qin || (s.thread t).wait == .qout

/-- CHANNEL_DEADLOCK_SAMPLE (R431): a set that is deadlocked for the 64th time in a row traps. -/
def execChannelDeadlockSample (pol : Nat) (s : State) : Answer :=
  let dead := (s.cycles pol).filter fun m => s.deadSet pol m
  let old := (s.polder pol).dead
  let count (m : Nat) : Nat := old.getD m 0 + 1
  let s := s.modPolder pol fun p =>
    { p with dead := (dead.filter fun m => decide (count m < 64)).foldl (fun (l : SMap Nat) m => l.insert m (count m)) [] }
  .next ((dead.filter fun m => decide (64 ≤ count m)).foldl (fun s m =>
    (s.setThreads pol m).foldl (fun s t => s.asSlot (t * 2) fun s => s.trap 0x0B m) s) s)

/-! ## The polder control block (R423) -/

/-- The register names a live thread of the polder in slots 0 to 6. -/
def State.named (s : State) (pol ep : Nat) : Bool :=
  polOf ep == pol && ep % 2 == 0 && slotNo ep != 7 && (s.thread (thrOf ep)).live

/-- POLDER_KILL_WRITE (R423, R432). -/
def execPolderKillWrite (pol ep cause : Nat) (s : State) : Answer :=
  .next (if s.named pol ep then s.kill (thrOf ep) (cause % 256) else s)

/-- POLDER_SWAP_WRITE (R423, R425). -/
def execPolderSwapWrite (pol ep : Nat) (s : State) : Answer :=
  .next (if s.named pol ep then s.preempt (thrOf ep) else s)

/-- POLDER_RESUME_WRITE (R423, R427): context `idx` of the cache goes into an empty slot, its own when it is held to it. -/
def execPolderResumeWrite (pol ep idx : Nat) (s : State) : Answer :=
  .next (match (s.polder pol).tcache[idx]? with
    | none => s
    | some x =>
      let place : Bool := if s.tied x then x.ep == ep else decide (slotNo ep < 6)
      if polOf ep ≠ pol ∨ ep % 2 ≠ 0 ∨ !place ∨ !s.takesWork ep then s
      else
        let mine (e : ReadyEnt) : Bool := e.saved && e.dike == x.dike && e.task == x.thr.task.toNat
        let s := s.modStack (stkOfPol pol) fun k => { k with ready := k.ready.filter fun e => !mine e }
        (s.modPolder pol fun p => { p with tcache := p.tcache.erase x }).resumeAt ep x)

/-! ## The inbox (R428, R429) -/

/-- The context that an endpoint's thread left, with a register that a fill is owed to. -/
def savedFor (f : Fill) (x : Saved) : Bool := x.ep == f.ep && x.thr.awaits f

/-- A fill of the inbox reaches a register (R429): in its slot, deferred to the end of a handler run, in a context, or nowhere. -/
def State.deliverFill (s : State) (f : Fill) : State :=
  let thr := thrOf f.ep
  let t := s.thread thr
  let stk := stkOf f.ep
  if t.live ∧ t.awaits f then
    if t.level = 0 ∧ t.escal = none then (s.fillOrder stk f).modThread thr fun t => t.fill f
    else s.modThread thr fun t => { t with deferred := t.deferred ++ [f] }
  else
    let put (l : List Saved) : List Saved := l.map fun x => if savedFor f x then { x with thr := x.thr.fill f } else x
    if (s.polder (polOf f.ep)).tcache.any (savedFor f) then
      (s.fillOrder stk f).modPolder (polOf f.ep) fun p => { p with tcache := put p.tcache }
    else if (s.stack stk).saved.any (savedFor f) then (s.fillOrder stk f).modStack stk fun k => { k with saved := put k.saved }
    else s.undeliver (polOf f.ep)

/-- The oldest entry of a polder leaves its inbox, or the overflow ring when the inbox is empty. (DEDUCED, log 43.) -/
def State.popInbox (s : State) (pol : Nat) : Option (InboxEnt × State) :=
  match (s.polder pol).inbox with
  | e :: rest => some (e, s.modPolder pol fun p => { p with inbox := rest })
  | [] =>
    match (s.stack (stkOfPol pol)).ovf.find? fun x => x.1 == pol with
    | some x => some (x.2, s.modStack (stkOfPol pol) fun k => { k with ovf := k.ovf.erase x })
    | none => none

/-- A fill that waits for a pinned far line stays in the inbox (R76, R119). -/
def State.popPinned (s : State) (pol : Nat) (e : InboxEnt) : Bool :=
  e.cross && s.farPinned (stkOfPol pol) fun _ l => stampOld e.sent l

/-- INBOX_POP (R423, R429): the oldest entry is popped; a fill is delivered or counted, every other kind is system software's. -/
def execInboxPop (pol : Nat) (s : State) : Answer :=
  .next (match s.popInbox pol with
    | none => s
    | some (e, t) =>
      if (e.kind = 1 ∨ e.kind = 2) ∧ s.popPinned pol e then s
      else (if e.kind = 1 ∨ e.kind = 2 then t.deliverFill e.fill else t).drainPend pol 16)

/-- INBOX_ENTRY_ARRIVAL (R428): the oldest entry on its way enters. -/
def execInboxEntryArrival (pol : Nat) (s : State) : Answer :=
  .next (match (s.polder pol).arriving with
    | [] => s
    | e :: rest => ((s.modPolder pol fun p => { p with arriving := rest }).inboxPush pol e).2)

/-- PENDING_INBOX_WRITE (R428). -/
def execPendingInboxWrite (pol : Nat) (s : State) : Answer := .next (s.drainPend pol 16)

end Sys2Proof.Machine
end

