-- ==== Sys2Proof/Machine/Jobs.lean ====
section
/-! DEFINITION. Sys2Proof/Machine/Jobs.lean: work queues (R399, R400), launches (R401, R402, R412) and completions (R403). -/

namespace Sys2Proof.Machine

/-! ## Appends (R33, R400) -/

/-- A ring size of a queue record, or none when it acts as a disabled queue (R399). -/
def ringSize (n : Nat) : Option Nat := if 6 ≤ n ∧ n ≤ 16 then some (2 ^ n) else none

/-- The launch ring of an enabled queue: its size. -/
def Stack.launchRing (k : Stack) (q : Nat) : Option Nat := if k.queue q 9 1 % 2 = 1 then ringSize (k.queue q 8 1) else none

/-- HOST_APPEND (R400): completions 0 success, 1 unsupported request, 2 retry, 4 abort. -/
def execHostAppend (stk q off : Nat) (data : List Byte) (s : State) : Answer :=
  let k := s.stack stk
  .next (if off ≠ 0 ∨ data.length ≠ 64 ∨ 1024 ≤ q then s.emit (.completion 1)
    else match k.launchRing q with
      | none => s.emit (.completion 4)
      | some size =>
        let tail := k.queue q 14 2
        if (tail + 1) % size = k.queue q 12 2 then s.emit (.completion 2)
        else
          let s := s.writeRun stk (k.queue q 0 8 + 64 * tail) data true true 0
          (s.modStack stk fun k => k.setQueue q 14 (leBytes 2 ((tail + 1) % size))).emit (.completion 0))

/-- BAR2_PLAIN_WRITE (R33): nothing is written. -/
def execBar2PlainWrite (_stk : Nat) (s : State) : Answer := .next (s.emit (.completion 1))

/-! ## Launches (R401, R402) -/

/-- The fields of a launch record. -/
structure LaunchRec where
  digest : Nat
  arg : Nat
  first : Nat
  count : Nat
  ltag : Nat
  graph : Nat
  phase : Nat
  prio : Nat
  closes : Bool
  vector : Nat
  signal : Bool
  record : Bool
  minc : Nat
  p : Nat
  ok : Bool
  deriving DecidableEq, Repr

/-- The record in 64 bytes, and whether it is accepted. -/
def launchRec (bs : List Byte) : LaunchRec :=
  let lv := leAt bs 48 8
  let fl := leAt bs 56 8
  { digest := leAt bs 0 32, arg := leAt bs 32 8, first := leAt bs 40 4, count := leAt bs 44 4, ltag := lv % 2 ^ 16,
    graph := lv / 2 ^ 16 % 2 ^ 8, phase := lv / 2 ^ 24 % 2 ^ 4, prio := lv / 2 ^ 32 % 8, closes := lv.testBit 35,
    vector := fl % 2 ^ 11, signal := fl.testBit 11, record := fl.testBit 12, minc := max 1 (fl / 2 ^ 16 % 2 ^ 8),
    p := fl / 2 ^ 24 % 2 ^ 8,
    ok := leAt bs 0 32 != 0 && lv / 2 ^ 28 % 2 ^ 4 == 0 && lv / 2 ^ 36 == 0 && fl / 2 ^ 13 % 8 == 0 && fl / 2 ^ 32 == 0 }

/-- The cores of a dike in a stack (R412). -/
def State.dikeCores (s : State) (stk dike : Nat) : Nat :=
  (((s.dikePolders dike).filter fun p => stkOfPol p == stk).map fun p =>
    ((List.range 8).filter fun c => s.mapped (p * 8 + c)).length).foldl (· + ·) 0

/-- A new launch stands in its graph, the graph in its phase, the phase in its job (R216). -/
def State.openLevels (s : State) (dike phase graph : Nat) (closes : Bool) : State :=
  let g := graphKey dike phase graph
  let p := phaseKey dike phase
  let newG := (s.levels.find? g).isNone
  let newP := (s.levels.find? p).isNone
  let gl := s.level g
  let pl := s.level p
  let jl := s.level (jobKey dike)
  let s := s.setLevel g { gl with live := gl.live + 1, closed := gl.closed || closes }
  let s := if newG then s.setLevel p { pl with live := pl.live + 1 } else s
  if newP then s.setLevel (jobKey dike) { jl with live := jl.live + 1 } else s

/-- The root task of a launch. -/
def State.rootTask (s : State) (stk dike : Nat) (r : LaunchRec) (h obj : Nat) : State :=
  let init : TcbInit :=
    { imp := 0xFFFF, prio := r.prio, status := 2, counter := 0, regs := [r.arg, obj, r.ltag, 0, 0], ltag := r.ltag, graph := r.graph,
      phase := r.phase, responder := false, ranged := r.count != 0, digest := r.digest }
  let s := s.tcbWrite stk dike h init
  if s.cancelledAt dike (s.launchOf dike h) r.graph r.phase 1 then s.endTask stk (stk * 256) dike h 7 0 false none
  else s.makeReady stk dike h (s.podTime (stk / 4)) none false

/-- An accepted record becomes a launch; none when a range object or a TCB is wanting, so that the record stays at the head. -/
def State.acceptLaunch (s : State) (stk q dike : Nat) (r : LaunchRec) : Option State :=
  match s.tcbFree stk dike with
  | (none, _) => none
  | (some h, s) =>
    let l : Launch :=
      { stk := stk, dike := dike, queue := q, ltag := r.ltag, graph := r.graph, phase := r.phase, closes := r.closes, live := 1,
        run := 0, failed := 0, fault := 0, vector := r.vector, signal := r.signal, record := r.record,
        arg := BitVec.ofNat 64 r.arg, digest := r.digest, cancelled := false }
    let start (s : State) (obj : Nat) : State :=
      let s := s.openLevels dike r.phase r.graph r.closes
      let lid := s.seq + 1
      { s with seq := lid, launches := s.launches.insert lid l, members := s.members.insert (memberKey dike h) lid,
               ended := s.ended.del (memberKey dike h) }.rootTask stk dike r h obj
    if r.count = 0 then some (start s 0)
    else match s.freeRangeObj stk dike with
      | none => none
      | some i =>
        let p := if r.p = 0 then 6 * s.dikeCores stk dike else r.p
        let (obj, s) := s.putRange stk dike i (rangeBytes r.first (r.first + r.count) r.minc p)
        some (start s obj)

/-- A refused record: the queue's error flag and a completion with status 2. -/
def State.refuseLaunch (s : State) (stk q : Nat) (r : LaunchRec) : State :=
  let c : Comp :=
    { queue := q, time := s.podTime (stk / 4), ltag := r.ltag, status := 2, fault := 0, failed := 0, run := 0, record := true,
      signal := r.signal, vector := r.vector }
  s.modStack stk fun k =>
    { k.setQueue q 9 (leBytes 1 (k.queue q 9 1 / 4 * 4 + 2 + k.queue q 9 1 % 2)) with comps := k.comps ++ [c] }

/-- LAUNCH_RECORD_READ (R401, R402): the next record of a queue. It waits for service (R186), for its dike's record (R14, R15), for a
range object and for a TCB. -/
def execLaunchRecordRead (stk q : Nat) (s : State) : Answer :=
  let k := s.stack stk
  let dike := k.queue q 10 2
  let head := k.queue q 12 2
  .next (match k.launchRing q with
    | none => s
    | some size =>
      if head = k.queue q 14 2 ∨ k.service = 0 ∨ !k.dikeValid dike ∨ k.dikeStopped.has dike then s
      else
        let (g, s) := s.readRun stk none (k.queue q 0 8 + 64 * head) 64 true true 3 0
        let r := launchRec g.data
        let next (s : State) : State := s.modStack stk fun k => k.setQueue q 12 (leBytes 2 ((head + 1) % size))
        if !r.ok then next (s.refuseLaunch stk q r)
        else if k.service ≠ 2 ∧ k.dike dike 8 8 ≠ 0 then s
        else match s.acceptLaunch stk q dike r with
          | some s => next s
          | none => s)

/-! ## Completions (R403) -/

/-- A completion record. -/
def Comp.bytes (c : Comp) : List Byte :=
  leBytes 8 c.time ++ leBytes 2 c.ltag ++ leBytes 1 c.status ++ leBytes 1 c.fault ++ leBytes 4 c.failed ++ leBytes 4 c.run
    ++ List.replicate 12 0

/-- COMPLETION_RECORD_WRITE (R403): the oldest completion of a queue; a full ring holds it back. -/
def execCompletionRecordWrite (stk q : Nat) (s : State) : Answer :=
  let k := s.stack stk
  .next (match k.comps.find? fun c => c.queue == q with
    | none => s
    | some c =>
      let done (s : State) : State :=
        let s := s.modStack stk fun k => { k with comps := k.comps.erase c }
        if c.signal then s.emit (.msix stk c.vector) else s
      if !c.record then done s
      else match ringSize (k.queue q 24 1) with
        | none => s
        | some size =>
          let tail := k.queue q 28 2
          if (tail + 1) % size = k.queue q 30 2 then s
          else
            let s := s.writeRun stk (k.queue q 16 8 + 32 * tail) c.bytes true true 0
            done (s.modStack stk fun k => k.setQueue q 28 (leBytes 2 ((tail + 1) % size))))

end Sys2Proof.Machine
end

