-- ==== Sys2Proof/Machine/Gcm.lean ====
section
/-! DEFINITION. Sys2Proof/Machine/Gcm.lean: AES-256-GCM (FIPS 197, SP 800-38D), which protects the runs of an Enrik link (R86). -/

namespace Sys2Proof.Machine

/-! ## AES-256 -/

/-- The product in the field of 256 elements, over the low `n` bits of `b`. -/
def gfByte : Nat → Nat → Nat → Nat
  | 0, _, _ => 0
  | n + 1, a, b =>
    Nat.xor (if b % 2 = 1 then a else 0) (gfByte n (if a < 128 then 2 * a else Nat.xor (2 * a) 0x11B) (b / 2))

/-- The 254th power, which is the inverse. -/
def gfInv (a : Nat) : Nat :=
  let m := gfByte 8
  let a2 := m a a
  let a4 := m a2 a2
  let a8 := m a4 a4
  let a16 := m a8 a8
  let a32 := m a16 a16
  let a64 := m a32 a32
  m (m (m a2 a4) (m a8 a16)) (m (m a32 a64) (m a64 a64))

/-- The S-box. -/
def aesSbox (a : Nat) : Nat :=
  let b := gfInv a
  let rot (k : Nat) : Nat := b * 2 ^ k % 256 + b * 2 ^ k / 256
  Nat.xor (Nat.xor (Nat.xor b (rot 1)) (Nat.xor (rot 2) (rot 3))) (Nat.xor (rot 4) 0x63)

/-- Bytewise exclusive or. -/
def xorBytes (a b : List Nat) : List Nat := List.zipWith Nat.xor a b

/-- The words of the key schedule, four bytes each, the latest first, after `n` more words. -/
def aesKeys : Nat → List (List Nat) → List (List Nat)
  | 0, ws => ws
  | n + 1, ws =>
    let i := ws.length
    let t := ws.headD []
    let t := if i % 8 = 0 then xorBytes ((t.drop 1 ++ t.take 1).map aesSbox) [2 ^ (i / 8 - 1), 0, 0, 0]
      else if i % 8 = 4 then t.map aesSbox else t
    aesKeys n (xorBytes (ws.getD 7 []) t :: ws)

/-- The fifteen round keys of a 32-byte key. -/
def aesRounds (key : List Nat) : List (List Nat) :=
  let ws := (aesKeys 52 (((List.range 8).map fun i => (key.drop (4 * i)).take 4).reverse)).reverse
  (List.range 15).map fun r => ((ws.drop (4 * r)).take 4).flatten

/-- SubBytes and ShiftRows. -/
def aesShift (b : List Nat) : List Nat := (List.range 16).map fun i => aesSbox (b.getD ((i + 4 * (i % 4)) % 16) 0)

/-- MixColumns. -/
def aesMix (b : List Nat) : List Nat :=
  (List.range 16).map fun i =>
    let x (k : Nat) : Nat := b.getD (i / 4 * 4 + (i + k) % 4) 0
    Nat.xor (Nat.xor (gfByte 8 (x 0) 2) (gfByte 8 (x 1) 3)) (Nat.xor (x 2) (x 3))

/-- A block under round keys. -/
def aesBlock : List (List Nat) → List Nat → List Nat
  | [], b => b
  | [k], b => xorBytes (aesShift b) k
  | k :: ks, b => aesBlock ks (xorBytes (aesMix (aesShift b)) k)

/-- AES-256 of a block of 16 bytes. -/
def aes256 (rounds : List (List Nat)) (b : List Nat) : List Nat :=
  aesBlock (rounds.drop 1) (xorBytes b (rounds.headD []))

/-! ## GCM -/

/-- The product in the field of 2^128 elements over the top `n` bits of `x` that are left, with the accumulator `z`. -/
def gfMul : Nat → Nat → Nat → Nat → Nat
  | 0, _, _, z => z
  | n + 1, x, v, z =>
    gfMul n x (if v % 2 = 1 then Nat.xor (v / 2) (0xE1 * 2 ^ 120) else v / 2) (if x.testBit n then Nat.xor z v else z)

/-- A big-endian number of bytes. -/
def beOf (bs : List Nat) : Nat := bs.foldl (fun a b => a * 256 + b) 0

/-- The `n` bytes of a number, the first most significant. -/
def beBytes (n x : Nat) : List Nat := (List.range n).map fun i => x / 256 ^ (n - 1 - i) % 256

/-- The hash of bytes that fill whole blocks. -/
def ghash (h : Nat) (bs : List Nat) : Nat :=
  (List.range (bs.length / 16)).foldl (fun y i => gfMul 128 (Nat.xor y (beOf ((bs.drop (16 * i)).take 16))) h 0) 0

/-- Zero bytes up to a whole block. -/
def padBlock (bs : List Nat) : List Nat := bs ++ List.replicate ((16 - bs.length % 16) % 16) 0

/-- The bytes of `bs` under the key stream from block `first` on; the first block of text is block 2. -/
def gcmStream (key iv : List Nat) (first : Nat) (bs : List Nat) : List Nat :=
  let r := aesRounds key
  (List.range ((bs.length + 15) / 16)).flatMap fun i =>
    xorBytes ((bs.drop (16 * i)).take 16) (aes256 r (iv ++ beBytes 4 (first + i)))

/-- The tag of ciphertext and additional data, 16 bytes. -/
def gcmTag (key iv aad ct : List Nat) : List Nat :=
  let r := aesRounds key
  let h := beOf (aes256 r (List.replicate 16 0))
  xorBytes (beBytes 16 (ghash h (padBlock aad ++ padBlock ct ++ beBytes 8 (8 * aad.length) ++ beBytes 8 (8 * ct.length))))
    (aes256 r (iv ++ [0, 0, 0, 1]))

end Sys2Proof.Machine
end

