-- ==== Sys2Proof/Machine/Link.lean ====
section
/-! DEFINITION. Sys2Proof/Machine/Link.lean: Enrik links (R84 to R89), ring buffers (R83), sluices and routers at work (R77 to R82) and pod
time (R90). -/

namespace Sys2Proof.Machine

/-- The link identifier of a sending port (R86). -/
def linkId (pkg port : Nat) : Nat := pkg * 8 + port

/-! ## Flits (R84) -/

/-- The fields of a flit's header. -/
structure FlitHead where
  kind : Nat
  kidx : Nat
  pos : Nat
  seq : Nat
  aseq : Nat
  av : Bool
  start : Nat
  zero : Nat
  deriving DecidableEq, Repr

/-- The header's 64 bits. -/
def FlitHead.bits (h : FlitHead) : Nat :=
  h.kind * 2 ^ 60 + h.kidx * 2 ^ 59 + h.pos * 2 ^ 55 + h.seq * 2 ^ 43 + h.aseq * 2 ^ 31 + (if h.av then 2 ^ 30 else 0)
    + h.start * 2 ^ 23 + h.zero

/-- The fields that 64 bits hold. -/
def flitHead (x : Nat) : FlitHead :=
  { kind := x / 2 ^ 60 % 16, kidx := x / 2 ^ 59 % 2, pos := x / 2 ^ 55 % 16, seq := x / 2 ^ 43 % 4096, aseq := x / 2 ^ 31 % 4096,
    av := x.testBit 30, start := x / 2 ^ 23 % 128, zero := x % 2 ^ 23 }

/-- A flit's 128 bytes. -/
def Flit.bytes (f : Flit) : List Byte :=
  let bs := leBytes 8 f.header ++ f.payload
  bs ++ leBytes 8 (crc64 bs)

/-- A received flit passes its checks. -/
def flitOk (bs : List Byte) : Bool :=
  let h := flitHead (leNat (bs.take 8))
  bs.length == 128 && leNat (bs.drop 120) == crc64 (bs.take 120) && decide (h.kind ≤ 5) && h.zero == 0
    && (decide (h.start < 112) || h.start == 127)

/-- An unnumbered flit that acknowledges everything before `n`: kind 4, or kind 5, which asks for `n`. -/
def controlFlit (kind n : Nat) : Flit :=
  { header := FlitHead.bits { kind := kind, kidx := 0, pos := 0, seq := 0, aseq := n, av := true, start := 127, zero := 0 },
    payload := List.replicate 112 0 }

/-! ## Sending (R85, R86, R89) -/

/-- The key, the initialisation vector and the additional data of a run. -/
def runKey (key : Nat) : List Nat := (leBytes 32 key).map (·.toNat)
/-- DESIGN CHOICE, log 30. -/
def runIv (link count : Nat) : List Nat := (leBytes 4 link ++ leBytes 8 count).map (·.toNat)
def runAad (run : List Flit) : List Nat := run.flatMap fun f => (leBytes 8 f.header).map (·.toNat)

/-- Bytes as numbers below 256 and back. -/
def toNats (bs : List Byte) : List Nat := bs.map (·.toNat)
def ofNats (bs : List Nat) : List Byte := bs.map (BitVec.ofNat 8)

/-- At a run boundary the sender goes over to a key that has been installed. -/
def Port.boundary (p : Port) : Port :=
  match p.pending with
  | some i => if p.pos = 0 then { p with kidx := i, runCount := 0, pending := none, stuck := false } else p
  | none => p

/-- A numbered flit may leave. -/
def Port.open? (p : Port) : Option Nat :=
  if p.state = .up ∧ p.replay.length < 512 ∧ p.runCount < 2 ^ 40 then p.txKeys.find? p.kidx else none

/-- A numbered flit leaves: it joins the replay buffer and its run. (DESIGN CHOICE, log 31.) -/
def Port.emit (p : Port) (now kind start : Nat) (payload : List Byte) : Port × List Flit :=
  let h : FlitHead := { kind := kind, kidx := p.kidx, pos := if kind = 3 then 0 else p.pos, seq := p.nextSeq, aseq := p.verified,
                        av := true, start := start, zero := 0 }
  let f : Flit := { header := h.bits, payload := payload }
  ({ p with replay := p.replay ++ [f], nextSeq := (p.nextSeq + 1) % 4096,
            txRun := if kind = 3 then [] else p.txRun ++ [f],
            pos := if kind = 3 then 0 else p.pos + 1,
            runCount := if kind = 3 then p.runCount + 1 else p.runCount,
            progress := if p.replay = [] then now else p.progress }, [f])

/-- The trailer of a full run. -/
def Port.trailer (p : Port) (link now key : Nat) : Port × List Flit :=
  let ct := p.txRun.flatMap fun f => toNats f.payload
  let tag := gcmTag (runKey key) (runIv link p.runCount) (runAad p.txRun) ct
  p.emit now 3 127 (ofNats tag ++ leBytes 8 p.runCount ++ List.replicate 88 0)

/-- A data flit of the first 112 bytes that wait, filled with zeros, or a pad flit when none wait. -/
def Port.fillFlit (p : Port) (link now key : Nat) : Port × List Flit :=
  let q := p.queue.take 112
  let bs := q.map (·.2) ++ List.replicate (112 - q.length) 0
  let ct := gcmStream (runKey key) (runIv link p.runCount) (2 + 7 * p.pos) (toNats bs)
  let start := ((List.range q.length).find? fun i => (q.getD i (false, 0)).1).getD 127
  let fed := if q = [] then p.fed else now
  Port.emit { p with queue := p.queue.drop 112, fed := fed } now (if q = [] then 2 else 1) start (ofNats ct)

/-- The port sends while it may, `n` flits at most: full data flits, and with `pad` what ends the run. -/
def Port.pump (link now : Nat) (pad : Bool) : Nat → Port → Port × List Flit
  | 0, p => (p, [])
  | n + 1, p =>
    let p := p.boundary
    match p.open? with
    | none => (p, [])
    | some key =>
      if p.pos = 16 then
        let (p, a) := p.trailer link now key
        let (p, b) := p.pump link now pad n
        (p, a ++ b)
      else if 112 ≤ p.queue.length ∨ (pad ∧ (p.pos ≠ 0 ∨ p.queue ≠ [])) then
        let (p, a) := p.fillFlit link now key
        let (p, b) := p.pump link now pad n
        (p, a ++ b)
      else (p, [])

/-! ## Receiving (R85, R87, R88) -/

/-- `a` comes before `b`, modulo 4,096. -/
def seqBefore (a b : Nat) : Bool := decide (0 < (b + 4096 - a) % 4096) && decide ((b + 4096 - a) % 4096 ≤ 2048)

/-- The number of a held flit. -/
def Flit.seq (f : Flit) : Nat := (flitHead f.header).seq

/-- Every flit before `n` has arrived: it leaves the replay buffer. -/
def Port.ackTo (p : Port) (now n : Nat) : Port :=
  let r := p.replay.dropWhile fun f => seqBefore f.seq n
  if r.length = p.replay.length then p else { p with replay := r, progress := now }

/-- Every held flit from number `n` onwards goes again. -/
def Port.resend (p : Port) (n : Nat) : List Flit := if p.state = .up then p.replay.dropWhile fun f => seqBefore f.seq n else []

/-- The link goes down for retraining, with an error record, which R88 gives no layout: the model keeps its pod time. (DESIGN CHOICE,
log 103.) -/
def Port.down (p : Port) (now : Nat) : Port := { p with state := .retraining, downAt := now, log := p.log ++ [now] }

/-- A flit that fails its checks: a nak, and retraining after 16 within 1 µs. -/
def Port.crcError (p : Port) (now : Nat) : Port × List Flit :=
  let ts := ((p.crcAt.filter fun t => decide (now ≤ t + 4000)) ++ [now])
  let q := { p with crcAt := ts, naked := true }
  if 16 ≤ ts.length then (q.down now, []) else (q, [controlFlit 5 p.expect])

/-- A run's tag fails its check: the run is discarded and asked for again, and three failures in a row take the link down. -/
def Port.runFails! (p : Port) (now first : Nat) : Port × List Flit :=
  let q := { p with rxRun := [], expect := first, naked := true, runFails := p.runFails + 1 }
  if 3 ≤ q.runFails then (q.down now, []) else (q, [controlFlit 5 first])

/-- The bytes of a verified data flit, marked where its first packet begins. -/
def marked (h : FlitHead) (bs : List Byte) : List (Bool × Byte) := bs.zipIdx.map fun e => (e.2 == h.start, e.1)

/-- A run with its trailer: its bytes are released only when its tag passes. -/
def Port.closeRun (p : Port) (peer now : Nat) (t : Flit) : Port × List Flit :=
  let run := p.rxRun
  let heads := run.map fun f => flitHead f.header
  let th := flitHead t.header
  let first := (heads.head?.map (·.seq)).getD th.seq
  let count := leNat ((t.payload.drop 16).take 8)
  let ct := run.flatMap fun f => toNats f.payload
  match p.rxKeys.find? th.kidx with
  | none => p.runFails! now first
  | some key =>
    if th.kind = 3 ∧ heads.map (·.pos) = List.range 16 ∧ heads.all (fun h => h.kidx == th.kidx)
        ∧ ofNats (gcmTag (runKey key) (runIv peer count) (runAad run) ct) = t.payload.take 16 then
      let pt := ofNats (gcmStream (runKey key) (runIv peer count) 2 ct)
      let bytes := heads.zipIdx.flatMap fun e => if e.1.kind = 1 then marked e.1 ((pt.drop (112 * e.2)).take 112) else []
      ({ p with rxRun := [], runFails := 0, verified := p.expect, rxBytes := p.rxBytes ++ bytes }, [controlFlit 4 p.expect])
    else p.runFails! now first

/-- A flit arrives. -/
def Port.receive (p : Port) (peer now : Nat) (bs : List Byte) : Port × List Flit :=
  if p.state ≠ .up then (p, [])
  else if !flitOk bs then p.crcError now
  else
    let f : Flit := { header := leNat (bs.take 8), payload := (bs.drop 8).take 112 }
    let h := flitHead f.header
    let p := if h.av then p.ackTo now h.aseq else p
    if h.kind = 0 ∨ h.kind = 4 then (p, [])
    else if h.kind = 5 then (p, p.resend h.aseq)
    else if h.seq = p.expect then
      let q := { p with expect := (p.expect + 1) % 4096, naked := false }
      if h.kind = 3 ∨ q.rxRun.length = 16 then q.closeRun peer now f else ({ q with rxRun := q.rxRun ++ [f] }, [])
    else if seqBefore h.seq p.expect then (p, [controlFlit 4 p.verified])
    else if p.naked then (p, [])
    else ({ p with naked := true }, [controlFlit 5 p.expect])

/-! ## Ports in the state -/

/-- A port of a package. -/
def State.port (s : State) (pkg i : Nat) : Port := (s.package pkg).ports.getD i Port.reset

/-- A port changes and some flits leave by it. -/
def State.portDoes (s : State) (pkg i : Nat) (f : Port → Port × List Flit) : State :=
  let (p, fs) := f (s.port pkg i)
  let s := s.modPackage pkg fun k => { k with ports := k.ports.insert i p }
  fs.foldl (fun s f => s.emit (.flit pkg i f.bytes)) s

/-- The port sends what it may. -/
def State.pumpPort (s : State) (pkg i : Nat) (pad : Bool) : State :=
  s.portDoes pkg i fun p => p.pump (linkId pkg i) (s.podTime pkg) pad (p.queue.length / 100 + 34)

/-- ENRIK_FLIT_RECEIVE (R84 to R88): a flit arrives at a port of a package. -/
def execEnrikFlitReceive (pkg port : Nat) (flit : List Byte) (s : State) : Answer :=
  .next (
    if 6 ≤ port then s
    else (s.portDoes pkg port fun p =>
      p.receive (linkId (torusNext pkg port) (facing port)) (s.podTime pkg) flit).pumpPort pkg port false)

/-- ENRIK_NAK_RECEIVE (R85): a nak names flit `seq`: what came before it has arrived, and every held flit from it on goes again. -/
def execEnrikNakReceive (pkg port seq : Nat) (s : State) : Answer :=
  .next (
    if 6 ≤ port ∨ 4096 ≤ seq ∨ (s.port pkg port).state ≠ .up then s
    else s.portDoes pkg port fun p =>
      let p := p.ackTo (s.podTime pkg) seq
      (p, p.resend seq))

/-- ENRIK_ACK_TIMEOUT (R85): no acknowledgement has advanced for 2 µs: everything held goes again. -/
def execEnrikAckTimeout (pkg port : Nat) (s : State) : Answer :=
  .next (
    let now := s.podTime pkg
    let p := s.port pkg port
    if 6 ≤ port ∨ p.state ≠ .up ∨ p.replay = [] ∨ now < p.progress + 8000 then s
    else s.portDoes pkg port fun p => ({ p with progress := now }, p.replay))

/-- RUN_PAD_TIMEOUT (R86): a run has waited 64 cycles for data: what waits fills a flit and pad flits end the run. -/
def execRunPadTimeout (pkg port : Nat) (s : State) : Answer :=
  .next (if 6 ≤ port ∨ s.podTime pkg < (s.port pkg port).fed + 95 then s else s.pumpPort pkg port true)

/-- RETRAIN_COMPLETE (R88): the link is up again and sends from its oldest held flit. -/
def execRetrainComplete (pkg port : Nat) (s : State) : Answer :=
  .next (
    if 6 ≤ port ∨ (s.port pkg port).state ≠ .retraining then s
    else (s.portDoes pkg port fun p =>
      ({ p with state := .up, crcAt := [], runFails := 0, naked := false, progress := s.podTime pkg }, p.replay)).pumpPort pkg port false)

/-- RETRAIN_TIMEOUT (R88): after 10 ms the port has failed and what it held is discarded, with the places it had been given (R83). -/
def execRetrainTimeout (pkg port : Nat) (s : State) : Answer :=
  .next (
    let p := s.port pkg port
    if 6 ≤ port ∨ p.state ≠ .retraining ∨ s.podTime pkg < p.downAt + 40000000 then s
    else (s.portDoes pkg port fun p =>
      ({ p with state := .failed, queue := [], replay := [], txRun := [], pos := 0 }, [])).portDoes (torusNext pkg port) (facing port)
        fun p => ({ p with due := [] }, []))

/-- LINK_KEY_INSTALL (R89): management writes a key into a free index of a direction; the sender goes over at its next run boundary. (DESIGN CHOICE, log 32.) -/
def execLinkKeyInstall (pkg port index key : Nat) (sends : Bool) (s : State) : Answer :=
  .next (
    let p := s.port pkg port
    let key := key % 2 ^ 256
    if 6 ≤ port ∨ 2 ≤ index then s
    else if sends then
      if (p.txKeys.find? index).isSome then s
      else (s.portDoes pkg port fun p =>
        ({ p with txKeys := p.txKeys.insert index key, pending := some index }, [])).pumpPort pkg port false
    else if (p.rxKeys.find? index).isSome then s
    else s.portDoes pkg port fun p => ({ p with rxKeys := p.rxKeys.insert index key }, []))

/-- A key-retire notice: a management packet whose one payload unit names the index (log 45). -/
def retireNotice (index : Nat) : List Byte :=
  leBytes 1 5 ++ leBytes 1 1 ++ List.replicate 14 0 ++ leBytes 1 (index + 1) ++ List.replicate 15 0

/-- A packet's bytes, the first marked. -/
def packetBytes (bs : List Byte) : List (Bool × Byte) := bs.zipIdx.map fun e => (e.2 == 0, e.1)

/-- A packet waits at a port; a failed port discards it (R88). -/
def Port.enqueue (p : Port) (now : Nat) (bs : List Byte) : Port :=
  if p.state = .failed then p else { p with queue := p.queue ++ packetBytes bs, fed := now }

/-- KEY_RETIRE_SEND (R89): every flit under the old index is acknowledged; the notice goes out under the new key. -/
def execKeyRetireSend (pkg port : Nat) (s : State) : Answer :=
  .next (
    let p := s.port pkg port
    let old := 1 - p.kidx
    if 6 ≤ port ∨ p.state ≠ .up ∨ p.retiring ∨ p.pending.isSome ∨ (p.txKeys.find? old).isNone
        ∨ (p.replay ++ p.txRun).any (fun f => (flitHead f.header).kidx == old) then s
    else (s.portDoes pkg port fun p =>
      ({ p.enqueue (s.podTime pkg) (retireNotice old) with retiring := true }, [])).pumpPort pkg port false)

/-- Drops the zero units that fill a flit between packets (log 45). -/
def skipFill : Nat → List (Bool × Byte) → List (Bool × Byte)
  | 0, q => q
  | n + 1, q =>
    if 16 ≤ q.length ∧ (q.take 16).all (fun b => b.2 == 0) then skipFill n (q.drop 16) else q

/-- The next packet among a port's verified bytes: whether it is well formed, its bytes and what follows. A length above 21 names no
packet: the bytes up to the next marked one go with it. -/
def nextPacket (q : List (Bool × Byte)) : Option (Bool × List Byte × List (Bool × Byte)) :=
  let q := skipFill (q.length / 16) q
  if q.length < 16 then none
  else
    let n := ((q.getD 1 (false, 0)).2).toNat
    if 21 < n then some (false, q.map (·.2), (q.drop 1).dropWhile fun b => !b.1)
    else if q.length < 16 + 16 * n then none
    else some (true, (q.take (16 + 16 * n)).map (·.2), q.drop (16 + 16 * n))

/-- KEY_RETIRE_RECEIVE (R89): the port's next packet is a notice: the old key is erased, and the sender learns that its index is free. -/
def execKeyRetireReceive (pkg port : Nat) (s : State) : Answer :=
  .next (
    if 6 ≤ port then s
    else
      let p := s.port pkg port
      match nextPacket p.rxBytes with
      | some (true, bs, rest) =>
        match (List.range 2).find? fun i => bs == retireNotice i with
        | some i =>
          let s := s.portDoes pkg port fun p => ({ p with rxBytes := rest, rxKeys := p.rxKeys.erase i }, [])
          s.portDoes (torusNext pkg port) (facing port) fun p =>
            if p.retiring then ({ p with retiring := false, txKeys := p.txKeys.erase i }, []) else (p, [])
        | none => s
      | _ => s)

/-- RUN_COUNTER_EXHAUSTED (R89): the run counter has come to 2^40 with no key to follow: the port has stopped, with a link error. (DESIGN CHOICE, log 33.) -/
def execRunCounterExhausted (pkg port : Nat) (s : State) : Answer :=
  .next (
    let p := s.port pkg port
    if 6 ≤ port ∨ p.pos ≠ 0 ∨ p.pending.isSome ∨ p.stuck ∨ p.runCount < 2 ^ 40 then s
    else s.portDoes pkg port fun p => ({ p with stuck := true, log := p.log ++ [s.podTime pkg] }, []))

/-! ## Ring buffers (R81, R83) -/

/-- The packets in a port's ring buffer of a class. -/
def State.ringOf (s : State) (pkg port cls : Nat) : List (List Byte) := (s.port pkg port).ring.getD cls []

def State.setRing (s : State) (pkg port cls : Nat) (q : List (List Byte)) : State :=
  s.portDoes pkg port fun p => ({ p with ring := p.ring.put [] cls q }, [])

/-- The places of a ring buffer that no packet holds and none on its way has been given. -/
def State.ringFree (s : State) (pkg port cls : Nat) : Nat :=
  6 - ((s.ringOf pkg port cls).length + (s.port pkg port).due.getD cls 0)

/-- The bubble rule: a packet that enters a ring needs two places in the next router's buffer, one that goes on along it one. -/
def State.mayEnter (s : State) (pkg port cls : Nat) (along : Bool) : Bool :=
  decide ((if along then 1 else 2) ≤ s.ringFree (torusNext pkg port) (facing port) cls)

/-- A packet leaves a package by a port, with a place in the next ring buffer; a failed port discards it (R88). None while it waits. -/
def State.leaveBy (s : State) (pkg port : Nat) (along : Bool) (bs : List Byte) : Option State :=
  let cls := packetClass bs
  if (s.port pkg port).state = .failed then some s
  else if !s.mayEnter pkg port cls along then none
  else
    let s := s.portDoes (torusNext pkg port) (facing port) fun p => ({ p with due := p.due.put 0 cls (p.due.getD cls 0 + 1) }, [])
    some ((s.portDoes pkg port fun p => (p.enqueue (s.podTime pkg) bs, [])).pumpPort pkg port false)

/-- The oldest packet of a port's ring buffer and class goes on: by the next port of its route, or into the mesh of its stack. -/
def State.ringMove (s : State) (pkg port cls : Nat) : State :=
  match s.ringOf pkg port cls with
  | [] => s
  | bs :: rest =>
    let dst := packetStk bs
    let pop (s : State) : State := s.setRing pkg port cls rest
    match torusPort pkg (dst / 4) with
    | some p => match s.leaveBy pkg p (facing port == p) bs with
      | some s => pop s
      | none => s
    | none =>
      let (st, e) := portSluice port
      let (slice, input) := if dst % 4 = st then (dst * 256 + sluiceSlice e, e) else meshEntry dst (pkg * 4 + st)
      if s.inputReady slice input cls then pop (s.pushInput slice input bs) else s

/-! ## Sluices and routers (R77 to R82) -/

/-- A link error of a stack. R80 gives it no record; the model counts it. (DESIGN CHOICE, log 103.) -/
def State.linkError (s : State) (stk : Nat) : State := s.modStack stk fun k => { k with linkErrors := k.linkErrors + 1 }

/-- A sluice takes a packet of its stack's mesh, which waits at an input of the edge's router: over the bridges to another stack of the
package, or out by a port. -/
def State.sluice (s : State) (stk edge input cls : Nat) : State :=
  let slice := stk * 256 + sluiceSlice edge
  match s.inputQ slice input cls with
  | [] => s
  | bs :: _ =>
    if nextHop slice bs ≠ .sluice edge then s
    else
      let bs := bs.take 2 ++ leBytes 2 (s.podTime (stk / 4)) ++ bs.drop 4
      let pop (s : State) : State := s.popInput slice input cls
      if !packetOk bs then pop (s.linkError stk)
      else
        let dst := packetStk bs
        match torusPort (stk / 4) (dst / 4) with
        | none =>
          let (n, i) := meshEntry dst stk
          if s.inputReady n i cls then pop (s.pushInput n i bs) else s
        | some port => match s.leaveBy (stk / 4) port false bs with
          | some s => pop s
          | none => s

/-- SLUICE_PACKET_RECEIVE (R80 to R83): a sluice takes a packet of its stack's mesh, and writes into it when it entered, or the next
packet that one of its Enrik ports has released, into a free place of that port's ring buffer. -/
def execSluicePacketReceive (stk : Nat) (src : SluiceSource) (s : State) : Answer :=
  .next (
    match src with
    | .mesh edge input cls => if 4 ≤ edge then s else s.sluice stk edge input cls
    | .link port =>
      if !(portsOfStack stk).contains port then s
      else
        let pkg := stk / 4
        match nextPacket (s.port pkg port).rxBytes with
        | some (ok, bs, rest) =>
          let cls := packetClass bs
          if ((List.range 2).any fun i => bs == retireNotice i) ∨ 6 ≤ (s.ringOf pkg port cls).length then s
          else
            let s := s.portDoes pkg port fun p => ({ p with rxBytes := rest }, [])
            if ok ∧ packetOk bs then
              (s.portDoes pkg port fun p => ({ p with due := p.due.put 0 cls (p.due.getD cls 0 - 1) }, [])).setRing pkg port cls
                (s.ringOf pkg port cls ++ [bs])
            else s.linkError stk
        | none => s)

/-- A packet for an agent of the model: a put engine, or a guest slot. -/
def forAgent (bs : List Byte) : Bool :=
  let ep := leAt bs 4 4
  leAt bs 0 1 / 8 % 2 == 1 && (packetClass bs == 3 || (packetClass bs ≤ 1 && ep % 2 ^ 20 == 0))

/-- A packet has come to its slice: to the put engine of its stack, or to a guest slot. What other packets ask for is done by the units
that send them (log 24). -/
def State.arriveAt (s : State) (slice : Nat) (bs : List Byte) : State :=
  if !forAgent bs then s
  else if packetClass bs = 3 then s.modSlice slice fun x => { x with ctxs := x.ctxs ++ [bs] }
  else s.pktArrives (slice / 256) false bs

/-- The oldest packet of a router's input and class goes one hop: along the row, then along the column (R77). -/
def State.hop (s : State) (slice input cls : Nat) : State :=
  match s.inputQ slice input cls with
  | [] => s
  | bs :: _ => match nextHop slice bs with
    | .router n i => if s.inputReady n i cls then (s.pushInput n i bs).popInput slice input cls else s
    | .sluice _ => s
    | .here => (s.popInput slice input cls).arriveAt slice bs

/-- A move of the network. A packet from an agent that the model does not hold may enter anywhere. -/
def State.netMove (s : State) : NetMove → State
  | .inject slice bs => if forAgent bs then s else s.inject slice bs
  | .hop slice input cls => s.hop slice input cls
  | .ring pkg port cls => if 6 ≤ port then s else s.ringMove pkg port cls

/-- A frame arrives at an Ethernet port under a MACsec key: it goes to the put engine of the stack that it names (R102, R105). What the
port's key does not open is dropped. (DESIGN CHOICE, log 102.) -/
def State.frameArrives (s : State) (pkg port key : Nat) (bs : List Byte) : State :=
  if (s.package pkg).ether.find? port = some key ∧ packetOk bs ∧ forAgent bs ∧ packetClass bs ≤ 1 ∧ packetPkg bs = pkg then
    s.pktArrives (packetStk bs) true bs
  else s

/-! ## Pod time (R90) -/

/-- TIME_BEACON_SEND (R90): every 10 µs the root sends its time on every port. -/
def execTimeBeaconSend (pkg : Nat) (s : State) : Answer :=
  .next (
    let now := s.podTime pkg
    if !(s.package pkg).root ∨ now < (s.package pkg).beaconAt + 40000 then s
    else
      let s := s.modPackage pkg fun p => { p with beaconAt := now }
      (List.range 6).foldl (fun s i => s.emit (.beacon pkg i now)) s)

/-- TIME_BEACON_RECEIVE (R90): a beacon arrives. The counter moves toward the beacon's time plus the link's delay: forwards at once by as
much as steering gives, backwards only by ticks that it withholds. A counter that is then more than 2 ns off is a time fault; its error record, which R90 gives no
layout, is the package's pod time (log 103). (DESIGN CHOICE, log 34.) -/
def execTimeBeaconReceive (pkg port time : Nat) (s : State) : Answer :=
  .next (
    if 6 ≤ port ∨ (s.package pkg).root then s
    else
      let now := s.podTime pkg
      let goal := time + (s.port pkg port).delay
      let by_ := Config.steer s.fresh
      let gain := min by_ (goal - now)
      let s := s.modPackage pkg fun p =>
        { p with skew := p.skew + Int.ofNat gain, slow := if now ≤ goal then 0 else min by_ (now - goal) }
      if now + gain + 8 < goal ∨ goal + 8 < now then
        let s := s.modPackage pkg fun p => { p with timeLog := p.timeLog ++ [now + gain] }
        (List.range 4).foldl (fun s i => s.modStack (pkg * 4 + i) fun k => { k with tfault := true }) s
      else s)

/-- LINK_DELAY_MEASURE (R90): a round trip has measured a link's delay, in ticks. -/
def execLinkDelayMeasure (pkg port delay : Nat) (s : State) : Answer :=
  .next (if 6 ≤ port then s else s.portDoes pkg port fun p => ({ p with delay := delay }, []))

end Sys2Proof.Machine
end

