-- ==== Sys2Proof/Machine/Loader.lean ====
section
/-! DEFINITION. Sys2Proof/Machine/Loader.lean: the code loader (R153 to R159, R163, R167): what each source offers, what the loader
accepts, and installs that wait. -/

namespace Sys2Proof.Machine

/-- An offer: the bytes, whether they are a translation record, and the stack that gives them. -/
abbrev Offer := List Byte × Bool × Nat

/-- The fetch of a digest in a polder. -/
def State.fetchOf (s : State) (pol digest : Nat) : Option Fetch := (s.polder pol).fetches.find? fun f => f.digest == digest

def State.setFetch (s : State) (pol : Nat) (f : Fetch) : State :=
  s.modPolder pol fun p => { p with fetches := p.fetches.map fun x => if x.digest = f.digest then f else x }

def State.dropFetch (s : State) (pol digest : Nat) : State :=
  s.modPolder pol fun p => { p with fetches := p.fetches.filter fun x => x.digest != digest }

/-- Pod time at a polder. -/
def State.polTime (s : State) (pol : Nat) : Nat := s.podTime (pol / 2 ^ 15)

/-! ## Sources (R155, R156, R167) -/

/-- A cached image serves a fetch: its digest, and the wanted tag when there is one. -/
def CacheImg.serves (c : CacheImg) (f : Fetch) : Bool :=
  c.digest == f.digest && (match f.tag with | none => true | some t => c.tag == t && (c.transl == (t != 0)))

/-- What a stack's code cache offers, its portable image last. -/
def State.cacheOffers (s : State) (stk : Nat) (f : Fetch) : List Offer :=
  let l := (s.stack stk).ccache.filter fun c => c.serves f
  ((l.filter fun c => c.transl) ++ l.filter fun c => !c.transl).map fun c => (c.bytes, c.transl, stk)

/-- The offers of several stacks: translations first (R155). Stacks that are asked together offer in the order of their numbers, those of
nearer packages first. (DESIGN CHOICE, log 106.) -/
def State.stackOffers (s : State) (l : List Nat) (f : Fetch) : List Offer :=
  let all := l.flatMap fun k => s.cacheOffers k f
  (all.filter fun o => o.2.1) ++ all.filter fun o => !o.2.1

/-- What the caches of some stacks have offered becomes their most recently used (R156). -/
def State.cachesUsed (s : State) (l : List Nat) (f : Fetch) : State :=
  l.foldl (fun s k => s.modStack k fun x =>
    { x with ccache := (x.ccache.filter fun c => c.serves f) ++ x.ccache.filter fun c => !c.serves f }) s

/-- Hops along a ring of `n` packages. -/
def ringHops (n a b : Nat) : Nat := min ((a + n - b) % n) ((b + n - a) % n)

/-- Torus hops between packages (R18, R82). -/
def torusHops (a b : Nat) : Nat := ringHops 8 (a % 8) (b % 8) + ringHops 8 (a / 8 % 8) (b / 8 % 8) + ringHops 16 (a / 64) (b / 64)

/-- The 8 packages of a dike nearest to a package, ties by lower number. -/
def State.nearPkgs (s : State) (pkg dike : Nat) : List Nat :=
  let l := (s.dikePkgs dike).filter fun p => p != pkg
  ((l.foldl (fun (m : SMap Nat) p => m.insert (torusHops pkg p * 1024 + p) p) []).map (·.2)).take 8

/-- The stacks that sources 1 to 3 ask. -/
def State.sourceStacks (s : State) (pol source : Nat) : List Nat :=
  let stk := stkOfPol pol
  match source with
  | 1 => [stk]
  | 2 => ((List.range 4).map fun i => stk / 4 * 4 + i).filter fun k => k != stk
  | _ => (s.nearPkgs (stk / 4) (s.polder pol).dike).flatMap fun p => (List.range 4).map fun i => p * 4 + i

/-! ## The end of a fetch (R159, R163, R167, R456) -/

/-- A thread whose fetch found nothing: it traps with `CODE_UNRESOLVED` when it next issues; a stolen continuation, which has no
instruction to trap at, is killed. -/
def State.unresolve (s : State) (thr : Nat) : State :=
  match (s.thread thr).prog with
  | .stolen r _ _ _ => s.killWith thr 0x08 r
  | _ => s.modThread thr fun t => { t with prog := .unresolved }

/-- Nothing is installed. -/
def State.fetchFails (s : State) (pol : Nat) (f : Fetch) : State :=
  let s := f.thrs.foldl (fun s t => if (s.thread t).live then s.unresolve t else s) (s.dropFetch pol f.digest)
  if f.wanted then s.failWanted (stkOfPol pol) (s.polder pol).dike f.digest else s

/-- The next source; in stage-one service there is none after the first (R186), and a source 3 without packages is passed over
(R438). -/
def State.nextSource (s : State) (pol : Nat) (f : Fetch) : State :=
  let n := f.source + 1
  let n := if n = 3 ∧ s.sourceStacks pol 3 = [] then 4 else n
  if 4 < n ∨ (s.stack (stkOfPol pol)).service ≠ 2 then s.fetchFails pol f
  else s.setFetch pol { f with source := n, since := s.polTime pol, queued := false, reply := none, checking := none, rest := [] }

/-- An accepted image is installed, or waits: for an entry under another tag to lose its users, or for room (R163, R167). Threads
that were parked find it when they issue again. -/
def State.installFetch (s : State) (pol : Nat) (f : Fetch) (im : Image) : State :=
  let wait (s : State) : State := s.setFetch pol { f with install := some im }
  match (s.polder pol).imageOf f.digest with
  | some (slot, old) =>
    if f.tag = none ∨ old.tag = im.tag then s.dropFetch pol f.digest
    else if old.pinned then s.fetchFails pol f
    else if old.users ≠ 0 then wait s
    else
      let s := s.modPolder pol fun p => { p with code := p.code.erase slot }
      match s.install pol im with
      | (true, s) => s.dropFetch pol f.digest
      | (false, s) => wait s
  | none =>
    match s.install pol im with
    | (true, s) => s.dropFetch pol f.digest
    | (false, s) => wait s

/-- The key and the model code of an offer's record, 0 for a portable image, and the answering stack, without a slice. (DESIGN CHOICE, log 106.) -/
def offerFrom (o : Offer) : Nat × Nat × Nat :=
  (if o.2.1 then leAt o.1 36 4 else 0, if o.2.1 then leAt o.1 32 4 else 0, o.2.2 * 2 ^ 20)

/-- The loader accepts an image: it enters the stack code cache (R156), and the polder's code store when a thread waits for it. -/
def State.accept (s : State) (pol : Nat) (f : Fetch) (im : Image) (bytes : List Byte) (from_ : Nat) : State :=
  let s := s.modStack (stkOfPol pol) fun k =>
    let c : CacheImg := { digest := f.digest, model := k.model.toNat, tag := im.tag, transl := im.transl, bytes := bytes }
    { k with ccache := cacheInsert k.ccache c }
  let f := { f with checking := none, rest := [], since := s.polTime pol, orig := offerFrom (bytes, im.transl, from_) }
  if f.thrs = [] then s.dropFetch pol f.digest else s.installFetch pol f im

/-- A code-log record of a refused offer. -/
def State.refuseOffer (s : State) (pol : Nat) (f : Fetch) (o : Offer) (reason : Nat) : State :=
  s.codeRecord pol f.digest f.source reason (offerFrom o).1 (offerFrom o).2.1 (offerFrom o).2.2

/-- The loader takes offers in order: a translation that passes the cheap checks goes to the signature unit; a portable image is
taken or refused; after the last, the next source (R153 to R155). A portable image of the digest that breaks R145 ends the fetch. -/
def State.takeOffers (s : State) (pol : Nat) (f : Fetch) : List Offer → State
  | [] => s.nextSource pol f
  | o :: rest =>
    if o.2.1 then
      match checkNative (s.stack (stkOfPol pol)) f.digest o.1 with
      | .ok im =>
        if f.tag = none ∨ f.tag = some im.tag then s.setFetch pol { f with checking := some (im, o.1, o.2.2), rest := rest, reply := none }
        else s.takeOffers pol f rest
      | .error r => (s.refuseOffer pol f o r).takeOffers pol f rest
    else if f.tag ≠ none ∧ f.tag ≠ some 0 then s.takeOffers pol f rest
    else match checkPortable f.digest o.1 with
      | .ok im => s.accept pol f im o.1 o.2.2
      | .error r =>
        let s := s.refuseOffer pol f o r
        if r = 8 then s.fetchFails pol f else s.takeOffers pol f rest

/-! ## The host runtime's code queue (R157, R158) -/

/-- The size of a dike's code queue, or none when it is disabled. -/
def Stack.codeRing (k : Stack) (dike : Nat) : Option Nat :=
  let n := k.dike dike 136 1
  if 2 ≤ n ∧ n ≤ 10 then some (2 ^ n) else none

/-- The request of a fetch goes into the next entry, once it is free; a disabled queue answers as kind 0. -/
def State.askRuntime (s : State) (pol : Nat) (f : Fetch) : State :=
  let stk := stkOfPol pol
  let dike := (s.polder pol).dike
  let k := s.stack stk
  match k.codeRing dike with
  | none => s.nextSource pol f
  | some size =>
    let tail := k.dike dike 140 2 % size
    if k.codeReqs.any fun r => r.dike == dike && r.entry == tail then s
    else
      let buf := k.dike dike 144 8 + 32768 * tail
      let e := leBytes 8 (s.polTime pol) ++ leBytes 32 f.digest ++ leBytes 4 k.model.toNat ++ leBytes 4 (f.tag.getD 0xFFFFFFFF)
        ++ leBytes 8 buf ++ List.replicate 72 0
      let s := s.writeRun stk (k.dike dike 128 8 + 128 * tail) e true true 0
      let s := s.modStack stk fun k =>
        { k.setDike dike 140 (leBytes 2 ((tail + 1) % size)) with
          codeReqs := k.codeReqs ++ [{ ask := s.fresh, dike := dike, entry := tail, pol := pol, digest := f.digest }] }
      (s.emit (.msix stk (k.dike dike 138 2 % 2 ^ 11))).setFetch pol { f with queued := true, ask := s.fresh }

/-- A done entry is consumed: the offer reaches the fetch that asked, if it still asks (R157, R158). -/
def State.consume (s : State) (stk : Nat) (r : CodeReq) : State :=
  let k := s.stack stk
  let (g, s) := s.readRun stk none (k.dike r.dike 128 8 + 128 * r.entry) 128 true true 3 0
  if leAt g.data 71 1 < 128 then s
  else
    let len := leAt g.data 64 4
    let kind := leAt g.data 68 1
    let s := s.modStack stk fun k => { k with codeReqs := k.codeReqs.erase r }
    match s.fetchOf r.pol r.digest with
    | none => s
    | some f =>
      if f.source ≠ 4 ∨ !f.queued ∨ f.ask ≠ r.ask ∨ f.reply.isSome then s
      else if kind = 0 then s.setFetch r.pol { f with reply := some [] }
      else if len = 0 ∨ 32768 < len ∨ 2 < kind then
        (s.codeRecord r.pol r.digest 4 7 0 0 (stk * 2 ^ 20)).setFetch r.pol { f with reply := some [] }
      else
        let (b, s) := s.readRun stk none (k.dike r.dike 144 8 + 32768 * r.entry) len true true 3 0
        s.setFetch r.pol { f with reply := some [(b.data, kind == 2, stk)] }

/-- CODE_QUEUE_DOORBELL (R158): every done entry of a dike is consumed. -/
def execCodeQueueDoorbell (stk dike : Nat) (s : State) : Answer :=
  .next (((s.stack stk).codeReqs.filter fun r => r.dike == dike).foldl (fun s r => s.consume stk r) s)

/-! ## The events of the loader -/

/-- LOADER_SOURCE_ANSWER (R155): the source that a fetch asks answers; source 4 is first sent the request. -/
def execLoaderSourceAnswer (pol digest : Nat) (s : State) : Answer :=
  .next (match s.fetchOf pol digest with
    | none => s
    | some f =>
      if f.checking.isSome ∨ f.install.isSome then s
      else if f.source ≤ 3 then
        if f.source ≠ 1 ∧ (s.stack (stkOfPol pol)).service ≠ 2 then s.fetchFails pol f
        else
          let l := s.sourceStacks pol f.source
          (s.cachesUsed l f).takeOffers pol f (s.stackOffers l f)
      else if !f.queued then s.askRuntime pol f
      else match f.reply with
        | some l => s.takeOffers pol f l
        | none => s)

/-- The wait of a source in ticks (R155); source 1 has none. -/
def sourceWait : Nat → Option Nat
  | 2 => some 80000
  | 3 => some 400000
  | 4 => some 4000000000
  | _ => none

/-- SOURCE_WAIT_TIMEOUT (R155): the record names no stack, since none has answered. (DESIGN CHOICE, log 106.) -/
def execSourceWaitTimeout (pol digest : Nat) (s : State) : Answer :=
  .next (match s.fetchOf pol digest with
    | none => s
    | some f =>
      match sourceWait f.source with
      | none => s
      | some w =>
        if f.checking.isSome ∨ f.install.isSome ∨ f.reply.isSome ∨ s.polTime pol < f.since + w then s
        else (s.codeRecord pol digest f.source 10 0 0 0).nextSource pol f)

/-- SIGNATURE_VERIFIED (R153, R154). -/
def execSignatureVerified (pol digest : Nat) (s : State) : Answer :=
  .next (match s.fetchOf pol digest with
    | none => s
    | some f =>
      match f.checking with
      | none => s
      | some (im, bytes, stk) =>
        if checkSig (s.stack (stkOfPol pol)) bytes then s.accept pol f im bytes stk
        else
          let rest := f.rest
          let f := { f with checking := none, rest := [] }
          ((s.setFetch pol f).refuseOffer pol f (bytes, true, stk) 4).takeOffers pol f rest)

/-- INSTALL_RETRY (R163): an install that waits tries again. -/
def execInstallRetry (pol digest : Nat) (s : State) : Answer :=
  .next (match s.fetchOf pol digest with
    | none => s
    | some f =>
      match f.install with
      | some im => s.installFetch pol f im
      | none => s)

/-- One millisecond in ticks. -/
def oneMs : Nat := 4000000

/-- The polder holds the digest under another tag. -/
def State.otherTag (s : State) (pol : Nat) (f : Fetch) : Bool :=
  match (s.polder pol).imageOf f.digest with
  | some (_, old) => f.tag.isSome && f.tag != some old.tag
  | none => false

/-- An install that has waited for 1 ms ends: a reason-9 record, and `CODE_UNRESOLVED`. -/
def State.installTimeout (s : State) (pol : Nat) (f : Fetch) : State :=
  if f.install.isNone ∨ s.polTime pol < f.since + oneMs then s
  else (s.codeRecord pol f.digest f.source 9 f.orig.1 f.orig.2.1 f.orig.2.2).fetchFails pol f

/-- INSTALL_WAIT_TIMEOUT (R163, R396): the loader's install of a digest, or a `cinst` of a thread, has waited for room for 1 ms. -/
def execInstallWaitTimeout (pol : Nat) (who : Installer) (s : State) : Answer :=
  .next (match who with
    | .loader digest =>
      match s.fetchOf pol digest with
      | some f => if s.otherTag pol f then s else s.installTimeout pol f
      | none => s
    | .system thr =>
      match (s.thread thr).prog with
      | .cinst since false =>
        if thr / 64 ≠ pol ∨ s.polTime pol < since + oneMs then s
        else s.modThread thr fun t => { t with prog := .cinst since true }
      | _ => s)

/-- TAG_REPLACE_TIMEOUT (R167): an entry under another tag has kept its users for 1 ms. -/
def execTagReplaceTimeout (pol digest : Nat) (s : State) : Answer :=
  .next (match s.fetchOf pol digest with
    | some f => if s.otherTag pol f then s.installTimeout pol f else s
    | none => s)

end Sys2Proof.Machine
end

