-- ==== Sys2Proof/Machine/MemInstr.lean ====
section
/-! DEFINITION. Sys2Proof/Machine/MemInstr.lean: the memory, atomic and message instructions (chapter 13). Each checks its operands, its
alignment and its bytes, then hands a load or a store to the queues of its slot. -/

namespace Sys2Proof.Machine

/-! ## Scalar loads and stores (R306 to R309) -/

/-- The thread may move for a load of a page homed at `pa` (R93). -/
def State.mayMigrate (s : State) (d : Nat) : Bool :=
  let t := s.me
  let roamImage : Bool := match s.myImage with | some im => im.attrs.testBit 0 | none => false
  let full (c : RegState) : Bool := c == .full
  roamImage && ((List.range 16).all fun i => (t.vreg i).st == .idle)
    && !(s.myCore.copies.any fun c => c.ep == s.cur) && !(s.myStack.xfers.any fun x => x.ep == s.cur)
    && ((List.range 32).all fun i => i == d || full (t.sreg i).st) && ((List.range 8).all fun i => full (t.preg i).st)
    && !t.twin && s.myCore.gang.width == 0 && !s.myCore.gang.donor && slotNo s.cur != 7 && t.level == 0
    && !(s.myCore.mq.any fun m => m.slot == slotNo s.cur)

/-- A plain load of a migrate page moves the thread, or waits for the answer to its reservation, or runs in fetch mode (R93,
R94, R95). -/
def State.orMigrate (s : State) (d : Nat) (tgt : Target) (k : State → State) : State :=
  match tgt with
  | .dev pa _ true =>
    match s.me.prog with
    | .refused => k s
    | .migrate _ _ _ => s.park .migrate
    | _ => if stkOfPa pa ≠ stkOf s.cur ∧ s.mayMigrate d then s.park .migrate else k s
  | _ => k s

/-- A scalar load (R307, R308). -/
def State.loadOp (s : State) (kind : LoadKind) (d a : Nat) (sz : Sz) (off : BitVec 11) : State :=
  s.withGate [.s a] [.s d] fun s =>
    let n := szBytes sz
    let ea := eaOf (s.sval a) off n
    if ea % n ≠ 0 then s.trap 0x03 ea
    else s.withX ea false fun tgt s =>
      let ps : List Piece := [{ lo := 0, len := n, tgt := tgt }]
      if !onlyLocal (kind == .sync || kind == .take) ps then s.trap 0x05 ea
      else
        let go (s : State) : State := s.issueLoad 4 kind (.scalar d sz) ps [(0, ea, n)] [a]
        if kind = .plain then s.orMigrate d tgt go else go s

/-- `ld` (R308). -/
def execLd (d a : Nat) (sz : Sz) (off : BitVec 11) (s : State) : Answer := .next (s.loadOp .plain d a sz off)

/-- `ld.acq` (R308). -/
def execLdAcq (d a : Nat) (sz : Sz) (off : BitVec 11) (s : State) : Answer := .next (s.loadOp .acq d a sz off)

/-- `ld.sync` (R308). -/
def execLdSync (d a : Nat) (sz : Sz) (off : BitVec 11) (s : State) : Answer := .next (s.loadOp .sync d a sz off)

/-- `ld.take` (R308). -/
def execLdTake (d a : Nat) (sz : Sz) (off : BitVec 11) (s : State) : Answer := .next (s.loadOp .take d a sz off)

/-- A scalar store (R307, R309). -/
def State.storeOp (s : State) (kind : StoreKind) (d a : Nat) (sz : Sz) (off : BitVec 11) : State :=
  s.withGate [.s d, .s a] [] fun s =>
    let n := szBytes sz
    let ea := eaOf (s.sval a) off n
    if ea % n ≠ 0 then s.trap 0x03 ea
    else s.withX ea true fun tgt s =>
      let ps : List Piece := [{ lo := 0, len := n, tgt := tgt }]
      if !onlyLocal (kind == .fill || kind == .relfill) ps then s.trap 0x05 ea
      else s.issueStore kind ea ps (leBytes n (s.sval d).toNat) fun s => (s.popIf [d, a]).advance 4

/-- `st` (R309). -/
def execSt (d a : Nat) (sz : Sz) (off : BitVec 11) (s : State) : Answer := .next (s.storeOp .plain d a sz off)

/-- `st.rel` (R309). -/
def execStRel (d a : Nat) (sz : Sz) (off : BitVec 11) (s : State) : Answer := .next (s.storeOp .rel d a sz off)

/-- `st.fill` (R309). -/
def execStFill (d a : Nat) (sz : Sz) (off : BitVec 11) (s : State) : Answer := .next (s.storeOp .fill d a sz off)

/-- `st.relfill` (R309). -/
def execStRelfill (d a : Nat) (sz : Sz) (off : BitVec 11) (s : State) : Answer := .next (s.storeOp .relfill d a sz off)

/-! ## Vector loads and stores (R310, R311) -/

/-- The runs of the active lanes of a unit-stride access: place in the compact value, address, length. -/
def laneRuns (ea lanes : Nat) (mask : PReg) : List (Nat × Nat × Nat) :=
  let act := activeLanes lanes mask
  if act.length = lanes then cutPages 3 0 ea (4 * lanes)
  else act.zipIdx.map fun e => (4 * e.2, (ea + 4 * e.1) % 2 ^ 64, 4)

/-- The old bits of a vector destination: zero when it is idle (R311). -/
def Thread.oldV (t : Thread) (vd : Nat) : VReg := if (t.vreg vd).st = .idle then 0 else (t.vreg vd).val

/-- `vld` and its broadcasts (R311). -/
def State.vloadOp (s : State) (vd a pr : Nat) (off : BitVec 12) (bc : Option Nat) : State :=
  s.notDonorSlot fun s =>
    s.withGate [.s a, .p pr] [.v vd] fun s =>
      let lanes := s.lanes s.thr
      let mask := (s.me.preg pr).val
      let scale := bc.getD 32
      let ea := eaOf (s.sval a) off scale
      let old := s.me.oldV vd
      if ea % scale ≠ 0 then s.trap 0x03 ea
      else
        let runs := match bc with
          | none => laneRuns ea lanes mask
          | some n => if activeLanes lanes mask = [] then [] else [(0, ea, n)]
        s.withRuns false runs [] fun ps s => s.issueLoad 4 .plain (.vector vd old mask bc lanes) ps runs [a]

/-- `vld` (R311). -/
def execVld (vd a pr : Nat) (off : BitVec 12) (s : State) : Answer := .next (s.vloadOp vd a pr off none)

/-- `vld.bc32` (R311). -/
def execVldBc32 (vd a pr : Nat) (off : BitVec 12) (s : State) : Answer := .next (s.vloadOp vd a pr off (some 4))

/-- `vld.bc16` (R311). -/
def execVldBc16 (vd a pr : Nat) (off : BitVec 12) (s : State) : Answer := .next (s.vloadOp vd a pr off (some 2))

/-- `vld.bc8` (R311). -/
def execVldBc8 (vd a pr : Nat) (off : BitVec 12) (s : State) : Answer := .next (s.vloadOp vd a pr off (some 1))

/-- The bytes of the active lanes of a vector, one lane after another. -/
def laneBytes (x : VReg) (act : List Nat) : List Byte := act.flatMap fun i => leBytes 4 (laneOf x.toNat i)

/-- `vst` (R311). -/
def execVst (vd a pr : Nat) (off : BitVec 12) (s : State) : Answer :=
  .next (s.notDonorSlot fun s =>
    s.withGate [.v vd, .s a, .p pr] [] fun s =>
      let lanes := s.lanes s.thr
      let mask := (s.me.preg pr).val
      let ea := eaOf (s.sval a) off 32
      if ea % 32 ≠ 0 then s.trap 0x03 ea
      else
        let act := activeLanes lanes mask
        let data := laneBytes (s.me.vreg vd).val act
        s.withRuns true (laneRuns ea lanes mask) [] fun ps s =>
          s.issueStore .plain ea ps data fun s => (s.popIf [a]).advance 4)

/-! ## Gather and scatter (R312, R313) -/

/-- Checks the active lanes in order: alignment, then R25 of each (R313, R328). -/
def State.withLanes (s : State) (wr : Bool) : List (Nat × Nat) → List Piece → (List Piece → State → State) → State
  | [], acc, k => k acc s
  | (j, ea) :: rest, acc, k =>
    if ea % 4 ≠ 0 then s.trap 0x03 ea
    else s.withX ea wr fun tgt s => s.withLanes wr rest (acc ++ [{ lo := 4 * j, len := 4, tgt := tgt }]) k

/-- The places and addresses of the active lanes. -/
def State.laneAddrs (s : State) (va b sc : Nat) (act : List Nat) : List (Nat × Nat) :=
  act.zipIdx.map fun e => (e.2, laneEa (s.sval b) (laneOf (s.me.vreg va).val.toNat e.1) sc)

/-- `gather` (R313). -/
def execGather (vd va b sc pr : Nat) (s : State) : Answer :=
  .next (s.notDonorSlot fun s =>
    s.withGate [.v va, .s b, .p pr] [.v vd] fun s =>
      let lanes := s.lanes s.thr
      let mask := (s.me.preg pr).val
      let old := s.me.oldV vd
      let addrs := s.laneAddrs va b sc (activeLanes lanes mask)
      s.withLanes false addrs [] fun ps s =>
        s.issueLoad 4 .gather (.vector vd old mask none lanes) ps (addrs.map fun e => (4 * e.1, e.2, 4)) [b])

/-- `scatter` (R313): every lane is checked before any enters; lanes that found no room enter later as they were checked. -/
def execScatter (vd va b sc pr : Nat) (s : State) : Answer :=
  .next (s.notDonorSlot fun s =>
    match s.me.prog with
    | .scatter rest epoch hepoch => s.enterLanes rest epoch hepoch
    | _ =>
      s.withGate [.v vd, .v va, .s b, .p pr] [] fun s =>
        let act := activeLanes (s.lanes s.thr) (s.me.preg pr).val
        let addrs := s.laneAddrs va b sc act
        let data := laneBytes (s.me.vreg vd).val act
        s.withLanes true addrs [] fun ps s =>
          let lanes := (addrs.zip ps).map fun e => (e.1.2, e.2.tgt, (data.drop (4 * e.1.1)).take 4)
          (s.popIf [b]).enterLanes lanes s.myPolder.epoch s.myStack.hepoch)

/-! ## Atomics (R314, R315, R42) -/

/-- The functions that the host link carries (R42). -/
def AmoFn.onHost : AmoFn → Bool
  | .add => true | .swap => true | .cas => true
  | _ => false

/-- An atomic (R315). -/
def State.amoOp (s : State) (fn : AmoFn) (d a b : Nat) (sz : Sz) : State :=
  let srcs := if fn = .cas then [a, b, b + 1] else [a, b]
  s.withGate (srcs.map Desig.s) [.s d] fun s =>
    let n := szBytes sz
    let ea := (s.sval a).toNat
    if ea % n ≠ 0 then s.trap 0x03 ea
    else s.withX ea true fun tgt s =>
      let ps : List Piece := [{ lo := 0, len := n, tgt := tgt }]
      let hostBad : Bool := match tgt with
        | .host _ _ _ => !fn.onHost || s.myStack.dike (s.jobOf s.cur) 2 1 / 4 % 2 == 0
        | _ => false
      if hostBad then s.trap 0x05 ea
      else s.afterAccesses fun s =>
        let x := (s.sval b).toNat % 2 ^ (8 * n)
        let y := (s.sval (b + 1)).toNat % 2 ^ (8 * n)
        s.issueLoad 4 (.amo fn (sz == .d) x y) (.scalar d (if sz = .d then .d else .ws)) ps [(0, ea, n)] [a, b]

/-- `amo.add` (R315). -/
def execAmoAdd (d a b : Nat) (sz : Sz) (s : State) : Answer := .next (s.amoOp .add d a b sz)
/-- `amo.and` (R315). -/
def execAmoAnd (d a b : Nat) (sz : Sz) (s : State) : Answer := .next (s.amoOp .and d a b sz)
/-- `amo.or` (R315). -/
def execAmoOr (d a b : Nat) (sz : Sz) (s : State) : Answer := .next (s.amoOp .or d a b sz)
/-- `amo.xor` (R315). -/
def execAmoXor (d a b : Nat) (sz : Sz) (s : State) : Answer := .next (s.amoOp .xor d a b sz)
/-- `amo.min` (R315). -/
def execAmoMin (d a b : Nat) (sz : Sz) (s : State) : Answer := .next (s.amoOp .min d a b sz)
/-- `amo.max` (R315). -/
def execAmoMax (d a b : Nat) (sz : Sz) (s : State) : Answer := .next (s.amoOp .max d a b sz)
/-- `amo.minu` (R315). -/
def execAmoMinu (d a b : Nat) (sz : Sz) (s : State) : Answer := .next (s.amoOp .minu d a b sz)
/-- `amo.maxu` (R315). -/
def execAmoMaxu (d a b : Nat) (sz : Sz) (s : State) : Answer := .next (s.amoOp .maxu d a b sz)
/-- `amo.swap` (R315). -/
def execAmoSwap (d a b : Nat) (sz : Sz) (s : State) : Answer := .next (s.amoOp .swap d a b sz)
/-- `amo.cas` (R315). -/
def execAmoCas (d a b : Nat) (sz : Sz) (s : State) : Answer := .next (s.amoOp .cas d a b sz)
/-- `amo.fadd` (R315). -/
def execAmoFadd (d a b : Nat) (s : State) : Answer := .next (s.amoOp .fadd d a b .w)
/-- `amo.fmax` (R315). -/
def execAmoFmax (d a b : Nat) (s : State) : Answer := .next (s.amoOp .fmax d a b .w)

/-! ## Fences and line operations (R316 to R320) -/

/-- Every pending store of the slot to memory that a test selects has performed (R116). -/
def State.storesTo (s : State) (p : Nat → Bool) : Bool :=
  (s.myCore.pending (slotNo s.cur)).all fun e => !(e.pieces.any fun q => match q.tgt with
    | .dev pa _ _ => p pa
    | _ => false)

/-- `fence` (R116, R317): it waits, then does what its scope asks. A parked fence holds every younger access, because nothing
younger has issued. (DEDUCED, log 51.) -/
def execFence (scope : Scope) (s : State) : Answer :=
  let stk := stkOf s.cur
  let tcm (pa : Nat) : Bool := region pa == .tcm
  let local_ (pa : Nat) : Bool := region pa == .tcm || (region pa == .spad && polOfSpad pa == polOf s.cur)
  let far (p : Nat → Bool) : Answer := .next (s.afterAccesses fun s =>
    (s.writebackFar stk).withDrop p fun s => s.advance 4)
  match scope with
  | .core => .next (if s.storesTo tcm then s.advance 4 else s.park .stores)
  | .polder => .next (if s.storesTo local_ then s.advance 4 else s.park .stores)
  | .stack => .next (s.afterAccesses fun s => s.advance 4)
  | .package => far fun line => decide (line < 2 ^ 60) && stkOfPa (line * 64) / 4 == stk / 4
  | .pod => far fun line => decide (line < 2 ^ 60)
  | .host => far fun _ => true

/-- The pieces of a line operation: its address. -/
def linePiece (tgt : Target) (n : Nat) : List Piece := [{ lo := 0, len := n, tgt := tgt }]

/-- `pf` (R318): no fault, no park, no order. A host page gets no line by it. (DEDUCED, log 109.) -/
def execPf (a : Nat) (s : State) : Answer :=
  .next (s.withGate [.s a] [] fun s =>
    let va := (s.sval a).toNat
    let s := (s.popIf [a]).advance 4
    if inWindows va then s
    else match s.xlateNow va false with
      | (.ok (.dev pa true mig), s) =>
        let line := pa / 64 * 64
        let ps : List Piece := [{ lo := 0, len := 64, tgt := .dev line true mig }]
        if mig ∨ s.memoryHeld ps ∨ s.cutOff (stkOf s.cur) ps then s
        else (s.readDev (stkOf s.cur) (some (sliceOf s.cur)) line 64 true false 0 s.cur).2
      | (_, s) => s)

/-- `clean` (R319). -/
def execClean (a : Nat) (s : State) : Answer :=
  .next (s.withGate [.s a] [] fun s =>
    let va := (s.sval a).toNat
    s.withX va false fun tgt s => s.issueStore .clean va (linePiece tgt 1) [] fun s => (s.popIf [a]).advance 4)

/-- `inval` (R319). -/
def execInval (a : Nat) (s : State) : Answer :=
  .next (s.withGate [.s a] [] fun s =>
    let va := (s.sval a).toNat
    s.withX va false fun tgt s => s.issueStore .inval va (linePiece tgt 1) [] fun s => (s.popIf [a]).advance 4)

/-- `zero` (R320). -/
def execZero (a : Nat) (s : State) : Answer :=
  .next (s.withGate [.s a] [] fun s =>
    let va := (s.sval a).toNat
    if va % 64 ≠ 0 then s.trap 0x03 va
    else s.withX va true fun tgt s =>
      s.issueStore .zero va (linePiece tgt 64) (List.replicate 64 0) fun s => (s.popIf [a]).advance 4)

/-! ## Register fills and channels (R322 to R326) -/

/-- The register that `mkcont` names. -/
def kindDesig : RegKind → Nat → Desig
  | .scalar, n => .s n
  | .vector, n => .v n

/-- `mkcont` (R322). -/
def execMkcont (d a : Nat) (kind : RegKind) (s : State) : Answer :=
  .next (s.withGate [] [.s d, kindDesig kind a] fun s =>
    let c := contOf kind.code a s.cur
    let s := s.modMe fun t =>
      let t := t.setS d (Cell.full (BitVec.ofNat 64 c))
      match kind with
      | .scalar => t.setS a { st := .owed .cont, val := 0, mark := none }
      | .vector => t.setV a { st := .owed .cont, val := 0, mark := none }
    s.advance 4)

/-- What a continuation raises when a thread names it (R17, R19). -/
def State.contFault (s : State) (c : Nat) : Option Nat :=
  if !s.contWf c then some 0x05 else s.epFault s.cur (c % 2 ^ 32)

/-- `send` (R323). -/
def execSend (a b : Nat) (s : State) : Answer :=
  .next (s.withGate [.s a, .s b] [] fun s =>
    let c := (s.sval a).toNat
    match s.contFault c with
    | some cause => s.trap cause c
    | none => s.issueStore (.send c (s.sval b).toNat) 0 [] [] fun s => (s.popIf [a, b]).advance 4)

/-- A setting of a channel end: a neighbour, none or unchanged (R325). -/
def State.endOk (s : State) (x : Nat) : Bool := (decide (x ≤ 8) && x != coreNo s.cur) || x == 15

/-- `qcfg` (R325). -/
def execQcfg (a b : Nat) (s : State) : Answer :=
  .next (s.withGate [.s a, .s b] [] fun s =>
    let u := (s.sval a).toNat
    let d := (s.sval b).toNat
    if !s.endOk u then s.trap 0x01 u
    else if !s.endOk d then s.trap 0x01 d
    else if s.me.roam then s.trapOpen 0x0D
    else if u ≠ 15 ∧ u ≠ s.myCore.up ∧ s.myCore.chan ≠ [] then s.park .qin
    else
      let downBusy : Bool := match s.downCore with
        | some c => s.downLink && (s.core c).chan != []
        | none => false
      if d ≠ 15 ∧ d ≠ s.myCore.down ∧ downBusy then s.park .qout
      else
        let s := if u = 8 then s.freeSpill (coreOf s.cur) else s
        ((s.modMyCore fun c => { c with up := if u = 15 then c.up else u, down := if d = 15 then c.down else d }).popIf
          [a, b]).advance 4)

/-- The status word (R326). -/
def State.channelStatus (s : State) : Nat :=
  let c := s.myCore
  let dn := match s.downCore with | some k => if s.downLink then (s.core k).chan.length else 0 | none => 0
  let un := if s.upLink then c.chan.length else 0
  c.down * 2 ^ 28 + c.up * 2 ^ 24 + (if s.downLink then 2 ^ 23 else 0) + (if s.upLink then 2 ^ 22 else 0) + dn * 2 ^ 9 + un

/-- `qstat` (R326). -/
def execQstat (d : Nat) (s : State) : Answer :=
  .next (if s.me.roam then s.trapOpen 0x0D else s.scalarOp [] d 4 fun s => BitVec.ofNat 64 s.channelStatus)

end Sys2Proof.Machine
end

