-- ==== Sys2Proof/Machine/Fetch.lean ====
section
/-! DEFINITION. Sys2Proof/Machine/Fetch.lean: a turn of a barrel slot up to its instruction (R188, R189, R219 to R221, R243): whether
the slot issues, the image it runs, the words at its offset and what they decode to. -/

namespace Sys2Proof.Machine

/-- The slot holds a thread that may issue: not held, not halted, not escalated, on a mapped core whose clock runs, in a stack
that serves (R186, R188, R193, R200, R395, R423). -/
def State.issues (s : State) (ep : Nat) : Bool :=
  let t := s.thread (thrOf ep)
  t.live && !t.held && !t.halted && t.escal == none && (s.core (coreOf ep)).gated == none && s.epWf ep
    && decide (1 ≤ (s.stack (stkOf ep)).service)

/-- A granted move has begun: the thread stops issuing at its load (R95). -/
def Thread.moving (t : Thread) : Bool :=
  match t.prog with
  | .migrate (some _) .draining _ => true
  | .migrate (some _) .sent _ => true
  | _ => false

/-- The image the thread runs, found again when its slot no longer holds it: by digest and tag (R167), or by digest for a guest
that has just arrived (R96), for a task at its start (R408) and for a stolen continuation, whose record is then checked (R365);
what has no instruction to trap at is killed. An answer is the image with the state, or the turn's end. -/
def State.runningImage (s : State) : Except State (Image × State) :=
  let t := s.me
  let pol := polOf s.cur
  match t.prog with
  | .guest poff =>
    match s.look s.thr t.digest none with
    | (.hit slot im, s) =>
      let pc := if im.tag = t.tag then t.pc else
        match (im.sites.drop im.nsite).find? fun e => e.2 == poff with
        | some e => e.1
        | none => t.pc
      let s := ((s.addUser pol slot).touchImage pol slot).modMe fun t =>
        { t with img := slot, tag := im.tag, pc := pc, prog := .none, wait := .no }
      .ok (im, s)
    | (.miss, s) => .error (s.park (.code t.digest))
    | (.unresolved, s) => .error (s.trap 0x08 0)
  | .start =>
    match s.look s.thr t.digest none with
    | (.hit slot im, s) =>
      let sp := ((t.sreg 30).val.toNat + 2 ^ 64 - im.frame) % 2 ^ 64
      let s := ((s.addUser pol slot).touchImage pol slot).modMe fun t =>
        { t.setS 31 (Cell.full (BitVec.ofNat 64 sp)) with img := slot, tag := im.tag, attrs := im.attrs, prog := .none, wait := .no }
      .ok (im, s)
    | (.miss, s) => .error (s.park (.code t.digest))
    | (.unresolved, s) => .error (s.trap 0x08 0)
  | .stolen rec_ site tag off =>
    match s.look s.thr t.digest none with
    | (.hit slot im, s) =>
      if im.nsite ≤ site then .error (s.killWith s.thr 0x05 rec_)
      else
        let pc := if im.tag = tag then off else (im.sites.getD site (0, 0)).1
        let s := (((s.addUser pol slot).touchImage pol slot).dropFrame pol slot).modMe fun t =>
          { t with img := slot, tag := im.tag, pc := pc, prog := .none, wait := .no }
        .ok (im, s)
    | (.miss, s) => .error (s.park (.code t.digest))
    | (.unresolved, s) => .error (s.killWith s.thr 0x08 rec_)
  | _ =>
    match (s.polder pol).code.find? t.img with
    | some im =>
      if im.digest = t.digest ∧ im.tag = t.tag then .ok (im, s)
      else .error (s.modMe fun t => { t with img := 16, was := t.img })
    | none =>
      match s.look s.thr t.digest (some t.tag) with
      | (.hit slot im, s) =>
        .ok (im, ((s.addUser pol slot).touchImage pol slot).modMe fun t => { t with img := slot, wait := .no })
      | (.miss, s) => .error (s.park (.code t.digest))
      | (.unresolved, s) => .error (s.trap 0x08 0)

/-- What a refused decoding raises, with `c.addr` (R243). -/
def decodeTrap (e : DecodeError) (w w2 : Nat) : Nat × Nat :=
  (match e with | .privileged => 0x02 | _ => 0x01, if twoWords w then w2 * 2 ^ 32 + w else w)

/-- A turn of a slot up to the image whose words it fetches: the image with the state, or the turn's end. -/
def State.fetchImage (s : State) (ep : Nat) : Except State (Image × State) :=
  let s := { s with cur := ep }
  if s.me.live ∧ s.me.swap then .error (s.swapTurn ep)
  else if !s.issues ep then .error s
  else match s.me.prog with
  | .scatter rest epoch hepoch => .error (s.enterLanes rest epoch hepoch)
  | _ =>
    match s.me.late with
    | some m => .error ((s.modMe fun t => { t with late := none }).trapMark m)
    | none =>
      if s.me.entry.isSome then .error s.runEntry
      else if s.me.moving then .error s
      else match s.runningImage with
        | .error s => .error s
        | .ok (im, s) => if !targetOk im.code s.me.pc then .error (s.trap 0x01 s.me.pc) else .ok (im, s)

/-- A turn of a slot up to its instruction: the instruction with the state that runs it, or the turn's end. -/
def State.fetch (s : State) (ep : Nat) : Except State (Instr × State) :=
  match s.fetchImage ep with
  | .error s => .error s
  | .ok (im, s) =>
    let pc := s.me.pc
    let w := codeWord im.code (pc / 4)
    let w2 := codeWord im.code (pc / 4 + 1)
    match decodeFor (slotNo ep == 7) w w2 with
    | .ok i => .ok (i, s)
    | .error e => .error (s.trap (decodeTrap e w w2).1 (decodeTrap e w w2).2)

/-- A turn whose fetch meets a code-store parity error (R169, R176): a kind-10 record with the code-store byte offset of a word whose place
is open (R160), the image's entry is removed, and the thread takes a code fault at its instruction, for that image's tag. (DESIGN CHOICE,
log 84.) -/
def State.parityError (s : State) (ep : Nat) : State :=
  match s.fetchImage ep with
  | .error s => s
  | .ok (_, s) =>
    let word := (Config.openWord (2 * s.fresh)).toNat % 2 ^ 14
    let s := s.logError (stkOf ep) (polIndex (polOf ep) + 4 * word * 2 ^ 16) 10 8 0 1 0 ep
    let s := s.modMe fun t => if t.prog = .unresolved then { t with prog := .none } else t
    match (s.loseImage (polOf ep) s.me.img).runningImage with
    | .ok (_, s) => s
    | .error s => s

/-- A turn that reads an uncorrectable error in its slot's register bank: the thread is killed with cause `POISON` (R432). (DESIGN CHOICE, log 105.) -/
def State.bankError (s : State) (ep : Nat) : State :=
  if (s.thread (thrOf ep)).live then s.kill (thrOf ep) 0x07 else s

/-! ## Twin pairs (R195 to R199) -/

/-- What takes a value from outside the pair besides loads, `qin` and random bits (R196, R327, R361). -/
def fromOutside : Instr → Bool
  | .here .. | .getc .. | .qstat .. | .mwait .. | .mkcont .. | .sol .. => true
  | _ => false

/-- What leaves the pair besides pushes to `qout`: stores, atomics, messages, and what engines, tasks, solicits, barriers and tags are asked
(R197, R327, R361), with the records of calls and the end of a task. -/
def leavesPair : Instr → Bool
  | .st .. | .stRel .. | .stFill .. | .stRelfill .. | .vst .. | .scatter .. | .zero .. | .clean .. | .inval .. => true
  | .mcfg .. | .mmul .. | .mzero .. | .mst .. | .mld .. => true
  | .amoAdd .. | .amoAnd .. | .amoOr .. | .amoXor .. | .amoMin .. | .amoMax .. | .amoMinu .. | .amoMaxu .. => true
  | .amoSwap .. | .amoCas .. | .amoFadd .. | .amoFmax .. | .send .. | .qcfg .. | .vmaxx .. | .setc .. | .sysc .. => true
  | .call .. | .callm .. | .ret .. | .spawn .. | .join .. | .tnew .. | .tdep .. | .trel .. | .tdone .. | .range .. => true
  | .yield .. | .tcancel .. | .tlev .. | .reply .. | .sol .. | .kput .. | .kdel .. | .kmove .. | .kfind .. => true
  | .barinit .. | .arrive .. | .await .. | .barbytes .. | .waitany .. | .waitall .. | .ffr .. | .tagclr .. => true
  | .cpy .. | .cpyrep .. | .cpystat .. | .cpykill .. | .put .. | .get .. | .wpost .. | .wkill .. => true
  | _ => false

/-- A turn of a pair does something that both copies must present: an effect outside the pair, a trap, or its end (R197, R198). -/
def compared (i : Option Instr) (s s' : State) (ep : Nat) : Bool :=
  let t := s.thread (thrOf ep)
  let t' := s'.thread (thrOf ep)
  let pushed : Bool := match s.down? (coreOf ep) with
    | some c => decide ((s.core c).chan.length < (s'.core c).chan.length)
    | none => false
  (match i with | some i => leavesPair i | none => false) || pushed
    || (t.entry.isNone && (t'.entry.isSome || decide (t.level < t'.level))) || (t.escal.isNone && t'.escal.isSome) || !t'.live

/-- A turn of the leading copy takes a value that comes from outside the pair (R196). -/
def queued (i : Option Instr) (s s' : State) (ep : Nat) : Bool :=
  let t := s.thread (thrOf ep)
  let t' := s'.thread (thrOf ep)
  (match i with | some i => fromOutside i | none => false) || decide (t.loadq.length < t'.loadq.length) || t'.gen != t.gen
    || decide ((s'.core (coreOf ep)).chan.length < (s.core (coreOf ep)).chan.length)

/-- The leading copy of a pair has had its turn: its effects and its traps wait for the trailing copy, a seventeenth value waits for a place
in the queue, and an instruction that has issued is ahead of the trailing copy (R196 to R198). (DESIGN CHOICE, log 48.) -/
def State.leads (s s' : State) (ep : Nat) (i : Option Instr) : State :=
  let t := s.thread (thrOf ep)
  let t' := s'.thread (thrOf ep)
  if compared i s s' ep then s
  else if queued i s s' ep ∧ t.lvq.sum = 16 then s
  else if i.isSome ∧ (t'.pc ≠ t.pc ∨ t'.wait = .no) then
    s'.modThread (thrOf ep) fun t => { t with lvq := t.lvq ++ [if queued i s s' ep then 1 else 0] }
  else s'

/-- The trailing copy of a pair issues: an instruction that the leading copy has issued, or, when it is level with it, what waits at the
comparator, which is done once when the copies agree and kills both when they do not (R196 to R198). -/
def State.trails (s s' : State) (ep : Nat) (i : Option Instr) (differs : Bool) : State :=
  match (s.thread (thrOf ep)).lvq with
  | _ :: rest => s.modThread (thrOf ep) fun t => { t with lvq := rest }
  | [] =>
    if !compared i s s' ep then s
    else if differs then s.kill (thrOf ep) 0x11
    else s'

/-- The stack controller places a thread in an empty slot 7 (R188, R193): it starts at a function of the directory with no task, and the
other registers as an empty slot has them. (DESIGN CHOICE, log 107.) -/
def State.placeSystem (s : State) (ep digest : Nat) : State :=
  if slotNo ep ≠ 7 ∨ (s.thread (thrOf ep)).live ∨ !s.epWf ep then s
  else (s.setThread (thrOf ep) { Thread.none with live := true, digest := digest, prog := .start }).modCore (coreOf ep) fun c =>
    { c with gated := none }

/-- A package's counter when `d` ticks pass: steering backwards withholds ticks and never steps the counter back (R90). -/
def Package.pass (p : Package) (d : Nat) : Package :=
  { p with skew := p.skew - Int.ofNat (min p.slow d), slow := p.slow - min p.slow d }

/-- Time goes on and the counter behind free values moves (R90). (DESIGN CHOICE, log 2.) (DESIGN CHOICE, log 89.) -/
def State.tick (s : State) : State :=
  let d := Config.elapsed s.fresh
  { s with time := s.time + d, fresh := s.fresh + 1,
           packages := s.packages.map fun (e : Nat × Package) => (e.1, e.2.pass d) }

/-- A live thread in slot 7 of the first core of the first stack, about to issue the words `w` and `w2`: what the loader, the
scheduler and system software leave before a program's first instruction (log 16). -/
def State.place (s : State) (w w2 : Nat) : State :=
  let im : Image :=
    { digest := 1, tag := 0, transl := false, attrs := 0, frame := 0, code := [BitVec.ofNat 32 w, BitVec.ofNat 32 w2],
      imports := [], pool := [], sites := [], nsite := 0, blocks := 1, users := 1, frames := 0, lastUse := 0, pinned := false }
  let s := s.modStack 0 fun k => { k with service := 2, wiping := 0 }
  let s := s.modPolder 0 fun p => { p with dike := 1, code := [(0, im)] }
  let s := s.modCore 0 fun c => { c with gated := none }
  { s.setThread 7 { Thread.none with live := true, digest := 1 } with agenda := [.issue 14] }

end Sys2Proof.Machine
end

