-- ==== Sys2Proof/Machine/Migrate.lean ====
section
/-! DEFINITION. Sys2Proof/Machine/Migrate.lean: a thread moves to its data (R93 to R98, R118): the reservation of a guest slot, the
router's answer, the drain and the context packet. -/

namespace Sys2Proof.Machine

/-- Where the load at which the issuing slot stands asks to move: the physical address of its data (R93). (DESIGN CHOICE, log 35.) -/
def State.roamTarget (s : State) : Option Nat × State :=
  match s.runningImage with
  | .error _ => (none, s)
  | .ok (im, s) =>
    match decodeFor (slotNo s.cur == 7) (codeWord im.code (s.me.pc / 4)) (codeWord im.code (s.me.pc / 4 + 1)) with
    | .ok (.ld d a sz off) =>
      match s.xlate s.cur (eaOf (s.sval a) off (szBytes sz)) false with
      | (.ok (.dev pa _ true), s) => (if stkOfPa pa ≠ stkOf s.cur ∧ s.mayMigrate d then some pa else none, s)
      | (_, s) => (none, s)
    | _ => (none, s)

/-- Slot 6 of a core stands in its router's map of free guest slots (R94, R415). -/
def State.guestFree (s : State) (core : Nat) : Bool :=
  let g := (s.core core).gang
  let p := s.polder (core / 8)
  s.mapped core && s.slotEmpty (core * 8 + 6) && ((s.slice (core / 256)).guests.find? core).isNone
    && !g.reserved && !g.donor && !g.leader
    && (match p.drain with | some d => d.leader != core | none => true) && !(p.gangs.any fun x => x.2.1 == core)

/-- The lowest-numbered core of a slice with a free guest slot in a polder of the dike (R94). -/
def State.guestCore (s : State) (sl dike : Nat) : Option Nat :=
  ((List.range 256).map fun i => sl * 256 + i).find? fun c =>
    (s.polder (c / 8)).dike == dike && s.dispatches (c / 8) && s.guestFree c

/-- GUEST_RESERVATION (R94): the router of the slice that holds the load's data grants a guest slot or refuses. -/
def execGuestReservation (ep : Nat) (s : State) : Answer :=
  .next (
    let t := s.thread (thrOf ep)
    if !t.live ∨ t.wait ≠ .migrate ∨ t.prog ≠ .none then s
    else
      let c := s.cur
      let (r, s) := State.roamTarget { s with cur := ep }
      let s := { s with cur := c }
      match r with
      | none => s
      | some pa =>
        let sl := proxyDev (stkOfPa pa) pa
        match s.guestCore sl (s.jobOf ep) with
        | some g =>
          let now := s.timeAt (epOf g 6)
          let s := s.modSlice sl fun x => { x with guests := x.guests.insert g (thrOf ep, now) }
          s.modThread (thrOf ep) fun t => { t with prog := .migrate (some (epOf g 6)) .replying (s.polder (polOf ep)).epoch }
        | none => s.modThread (thrOf ep) fun t => { t with prog := .migrate none .replying (s.polder (polOf ep)).epoch })

/-- RESERVATION_REPLY (R94, R95): on a grant the thread stops at its load and drains; on a refusal the load goes on in fetch mode. -/
def execReservationReply (ep : Nat) (s : State) : Answer :=
  .next (
    match (s.thread (thrOf ep)).prog with
    | .migrate none .replying _ => s.modThread (thrOf ep) fun t => { t with prog := .refused, wait := .no }
    | .migrate (some g) .replying e => s.modThread (thrOf ep) fun t => { t with prog := .migrate (some g) .draining e }
    | _ => s)

/-- RESERVATION_EXPIRY (R94): a guest slot whose context has not arrived 10 µs after its grant is free again. -/
def execReservationExpiry (core : Nat) (s : State) : Answer :=
  .next (
    let sl := core / 256
    match (s.slice sl).guests.find? core with
    | some (_, t) => if t + 40000 ≤ s.timeAt (epOf core 6) then s.modSlice sl fun x => { x with guests := x.guests.erase core } else s
    | none => s)

/-- The guest slot is still reserved for the thread, in a polder of its dike. -/
def State.guestHeld (s : State) (thr guest dike : Nat) : Bool :=
  (match (s.slice (sliceOf guest)).guests.find? (coreOf guest) with | some (t, _) => t == thr | none => false)
    && (s.polder (polOf guest)).dike == dike && s.dispatches (polOf guest)

/-- The portable offset of a load in its image (R96, R148). -/
def Image.portable (im : Image) (pc : Nat) : Nat :=
  if im.transl then ((im.sites.drop im.nsite).find? fun e => e.1 == pc).elim pc fun e => e.2 else pc

/-- The 336 bytes of a thread's context (R96). -/
def Thread.context (t : Thread) (poff ep now : Nat) : List Byte :=
  leBytes 32 t.digest ++ leBytes 4 t.pc ++ leBytes 4 poff ++ leBytes 4 t.tag ++ leBytes 4 ep ++ leBytes 8 now ++ leBytes 8 t.task.toNat
    ++ leBytes 8 t.gen.toNat ++ ((List.range 31).flatMap fun i => leBytes 8 (t.sreg (i + 1)).val.toNat)
    ++ ((List.range 7).flatMap fun i => leBytes 1 ((t.preg (i + 1)).val.toNat % 256)) ++ leBytes 1 (if t.roam then 1 else 0)
    ++ leBytes 8 t.seed.toNat

/-- The context packet that a slot sends to a guest slot, and whether its router takes it (R78, R95, R96). -/
def State.contextPacket (s : State) (ep guest : Nat) : List Byte :=
  let t := s.thread (thrOf ep)
  let poff := ((s.polder (polOf ep)).code.find? t.img).elim t.pc fun im => im.portable t.pc
  linkPacket 3 guest ep (t.context poff ep (s.timeAt ep))

/-- MIGRATION_DRAIN_DONE (R95 steps 2 and 3, R118): the slot's stores and older loads have performed; the origin stack writes its far
lines back and the context packet leaves, once the slice's router takes it. A slot whose reservation has gone asks again. -/
def execMigrationDrainDone (ep : Nat) (s : State) : Answer :=
  .next (
    let thr := thrOf ep
    let t := s.thread thr
    match t.prog with
    | .migrate (some g) .draining e =>
      if t.loadq ≠ [] ∨ t.fills ≠ [] ∨ t.late.isSome
          ∨ (s.core (coreOf ep)).sb.any (fun e => e.slot == slotNo ep && e.phase != .performed) then s
      else if !s.guestHeld thr g (s.jobOf ep) then s.modThread thr fun t => { t with prog := .none, wait := .no }
      else if !s.inputReady (sliceOf ep) 4 3 then s
      else ((s.inject (sliceOf ep) (s.contextPacket ep g)).writebackFar (stkOf ep)).modThread thr fun t =>
        { t with prog := .migrate (some g) .sent e, roamTime := s.timeAt ep }
    | _ => s)

/-- What the guest slot takes from a context (R96): the scalars, the predicates' low bytes, `c.task`, `c.seed`, the generator counter, the
digest, the image tag and both offsets of the load; vectors are idle, both trap banks zero. Marks of registers, the task's region,
attributes and kill count go with it. (DESIGN CHOICE, log 36.) -/
def Thread.arrive (t : Thread) (bs : List Byte) (tvec : Nat) : Thread :=
  let w (off : Nat) : W64 := BitVec.ofNat 64 (leAt bs off 8)
  let u : Thread :=
    { t with img := 16, was := t.efnSlot, digest := leAt bs 0 32, pc := leAt bs 32 4, tag := leAt bs 40 4, task := w 56, gen := w 64, seed := w 328,
             s := [], v := [], p := [], bank1 := Bank.zero, bank0 := Bank.zero, tvec := BitVec.ofNat 64 tvec, roam := true,
             wait := .no, prog := .guest (leAt bs 36 4), xfault := Option.none, hgot := [] }
  let u := (List.range 31).foldl (fun u i =>
    u.setS (i + 1) { Cell.full (w (72 + 8 * i)) with mark := (t.sreg (i + 1)).mark }) u
  (List.range 7).foldl (fun u i =>
    u.setP (i + 1) { Cell.full (BitVec.ofNat 32 (leAt bs (320 + i) 1)) with mark := (t.preg (i + 1)).mark }) u

/-- CONTEXT_PACKET_ARRIVAL (R95 steps 4 and 5, R96, R118): the context packet of a slot has reached the guest's slice; the guest slot takes
it and issues the load again, and the origin slot is free. A context whose reservation has gone stays where it is and asks again. -/
def execContextPacketArrival (ep : Nat) (s : State) : Answer :=
  .next (
    let thr := thrOf ep
    let t := s.thread thr
    match t.prog with
    | .migrate (some g) .sent _ =>
      let mine (bs : List Byte) : Bool := leAt bs 60 4 == ep
      let all := (s.slice (sliceOf g)).ctxs
      let s := s.modSlice (sliceOf g) fun x => { x with ctxs := x.ctxs.filter fun bs => !mine bs }
      if !s.guestHeld thr g (s.jobOf ep) then s.modThread thr fun t => { t with prog := .none, wait := .no }
      else match all.find? fun bs => mine bs && leAt bs 64 8 == t.roamTime with
        | none => s
        | some bs =>
          let own := (s.core (coreOf ep)).deque.filter fun e => e.slot == slotNo ep
          let dike := s.jobOf ep
          let s := s.modCore (coreOf ep) fun c => { c with deque := c.deque.filter fun e => e.slot != slotNo ep }
          let s := (s.dropUser (polOf ep) t.img).freeSlot thr
          let s := s.modSlice (sliceOf g) fun x => { x with guests := x.guests.erase (coreOf g) }
          let s := s.setThread (thrOf g) (t.arrive (bs.drop 16) ((s.stack (stkOf g)).dike dike 16 8))
          let s := s.modCore (coreOf g) fun c => { c with gated := none, deque := c.deque ++ own.map fun e => { e with slot := 6 } }
          s.raiseT (stkOf g) t.roamTime
    | _ => s)

end Sys2Proof.Machine
end

