-- ==== Sys2Proof/Machine/Scalar.lean ====
section
/-! DEFINITION. Sys2Proof/Machine/Scalar.lean: integer operations, divisions, immediates and long immediates (R283 to R288). -/

namespace Sys2Proof.Machine

/-- A division (R285): the destination is owed and the divider, or its queue of four, takes it; a sixth parks. -/
def State.divideOp (s : State) (d a b : Nat) (sz : Sz) (f : Nat → Nat → Nat → Nat) : State :=
  s.withGate [.s a, .s b] [.s d] fun s =>
    if 5 ≤ s.myCore.divq.length then s.park .divider
    else
      let e : DivEnt := { slot := slotNo s.cur, dst := d, val := alu sz f (s.sval a) (s.sval b) }
      let s := s.modMyCore fun c => { c with divq := c.divq ++ [e] }
      ((s.modMe fun t => t.setSt (.s d) (.owed .result)).popIf [a, b]).advance 4

/-- `add` (R284). -/
def execAdd (d a b : Nat) (sz : Sz) (s : State) : Answer :=
  .next (s.scalarOp [a, b] d 4 fun s => alu sz opAdd (s.sval a) (s.sval b))

/-- `sub` (R284). -/
def execSub (d a b : Nat) (sz : Sz) (s : State) : Answer :=
  .next (s.scalarOp [a, b] d 4 fun s => alu sz opSub (s.sval a) (s.sval b))

/-- `mul` (R284). -/
def execMul (d a b : Nat) (sz : Sz) (s : State) : Answer :=
  .next (s.scalarOp [a, b] d 4 fun s => alu sz opMul (s.sval a) (s.sval b))

/-- `mulh` (R284). -/
def execMulh (d a b : Nat) (sz : Sz) (s : State) : Answer :=
  .next (s.scalarOp [a, b] d 4 fun s => alu sz opMulh (s.sval a) (s.sval b))

/-- `mulhu` (R284). -/
def execMulhu (d a b : Nat) (sz : Sz) (s : State) : Answer :=
  .next (s.scalarOp [a, b] d 4 fun s => alu sz opMulhu (s.sval a) (s.sval b))

/-- `div` (R285). (DEDUCED, log 87.) -/
def execDiv (d a b : Nat) (sz : Sz) (s : State) : Answer :=
  .next (s.divideOp d a b sz opDiv)

/-- `divu` (R285). -/
def execDivu (d a b : Nat) (sz : Sz) (s : State) : Answer :=
  .next (s.divideOp d a b sz opDivu)

/-- `rem` (R285). -/
def execRem (d a b : Nat) (sz : Sz) (s : State) : Answer :=
  .next (s.divideOp d a b sz opRem)

/-- `remu` (R285). -/
def execRemu (d a b : Nat) (sz : Sz) (s : State) : Answer :=
  .next (s.divideOp d a b sz opRemu)

/-- `and` (R284). -/
def execAnd (d a b : Nat) (s : State) : Answer :=
  .next (s.scalarOp [a, b] d 4 fun s => s.sval a &&& s.sval b)

/-- `or` (R284). -/
def execOr (d a b : Nat) (s : State) : Answer :=
  .next (s.scalarOp [a, b] d 4 fun s => s.sval a ||| s.sval b)

/-- `xor` (R284). -/
def execXor (d a b : Nat) (s : State) : Answer :=
  .next (s.scalarOp [a, b] d 4 fun s => s.sval a ^^^ s.sval b)

/-- `andn` (R284). -/
def execAndn (d a b : Nat) (s : State) : Answer :=
  .next (s.scalarOp [a, b] d 4 fun s => s.sval a &&& ~~~(s.sval b))

/-- `sll` (R284). -/
def execSll (d a b : Nat) (sz : Sz) (s : State) : Answer :=
  .next (s.scalarOp [a, b] d 4 fun s => alu sz opSll (s.sval a) (s.sval b))

/-- `srl` (R284). -/
def execSrl (d a b : Nat) (sz : Sz) (s : State) : Answer :=
  .next (s.scalarOp [a, b] d 4 fun s => alu sz opSrl (s.sval a) (s.sval b))

/-- `sra` (R284). -/
def execSra (d a b : Nat) (sz : Sz) (s : State) : Answer :=
  .next (s.scalarOp [a, b] d 4 fun s => alu sz opSra (s.sval a) (s.sval b))

/-- `rol` (R284). -/
def execRol (d a b : Nat) (sz : Sz) (s : State) : Answer :=
  .next (s.scalarOp [a, b] d 4 fun s => alu sz opRol (s.sval a) (s.sval b))

/-- `ror` (R284). -/
def execRor (d a b : Nat) (sz : Sz) (s : State) : Answer :=
  .next (s.scalarOp [a, b] d 4 fun s => alu sz opRor (s.sval a) (s.sval b))

/-- `min` (R284). -/
def execMin (d a b : Nat) (sz : Sz) (s : State) : Answer :=
  .next (s.scalarOp [a, b] d 4 fun s => alu sz opMin (s.sval a) (s.sval b))

/-- `max` (R284). -/
def execMax (d a b : Nat) (sz : Sz) (s : State) : Answer :=
  .next (s.scalarOp [a, b] d 4 fun s => alu sz opMax (s.sval a) (s.sval b))

/-- `minu` (R284). -/
def execMinu (d a b : Nat) (sz : Sz) (s : State) : Answer :=
  .next (s.scalarOp [a, b] d 4 fun s => alu sz opMinu (s.sval a) (s.sval b))

/-- `maxu` (R284). -/
def execMaxu (d a b : Nat) (sz : Sz) (s : State) : Answer :=
  .next (s.scalarOp [a, b] d 4 fun s => alu sz opMaxu (s.sval a) (s.sval b))

/-- `slt` (R284). -/
def execSlt (d a b : Nat) (sz : Sz) (s : State) : Answer :=
  .next (s.scalarOp [a, b] d 4 fun s => alu sz opSlt (s.sval a) (s.sval b))

/-- `sltu` (R284). -/
def execSltu (d a b : Nat) (sz : Sz) (s : State) : Answer :=
  .next (s.scalarOp [a, b] d 4 fun s => alu sz opSltu (s.sval a) (s.sval b))

/-- `seq` (R284). -/
def execSeq (d a b : Nat) (sz : Sz) (s : State) : Answer :=
  .next (s.scalarOp [a, b] d 4 fun s => alu sz opSeq (s.sval a) (s.sval b))

/-- `clz` (R284). -/
def execClz (d a : Nat) (sz : Sz) (s : State) : Answer :=
  .next (s.scalarOp [a] d 4 fun s => alu sz opClz (s.sval a) 0)

/-- `ctz` (R284). -/
def execCtz (d a : Nat) (sz : Sz) (s : State) : Answer :=
  .next (s.scalarOp [a] d 4 fun s => alu sz opCtz (s.sval a) 0)

/-- `popc` (R284). -/
def execPopc (d a : Nat) (sz : Sz) (s : State) : Answer :=
  .next (s.scalarOp [a] d 4 fun s => alu sz opPopc (s.sval a) 0)

/-- `sext` (R284). -/
def execSext (d a : Nat) (sz : Sz) (s : State) : Answer :=
  .next (s.scalarOp [a] d 4 fun s => opSext sz (s.sval a))

/-- `zext` (R284). -/
def execZext (d a : Nat) (sz : Sz) (s : State) : Answer :=
  .next (s.scalarOp [a] d 4 fun s => opZext sz (s.sval a))

/-- `ixa` (R284). -/
def execIxa (d a b : Nat) (sz : Sz) (s : State) : Answer :=
  .next (s.scalarOp [a, b] d 4 fun s => opIxa sz (s.sval a) (s.sval b))

/-- `bfx` (R286). -/
def execBfx (d a b : Nat) (sz : Sz) (s : State) : Answer :=
  .next (s.scalarOp [a, b] d 4 fun s => alu sz opBfx (s.sval a) (s.sval b))

/-- `bfi` (R286): it reads its destination. -/
def execBfi (d a b : Nat) (sz : Sz) (s : State) : Answer :=
  .next (s.scalarOp [a, b, d] d 4 fun s => alu sz (fun W => opBfi W (low W (s.sval d))) (s.sval a) (s.sval b))

/-- `addi` (R287). -/
def execAddi (d a : Nat) (imm : BitVec 16) (s : State) : Answer :=
  .next (s.scalarOp [a] d 4 fun s => s.sval a + simm imm)

/-- `andi` (R287). -/
def execAndi (d a : Nat) (imm : BitVec 16) (s : State) : Answer :=
  .next (s.scalarOp [a] d 4 fun s => s.sval a &&& zimm imm)

/-- `ori` (R287). -/
def execOri (d a : Nat) (imm : BitVec 16) (s : State) : Answer :=
  .next (s.scalarOp [a] d 4 fun s => s.sval a ||| zimm imm)

/-- `xori` (R287). -/
def execXori (d a : Nat) (imm : BitVec 16) (s : State) : Answer :=
  .next (s.scalarOp [a] d 4 fun s => s.sval a ^^^ zimm imm)

/-- `slti` (R287). -/
def execSlti (d a : Nat) (imm : BitVec 16) (s : State) : Answer :=
  .next (s.scalarOp [a] d 4 fun s => if (s.sval a).slt (simm imm) then 1 else 0)

/-- `sltiu` (R287). -/
def execSltiu (d a : Nat) (imm : BitVec 16) (s : State) : Answer :=
  .next (s.scalarOp [a] d 4 fun s => if (s.sval a).ult (simm imm) then 1 else 0)

/-- `shi` (R287). -/
def execShi (d a : Nat) (op : ShiftOp) (n : Nat) (s : State) : Answer :=
  .next (s.scalarOp [a] d 4 fun s => opShi op (s.sval a) n)

/-- `lih` (R287). -/
def execLih (d : Nat) (imm : BitVec 16) (s : State) : Answer :=
  .next (s.scalarOp [] d 4 fun _ => himm imm)

/-- `addih` (R287). -/
def execAddih (d a : Nat) (imm : BitVec 16) (s : State) : Answer :=
  .next (s.scalarOp [a] d 4 fun s => s.sval a + himm imm)

/-- `muli` (R287). -/
def execMuli (d a : Nat) (imm : BitVec 16) (s : State) : Answer :=
  .next (s.scalarOp [a] d 4 fun s => s.sval a * simm imm)

/-- `limm` (R288). -/
def execLimm (d : Nat) (k : BitVec 32) (s : State) : Answer :=
  .next (s.scalarOp [] d 8 fun _ => k.signExtend 64)

/-- `limmh` (R288): it reads its destination. -/
def execLimmh (d : Nat) (k : BitVec 32) (s : State) : Answer :=
  .next (s.scalarOp [d] d 8 fun s => k.setWidth 64 <<< 32 ||| ((s.sval d).setWidth 32).setWidth 64)

/-- `addl` (R288): it reads its destination. -/
def execAddl (d : Nat) (k : BitVec 32) (s : State) : Answer :=
  .next (s.scalarOp [d] d 8 fun s => s.sval d + k.signExtend 64)

end Sys2Proof.Machine
end

