-- ==== Sys2Proof/Machine/Solicit.lean ====
section
/-! DEFINITION. Sys2Proof/Machine/Solicit.lean: keyed tiles, censuses and moves (R371 to R378, R100, R414). -/

namespace Sys2Proof.Machine

/-! ## Directories (R371, R374) -/

/-- The entries of a directory that are not free, in ascending number. -/
def Polder.entries (p : Polder) : List (Nat × KEnt) := p.kdir

/-- The lowest free entry of a directory of 256. -/
def Polder.freeEntry (p : Polder) : Option Nat := (List.range 256).find? fun i => (p.kdir.find? i).isNone

/-- Changes an entry. -/
def State.setEnt (s : State) (pol i : Nat) (e : KEnt) : State :=
  s.modPolder pol fun p => { p with kdir := p.kdir.put KEnt.free i e }

/-- An entry that is present: valid or moving out. -/
def KEnt.present (e : KEnt) : Bool := e.state == 1 || e.state == 2

/-- A responder that an entry spawned has not ended (R374, R378; DEDUCED, log 19). -/
def Polder.answering (p : Polder) (i : Nat) : Bool := (p.responders.any fun r => r.2 == i) || p.pendResp.any fun r => r.ent == i

/-- A tile may lie in the own-polder scratchpad window or in translated device memory (R374). -/
def tilePlace (va : Nat) (ps : List Piece) : Bool :=
  ps.all fun p => match p.tgt with
    | .dev pa _ _ => region pa == .dram || (region pa == .spad && decide (0xFFFFFFFFF0000000 ≤ va) && decide (va < 0xFFFFFFFFF0010000))
    | _ => false

/-- `kput` (R374). -/
def execKput (a b len : Nat) (s : State) : Answer :=
  .next (s.withGate [.s a, .s b] [] fun s =>
    let key := s.sval a
    let va := (s.sval b).toNat
    if va % 8 ≠ 0 then s.trap 0x03 va
    else s.withPieces va len false fun ps s =>
      if !tilePlace va ps then s.trapOpen 0x05
      else
        let p := s.myPolder
        match p.freeEntry with
        | none => s.trapOpen 0x05
        | some i =>
          if p.entries.any fun e => e.2.present && e.2.key == key && e.2.addr == s.sval b then s.trapOpen 0x05
          else
            let e : KEnt := { key := key, addr := s.sval b, len := len, state := 1, tested := p.openSet }
            ((s.setEnt (polOf s.cur) i e).popIf [a, b]).advance 8)

/-- `kdel` (R374). -/
def execKdel (a b : Nat) (s : State) : Answer :=
  .next (s.withGate [.s a, .s b] [] fun s =>
    let p := s.myPolder
    match p.entries.find? fun e => e.2.present && e.2.key == s.sval a && e.2.addr == s.sval b with
    | none => s.trapOpen 0x05
    | some (i, e) =>
      if e.state = 2 ∨ p.answering i then s.park .unit
      else ((s.setEnt (polOf s.cur) i KEnt.free).popIf [a, b]).advance 8)

/-- `kfind` (R374). -/
def execKfind (d a : Nat) (s : State) : Answer :=
  .next (s.withGate [.s a] [.s d] fun s =>
    let x : W64 := match s.myPolder.entries.find? fun e => e.2.present && e.2.key == s.sval a with
      | some e => e.2.addr
      | none => 0
    ((s.result (.s d) (.s x) true).popIf [a]).advance 8)

/-! ## Opening a census (R375) -/

/-- The polders of a dike inside a scope around an endpoint. -/
def State.scopePolders (s : State) (dike ep : Nat) (scope : Scope) : List Nat :=
  (s.polders.filter fun e => e.2.dike == dike && (match scope with
    | .polder => e.1 == polOf ep
    | .stack => stkOfPol e.1 == stkOf ep
    | .package => stkOfPol e.1 / 4 == pkgOf ep
    | _ => true)).map (·.1)

/-- The lowest-numbered free census slot of a dike (R375, R447). -/
def State.freeCensus (s : State) (dike : Nat) : Option Nat :=
  (List.range 64).find? fun c => (s.census.find? (censusKey dike c)).isNone

/-- `sol` (R375). -/
def execSol (d a b imp : Nat) (scope : Scope) (comb : Comb) (s : State) : Answer :=
  .next (match s.myImage with
    | none => s
    | some im =>
      if im.imports.length ≤ imp then s.trap 0x01 (Instr.sol d a b imp scope comb).wordVal
      else s.withGate [.s a, .s b] [.s d, .s (d + 1)] fun s =>
        s.afterStores fun s =>
          let dike := s.jobOf s.cur
          match s.freeCensus dike with
          | none => s.trap 0x0E 0
          | some c =>
            let pols := s.scopePolders dike s.cur scope
            let (prio, s) := if s.me.task = 0 then (0, s) else s.sysNum (stkOf s.cur) dike (s.me.task.toNat + 2) 1
            let x : Census :=
              { state := 1, key := s.sval a, arg := s.sval b, asker := s.cur, scope := scope, comb := comb,
                digest := im.import? imp, dst := d, expected := pols.length, reported := 0, spawned := 0, done := 0, holds := 0,
                acc := none, time := s.timeAt s.cur, task := s.me.task.toNat, prio := prio % 8, pendDirs := pols, pendAcks := [] }
            let s := { s with census := s.census.insert (censusKey dike c) x }
            let s := s.modMe fun t => (t.setSt (.s d) (.owed .census)).setSt (.s (d + 1)) (.owed .census)
            (s.popIf [a, b]).advance 8)

/-- Whether the thread's task is a responder: byte 59 [4] of its TCB (R404). -/
def State.isResponder (s : State) : Bool × State :=
  if s.me.task = 0 then (false, s)
  else
    let (b, s) := s.sysNum (stkOf s.cur) (s.jobOf s.cur) (s.me.task.toNat + 59) 1
    (b.testBit 4, s)

/-- `reply` (R376): for the f32 combines the value is the low word. -/
def execReply (a : Nat) (s : State) : Answer :=
  .next (s.withGate [.s a] [] fun s =>
    match s.isResponder with
    | (false, s) => s.trapOpen 0x01
    | (true, s) =>
      let dike := s.jobOf s.cur
      let (h, s) := s.sysNum (stkOf s.cur) dike (s.me.task.toNat + 48) 8
      let comb := match s.census.find? (censusKey dike (h % 64)) with | some c => c.comb | none => .count
      let x := s.sval a
      let v : W64 := match comb with
        | .addF32 => (x.setWidth 32).setWidth 64
        | .maxF32 => (x.setWidth 32).setWidth 64
        | .count => 0
        | _ => x
      s.finishTask (some v) false)

/-! ## Responders (R375, R414) -/

/-- Creates a responder in a polder: a TCB of the asker's launch, in the polder's queue of 16 or in the ready queue held to the
polder; none while the pool is empty. -/
def State.createResponder (s : State) (pol : Nat) (r : Responder) : Bool × State :=
  let stk := stkOfPol pol
  let dike := (s.polder pol).dike
  match s.tcbFree stk dike with
  | (none, s) => (false, s)
  | (some h, s) =>
    let ((ltag, graph, phase), s) := if r.task = 0 then ((0, 0, 0), s) else s.tcbLevels stk dike r.task
    let init : TcbInit :=
      { imp := 0xFFFF, prio := r.prio, status := 2, counter := 0,
        regs := [r.key.toNat, r.addr.toNat, r.len, r.arg.toNat, r.asker * 2 ^ 32 + r.slot], ltag := ltag, graph := graph,
        phase := phase, responder := true, ranged := false, digest := r.digest }
    let s := (s.tcbWrite stk dike h init).taskAdded dike (if r.task = 0 then 0 else s.launchOf dike r.task) h
    let s := s.modPolder pol fun p => { p with responders := p.responders ++ [(h, r.ent)] }
    match s.retireIfCancelled stk (pol / 32) dike h with
    | (true, s) => (true, s)
    | (false, s) =>
      let e : ReadyEnt :=
        { task := h, dike := dike, prio := r.prio, release := r.release, index := (s.tcbIndex stk dike h).getD 0, attrs := none,
          polder := some pol, since := s.podTime (stk / 4), wide := false, saved := false,
          ordered := false }
      if (s.polder pol).respQ.length < 16 then (true, s.modPolder pol fun p => { p with respQ := p.respQ ++ [e] })
      else (true, s.modStack stk fun k => { k with ready := k.ready ++ [e] })

/-- Spawns a responder, or holds it until a TCB frees, in spawn order (R414). -/
def State.spawnResponder (s : State) (pol : Nat) (r : Responder) : State :=
  let wait (s : State) : State := s.modPolder pol fun p => { p with pendResp := p.pendResp ++ [r] }
  if (s.polder pol).pendResp ≠ [] then wait s
  else match s.createResponder pol r with
    | (true, s) => s
    | (false, s) => wait s

/-- The responder that a census spawns for an entry. -/
def Census.responder (x : Census) (c i : Nat) (e : KEnt) : Responder :=
  { task := x.task, asker := x.asker, slot := c, ent := i, key := e.key, addr := e.addr, len := e.len, arg := x.arg,
    digest := x.digest, prio := x.prio, release := x.time }

/-- PENDING_RESPONDER_CREATE (R414): the oldest pending responder of a polder is created once a TCB is free. -/
def execPendingResponderCreate (pol : Nat) (s : State) : Answer :=
  match (s.polder pol).pendResp with
  | [] => .next s
  | r :: rest =>
    match s.createResponder pol r with
    | (true, s) => .next (s.modPolder pol fun p => { p with pendResp := rest })
    | (false, s) => .next s

/-- RESPONDER_WIDEN (R414): responders held for 100 µs in a stack's ready queue may run on any core of their slice. -/
def execResponderWiden (stk : Nat) (s : State) : Answer :=
  let now := s.podTime (stk / 4)
  .next (s.modStack stk fun k =>
    { k with ready := k.ready.map fun e =>
        if e.polder.isSome ∧ e.since + 400000 ≤ now then { e with wide := true } else e })

/-! ## A census at a directory (R375, R378) -/

/-- A move passes through a directory between steps 1 and 5. -/
def State.movesThrough (s : State) (pol : Nat) : List (Nat × Nat) :=
  s.polders.flatMap fun e => (e.2.moves.zipIdx.filter fun m => e.1 == pol || m.1.dst == pol).map fun m => (e.1, m.2)

/-- Notes a hold of a census at a move. (DEDUCED, log 61.) -/
def State.holdMove (s : State) (pol i c : Nat) : State :=
  s.modPolder pol fun p =>
    { p with moves := modNth i (fun m => { m with held := m.held ++ [c] }) p.moves }

/-- Registers holds for the moves through a directory that do not yet hold a census; how many. -/
def State.registerHolds (s : State) (pol c : Nat) : Nat × State :=
  (s.movesThrough pol).foldl (fun (acc : Nat × State) m =>
    match (acc.2.polder m.1).moves[m.2]? with
    | some mv => if mv.held.contains c then acc else (acc.1 + 1, acc.2.holdMove m.1 m.2 c)
    | none => acc) (0, s)

/-- One entry meets a census: its bit is set, and a matching key spawns; the count of responders goes along (R375). -/
def State.meet (s : State) (pol c : Nat) (x : Census) (e : Nat × KEnt) : Nat × State :=
  if !e.2.present ∨ e.2.tested.getLsbD c then (0, s)
  else
    let s := s.setEnt pol e.1 { e.2 with tested := e.2.tested ||| (1#64 <<< c) }
    if e.2.key = x.key then (1, s.spawnResponder pol (x.responder c e.1 e.2)) else (0, s)

/-- CENSUS_DIRECTORY_PROCESS (R375): a directory of the scope processes census `c` of its dike once. -/
def execCensusDirectoryProcess (pol c : Nat) (s : State) : Answer :=
  let dike := (s.polder pol).dike
  match s.census.find? (censusKey dike c) with
  | none => .next s
  | some x =>
    if !(x.pendDirs.contains pol) then .next s
    else
      let (n, s) := (s.polder pol).entries.foldl (fun (acc : Nat × State) e =>
        let (k, s) := acc.2.meet pol c x e
        (acc.1 + k, s)) (0, s)
      let s := s.modPolder pol fun p => { p with openSet := p.openSet ||| (1#64 <<< c) }
      let (h, s) := s.registerHolds pol c
      let x := { x with pendDirs := x.pendDirs.erase pol, holds := x.holds + Int.ofNat h }
      let s := { s with census := s.census.insert (censusKey dike c) x }
      .next (s.censusSend (pol / 32)
        { dike := dike, slot := c, asker := x.asker, comb := x.comb, val := none, done := 0, spawned := n, reported := 1, holds := 0 })

/-! ## Packets and completion (R100, R377) -/

/-- The nodes that are no routers: a stack's four sluices and a package's transit node. (DESIGN CHOICE, log 59.) -/
def sluiceNode (stk edge : Nat) : Nat := stk * 256 + 200 + edge
def transitNode (pkg : Nat) : Nat := pkg * 4 * 256 + 204

/-- Where a census packet goes from a node: to the asker's census unit, to another node, or nowhere, by a failed port (R88). -/
inductive CensusHop where
  | unit
  | node (n : Nat)
  | lost
  deriving DecidableEq, Repr

/-- The sluice by which a packet leaves a package's transit path. -/
def departure (pkg dstPkg : Nat) : CensusHop :=
  match torusPort pkg dstPkg with
  | some p => .node (sluiceNode (pkg * 4 + (portSluice p).1) (portSluice p).2)
  | none => .lost

/-- The next node of a census packet on the route of R77 and R82 to its asker. -/
def State.censusNext (s : State) (n asker : Nat) : CensusHop :=
  let dst := sliceOf asker
  let stk := n / 256
  let edge := n % 256 - 200
  if n % 256 = 204 then departure (stk / 4) (dst / 1024)
  else if n % 256 < 200 then
    if dst / 256 = stk then (match meshStep n dst with | some (m, _) => .node m | none => .unit)
    else
      let e := exitEdge stk (dst / 256)
      match meshStep n (stk * 256 + sluiceSlice e) with | some (m, _) => .node m | none => .node (sluiceNode stk e)
  else if dst / 256 = stk then .node (stk * 256 + sluiceSlice edge)
  else match torusPort (stk / 4) (dst / 1024) with
    | none => .node (sluiceNode (dst / 256) (bridgeEdge (dst / 256) stk))
    | some p =>
      if portSluice p ≠ (stk % 4, edge) then .node (transitNode (stk / 4))
      else
        let far := torusNext (stk / 4) p
        let failed (pkg port : Nat) : Bool := ((s.package pkg).ports.getD port Port.reset).state == .failed
        if failed (stk / 4) p ∨ failed far (facing p) then .lost
        else .node (sluiceNode (far * 4 + (portSluice (facing p)).1) (portSluice (facing p)).2)

/-- A census packet goes on from a node. -/
def State.censusHop (s : State) (n : Nat) (p : CensusPkt) : State :=
  match s.censusNext n p.asker with
  | .unit => s.modStack (stkOf p.asker) fun k => { k with creports := k.creports ++ [p] }
  | .node m => s.censusSend m p
  | .lost => s

/-- CENSUS_PACKET_COMBINE (R100): the oldest packet at a node merges, takes a free entry of 16, or passes. -/
def execCensusPacketCombine (sl : Nat) (s : State) : Answer :=
  match (s.slice sl).cin with
  | [] => .next s
  | p :: rest =>
    let s := s.modSlice sl fun x => { x with cin := rest }
    let tbl := (s.slice sl).comb
    if tbl.any fun q => q.same p then
      .next (s.modSlice sl fun x => { x with comb := x.comb.map fun q => if q.same p then q.merge p else q })
    else if tbl.length < 16 then .next (s.modSlice sl fun x => { x with comb := x.comb ++ [p] })
    else .next (s.censusHop sl p)

/-- COMBINE_ENTRY_FORWARD (R100): a node's oldest entry goes on toward the asker. -/
def execCombineEntryForward (sl : Nat) (s : State) : Answer :=
  match (s.slice sl).comb with
  | [] => .next s
  | p :: rest =>
    .next ((s.modSlice sl fun x => { x with comb := rest }).censusHop sl p)

/-- The value of a census without contributions (R377). -/
def combIdentity : Comb → W64
  | .addI64 => 0
  | .maxI64 => BitVec.ofNat 64 (2 ^ 63)
  | .minI64 => BitVec.ofNat 64 (2 ^ 63 - 1)
  | .orI64 => 0
  | .addF32 => 0
  | .maxF32 => 0xFF800000
  | .count => 0

/-- A census completes: one fill of two registers, then the broadcast to every directory of the dike (R123, R377). -/
def State.completeCensus (s : State) (dike c : Nat) (x : Census) : State :=
  let dirs := (s.polders.filter fun e => e.2.dike == dike).map (·.1)
  let s := { s with census := s.census.insert (censusKey dike c) { x with state := 2, pendAcks := dirs } }
  s.fillArrives { ep := x.asker, dst := .s x.dst, val := x.acc.getD (combIdentity x.comb), val2 := BitVec.ofNat 64 x.done,
                  due := .census, mark := none, time := s.timeAt x.asker, cross := false }

/-- CENSUS_REPORT (R377): the census unit of a stack adds the oldest packet; the census completes when its counts agree and
nothing holds it. -/
def execCensusReport (stk : Nat) (s : State) : Answer :=
  match (s.stack stk).creports with
  | [] => .next s
  | p :: rest =>
    let s := s.modStack stk fun k => { k with creports := rest }
    match s.census.find? (censusKey p.dike p.slot) with
    | none => .next s
    | some x =>
      if x.state ≠ 1 ∨ x.asker ≠ p.asker then .next s
      else
        let x := { x with reported := x.reported + p.reported, spawned := x.spawned + p.spawned, done := x.done + p.done,
                          holds := x.holds + p.holds, acc := combineOpt x.comb x.acc p.val }
        if x.reported = x.expected ∧ x.done = x.spawned ∧ x.holds = 0 then .next (s.completeCensus p.dike p.slot x)
        else .next { s with census := s.census.insert (censusKey p.dike p.slot) x }

/-- CENSUS_COMPLETION_BROADCAST (R377): a directory clears bit `c` and acknowledges. -/
def execCensusCompletionBroadcast (pol c : Nat) (s : State) : Answer :=
  let dike := (s.polder pol).dike
  match s.census.find? (censusKey dike c) with
  | none => .next s
  | some x =>
    if x.state ≠ 2 ∨ !(x.pendAcks.contains pol) then .next s
    else
      let s := s.modPolder pol fun p =>
        { p with openSet := p.openSet &&& ~~~(1#64 <<< c),
                 kdir := p.kdir.map fun e => (e.1, { e.2 with tested := e.2.tested &&& ~~~(1#64 <<< c) }) }
      .next { s with census := s.census.insert (censusKey dike c) { x with pendAcks := x.pendAcks.erase pol } }

/-- CENSUS_SLOT_FREE (R377): every directory has acknowledged. -/
def execCensusSlotFree (dike c : Nat) (s : State) : Answer :=
  match s.census.find? (censusKey dike c) with
  | none => .next s
  | some x =>
    if x.state = 2 ∧ x.pendAcks = [] then .next { s with census := s.census.erase (censusKey dike c) } else .next s

/-! ## Moves (R378) -/

/-- What naming a polder by an endpoint raises: only its package, stack, slice and polder fields count (R378, R17). -/
def State.polderFault (s : State) (ep : Nat) : Option Nat :=
  if 2 ^ 32 ≤ ep ∨ 160 ≤ sliceNo ep ∨ ep % 2 = 1 then some 0x05
  else if (s.polder (polOf ep)).dike ≠ s.jobOf s.cur ∨ s.jobOf s.cur = 0 then some 0x06
  else none

/-- The open censuses of a dike whose scope contains one of two polders. -/
def State.censusesOver (s : State) (dike p q : Nat) : List Nat :=
  (List.range 64).filter fun c => match s.census.find? (censusKey dike c) with
    | some x => x.state == 1 && (s.scopePolders dike x.asker x.scope).any fun r => r == p || r == q
    | none => false

/-- A hold at each of some censuses. -/
def State.addHolds (s : State) (dike : Nat) (cs : List Nat) : State :=
  cs.foldl (fun s c => match s.census.find? (censusKey dike c) with
    | some x => { s with census := s.census.insert (censusKey dike c) { x with holds := x.holds + 1 } }
    | none => s) s

/-- `kmove` (R378): the checks and step 1; the rest follows in KMOVE_HOLD_ACK and KMOVE_COMMIT. -/
def execKmove (a b : Nat) (s : State) : Answer :=
  .next (match s.me.prog with
    | .kmove => s.park .unit
    | _ =>
      s.withGate [.s a, .s b] [] fun s =>
        let ep := (s.sval b).toNat
        let src := polOf s.cur
        let dst := polOf ep
        let dike := s.jobOf s.cur
        match s.polderFault ep with
        | some cause => s.trap cause ep
        | none =>
          match s.myPolder.entries.find? fun e => e.2.present && e.2.addr == s.sval a with
          | none => s.trap 0x05 (s.sval a).toNat
          | some (i, e) =>
            if e.state = 2 then s.park .unit
            else if dst = src then (s.popIf [a, b]).advance 8
            else match (s.polder dst).freeEntry with
              | none => s.trap 0x05 ep
              | some j =>
                if (List.range 64).any fun c => (match s.census.find? (censusKey dike c) with
                    | some x => x.state == 2
                    | none => false) then s.park .census
                else
                  let cs := s.censusesOver dike src dst
                  let s := (s.setEnt src i { e with state := 2 }).setEnt dst j { KEnt.free with state := 3 }
                  let m : Move := { thr := s.thr, src := i, dst := dst, dstEnt := j, held := cs, acked := false }
                  let s := (s.addHolds dike cs).modMyPolder fun p => { p with moves := p.moves ++ [m] }
                  ((s.popIf [a, b]).modMe fun t => { t with prog := .kmove }).park .unit)

/-- The offset of a tile in the own-polder scratchpad window. -/
def spadTile (va : Nat) : Option Nat :=
  if 0xFFFFFFFFF0000000 ≤ va ∧ va < 0xFFFFFFFFF0010000 then some (va - 0xFFFFFFFFF0000000) else none

/-- KMOVE_HOLD_ACK (R378): every open census has acknowledged the hold of a polder's move `i`, and a scratchpad tile is
copied with its poison; the words' full and empty bits stay. (DEDUCED, log 110.) -/
def execKmoveHoldAck (pol i : Nat) (s : State) : Answer :=
  match (s.polder pol).moves[i]? with
  | none => .next s
  | some m =>
    if m.acked then .next s
    else
      let e := (s.polder pol).kdir.getD m.src KEnt.free
      let s := match spadTile e.addr.toNat with
        | some off =>
          let bad := (List.range e.len).filter fun k => s.poisoned (spadPa pol (off + k))
          let s := s.setBytes (spadPa m.dst off) (s.bytes (spadPa pol off) e.len)
          let whole := (List.range e.len).filter fun k => (off + k) % 4 == 0 && decide (k + 4 ≤ e.len)
          let s := whole.foldl (fun (s : State) k => s.clearPoison (spadPa m.dst (off + k))) s
          bad.foldl (fun (s : State) k => s.setPoison (spadPa m.dst (off + k))) s
        | none => s
      .next (s.modPolder pol fun p =>
        { p with moves := modNth i (fun m => { m with acked := true }) p.moves })

/-- The late responders of step 4: open censuses whose key matches while the tile's bit is clear. -/
def State.lateResponders (s : State) (dst j : Nat) : List (Nat × Nat) × State :=
  let dike := (s.polder dst).dike
  (List.range 64).foldl (fun (acc : List (Nat × Nat) × State) c =>
    let s := acc.2
    let e := (s.polder dst).kdir.getD j KEnt.free
    match s.census.find? (censusKey dike c) with
    | some x =>
      if (s.polder dst).openSet.getLsbD c ∧ x.key = e.key ∧ !e.tested.getLsbD c then
        let (n, s) := s.meet dst c x (j, e)
        (acc.1 ++ [(c, n)], s)
      else acc
    | none => acc) ([], s)

/-- KMOVE_COMMIT (R378, steps 3 to 5): no responder of the source entry is left; the destination entry becomes valid, the source
entry free, late responders run and the holds go. -/
def execKmoveCommit (pol i : Nat) (s : State) : Answer :=
  match (s.polder pol).moves[i]? with
  | none => .next s
  | some m =>
    if !m.acked ∨ (s.polder pol).answering m.src then .next s
    else
      let dike := (s.polder pol).dike
      let e := (s.polder pol).kdir.getD m.src KEnt.free
      let s := (s.setEnt m.dst m.dstEnt { e with state := 1 }).setEnt pol m.src KEnt.free
      let (late, s) := s.lateResponders m.dst m.dstEnt
      let cs := m.held ++ (late.map (·.1)).filter fun c => !m.held.contains c
      let s := cs.foldl (fun s c =>
        match s.census.find? (censusKey dike c) with
        | some x =>
          s.censusSend (m.dst / 32)
            { dike := dike, slot := c, asker := x.asker, comb := x.comb, val := none, done := 0,
              spawned := match late.find? fun l => l.1 == c with | some l => l.2 | none => 0,
              reported := 0, holds := -(Int.ofNat (m.held.filter (· == c)).length) }
        | none => s) s
      let s := s.modPolder pol fun p => { p with moves := (p.moves.zipIdx.filter fun x => x.2 != i).map (·.1) }
      if (s.thread m.thr).live ∧ (s.thread m.thr).prog = .kmove then
        .next (s.asSlot (m.thr * 2) fun s => s.advance 8)
      else .next s

end Sys2Proof.Machine
end

