-- ==== Sys2Proof/Machine/Dispatch.lean ====
section
/-! DEFINITION. Sys2Proof/Machine/Dispatch.lean: one arm per constructor of `Instr`, each one direct call of its meaning. -/

namespace Sys2Proof.Machine

/-- What an instruction or an event does to the machine. -/
def exec (i : Instr) (s : State) : Host.Outcome State Fault Refusal :=
  match i with
  | .add d a b sz => Sys2Proof.Machine.execAdd d a b sz s
  | .sub d a b sz => Sys2Proof.Machine.execSub d a b sz s
  | .mul d a b sz => Sys2Proof.Machine.execMul d a b sz s
  | .mulh d a b sz => Sys2Proof.Machine.execMulh d a b sz s
  | .mulhu d a b sz => Sys2Proof.Machine.execMulhu d a b sz s
  | .div d a b sz => Sys2Proof.Machine.execDiv d a b sz s
  | .divu d a b sz => Sys2Proof.Machine.execDivu d a b sz s
  | .rem d a b sz => Sys2Proof.Machine.execRem d a b sz s
  | .remu d a b sz => Sys2Proof.Machine.execRemu d a b sz s
  | .and d a b => Sys2Proof.Machine.execAnd d a b s
  | .or d a b => Sys2Proof.Machine.execOr d a b s
  | .xor d a b => Sys2Proof.Machine.execXor d a b s
  | .andn d a b => Sys2Proof.Machine.execAndn d a b s
  | .sll d a b sz => Sys2Proof.Machine.execSll d a b sz s
  | .srl d a b sz => Sys2Proof.Machine.execSrl d a b sz s
  | .sra d a b sz => Sys2Proof.Machine.execSra d a b sz s
  | .rol d a b sz => Sys2Proof.Machine.execRol d a b sz s
  | .ror d a b sz => Sys2Proof.Machine.execRor d a b sz s
  | .min d a b sz => Sys2Proof.Machine.execMin d a b sz s
  | .max d a b sz => Sys2Proof.Machine.execMax d a b sz s
  | .minu d a b sz => Sys2Proof.Machine.execMinu d a b sz s
  | .maxu d a b sz => Sys2Proof.Machine.execMaxu d a b sz s
  | .slt d a b sz => Sys2Proof.Machine.execSlt d a b sz s
  | .sltu d a b sz => Sys2Proof.Machine.execSltu d a b sz s
  | .seq d a b sz => Sys2Proof.Machine.execSeq d a b sz s
  | .clz d a sz => Sys2Proof.Machine.execClz d a sz s
  | .ctz d a sz => Sys2Proof.Machine.execCtz d a sz s
  | .popc d a sz => Sys2Proof.Machine.execPopc d a sz s
  | .sext d a sz => Sys2Proof.Machine.execSext d a sz s
  | .zext d a sz => Sys2Proof.Machine.execZext d a sz s
  | .ixa d a b sz => Sys2Proof.Machine.execIxa d a b sz s
  | .bfx d a b sz => Sys2Proof.Machine.execBfx d a b sz s
  | .bfi d a b sz => Sys2Proof.Machine.execBfi d a b sz s
  | .addi d a imm => Sys2Proof.Machine.execAddi d a imm s
  | .andi d a imm => Sys2Proof.Machine.execAndi d a imm s
  | .ori d a imm => Sys2Proof.Machine.execOri d a imm s
  | .xori d a imm => Sys2Proof.Machine.execXori d a imm s
  | .slti d a imm => Sys2Proof.Machine.execSlti d a imm s
  | .sltiu d a imm => Sys2Proof.Machine.execSltiu d a imm s
  | .shi d a op n => Sys2Proof.Machine.execShi d a op n s
  | .lih d imm => Sys2Proof.Machine.execLih d imm s
  | .addih d a imm => Sys2Proof.Machine.execAddih d a imm s
  | .muli d a imm => Sys2Proof.Machine.execMuli d a imm s
  | .limm d k => Sys2Proof.Machine.execLimm d k s
  | .limmh d k => Sys2Proof.Machine.execLimmh d k s
  | .addl d k => Sys2Proof.Machine.execAddl d k s
  | .br cc a b disp => Sys2Proof.Machine.execBr cc a b disp s
  | .jmp disp => Sys2Proof.Machine.execJmp disp s
  | .jr a => Sys2Proof.Machine.execJr a s
  | .ret => Sys2Proof.Machine.execRet s
  | .callm p n => Sys2Proof.Machine.execCallm p n s
  | .tailm p n => Sys2Proof.Machine.execTailm p n s
  | .here d => Sys2Proof.Machine.execHere d s
  | .call site imp => Sys2Proof.Machine.execCall site imp s
  | .tail site imp => Sys2Proof.Machine.execTail site imp s
  | .rpt len a str => Sys2Proof.Machine.execRpt len a str s
  | .trap imm => Sys2Proof.Machine.execTrap imm s
  | .ld d a sz off => Sys2Proof.Machine.execLd d a sz off s
  | .ldAcq d a sz off => Sys2Proof.Machine.execLdAcq d a sz off s
  | .ldSync d a sz off => Sys2Proof.Machine.execLdSync d a sz off s
  | .ldTake d a sz off => Sys2Proof.Machine.execLdTake d a sz off s
  | .st d a sz off => Sys2Proof.Machine.execSt d a sz off s
  | .stRel d a sz off => Sys2Proof.Machine.execStRel d a sz off s
  | .stFill d a sz off => Sys2Proof.Machine.execStFill d a sz off s
  | .stRelfill d a sz off => Sys2Proof.Machine.execStRelfill d a sz off s
  | .vld vd a pr off => Sys2Proof.Machine.execVld vd a pr off s
  | .vldBc32 vd a pr off => Sys2Proof.Machine.execVldBc32 vd a pr off s
  | .vldBc16 vd a pr off => Sys2Proof.Machine.execVldBc16 vd a pr off s
  | .vldBc8 vd a pr off => Sys2Proof.Machine.execVldBc8 vd a pr off s
  | .vst vd a pr off => Sys2Proof.Machine.execVst vd a pr off s
  | .gather vd va b sc pr => Sys2Proof.Machine.execGather vd va b sc pr s
  | .scatter vd va b sc pr => Sys2Proof.Machine.execScatter vd va b sc pr s
  | .amoAdd d a b sz => Sys2Proof.Machine.execAmoAdd d a b sz s
  | .amoAnd d a b sz => Sys2Proof.Machine.execAmoAnd d a b sz s
  | .amoOr d a b sz => Sys2Proof.Machine.execAmoOr d a b sz s
  | .amoXor d a b sz => Sys2Proof.Machine.execAmoXor d a b sz s
  | .amoMin d a b sz => Sys2Proof.Machine.execAmoMin d a b sz s
  | .amoMax d a b sz => Sys2Proof.Machine.execAmoMax d a b sz s
  | .amoMinu d a b sz => Sys2Proof.Machine.execAmoMinu d a b sz s
  | .amoMaxu d a b sz => Sys2Proof.Machine.execAmoMaxu d a b sz s
  | .amoSwap d a b sz => Sys2Proof.Machine.execAmoSwap d a b sz s
  | .amoCas d a b sz => Sys2Proof.Machine.execAmoCas d a b sz s
  | .amoFadd d a b => Sys2Proof.Machine.execAmoFadd d a b s
  | .amoFmax d a b => Sys2Proof.Machine.execAmoFmax d a b s
  | .fence scope => Sys2Proof.Machine.execFence scope s
  | .pf a => Sys2Proof.Machine.execPf a s
  | .clean a => Sys2Proof.Machine.execClean a s
  | .inval a => Sys2Proof.Machine.execInval a s
  | .zero a => Sys2Proof.Machine.execZero a s
  | .mkcont d a kind => Sys2Proof.Machine.execMkcont d a kind s
  | .send a b => Sys2Proof.Machine.execSend a b s
  | .qcfg a b => Sys2Proof.Machine.execQcfg a b s
  | .qstat d => Sys2Proof.Machine.execQstat d s
  | .vf32Add vd va vb pr => Sys2Proof.Machine.execVf32Add vd va vb pr s
  | .vf32Sub vd va vb pr => Sys2Proof.Machine.execVf32Sub vd va vb pr s
  | .vf32Mul vd va vb pr => Sys2Proof.Machine.execVf32Mul vd va vb pr s
  | .vf32Fma vd va vb vc pr => Sys2Proof.Machine.execVf32Fma vd va vb vc pr s
  | .vf32Fms vd va vb vc pr => Sys2Proof.Machine.execVf32Fms vd va vb vc pr s
  | .vf32Fnma vd va vb vc pr => Sys2Proof.Machine.execVf32Fnma vd va vb vc pr s
  | .vf32Min vd va vb pr => Sys2Proof.Machine.execVf32Min vd va vb pr s
  | .vf32Max vd va vb pr => Sys2Proof.Machine.execVf32Max vd va vb pr s
  | .vf32Abs vd va pr => Sys2Proof.Machine.execVf32Abs vd va pr s
  | .vf32Neg vd va pr => Sys2Proof.Machine.execVf32Neg vd va pr s
  | .vf32Cmpeq vd va vb pr => Sys2Proof.Machine.execVf32Cmpeq vd va vb pr s
  | .vf32Cmplt vd va vb pr => Sys2Proof.Machine.execVf32Cmplt vd va vb pr s
  | .vf32Cmple vd va vb pr => Sys2Proof.Machine.execVf32Cmple vd va vb pr s
  | .vf32Rcp vd va pr => Sys2Proof.Machine.execVf32Rcp vd va pr s
  | .vf32Rsqrt vd va pr => Sys2Proof.Machine.execVf32Rsqrt vd va pr s
  | .vf32Sqrt vd va pr => Sys2Proof.Machine.execVf32Sqrt vd va pr s
  | .vf32Exp2 vd va pr => Sys2Proof.Machine.execVf32Exp2 vd va pr s
  | .vf32Log2 vd va pr => Sys2Proof.Machine.execVf32Log2 vd va pr s
  | .vf32Tanh vd va pr => Sys2Proof.Machine.execVf32Tanh vd va pr s
  | .vf32Sig vd va pr => Sys2Proof.Machine.execVf32Sig vd va pr s
  | .vbf16Add vd va vb pr => Sys2Proof.Machine.execVbf16Add vd va vb pr s
  | .vbf16Sub vd va vb pr => Sys2Proof.Machine.execVbf16Sub vd va vb pr s
  | .vbf16Mul vd va vb pr => Sys2Proof.Machine.execVbf16Mul vd va vb pr s
  | .vbf16Fma vd va vb vc pr => Sys2Proof.Machine.execVbf16Fma vd va vb vc pr s
  | .vbf16Fms vd va vb vc pr => Sys2Proof.Machine.execVbf16Fms vd va vb vc pr s
  | .vbf16Fnma vd va vb vc pr => Sys2Proof.Machine.execVbf16Fnma vd va vb vc pr s
  | .vbf16Min vd va vb pr => Sys2Proof.Machine.execVbf16Min vd va vb pr s
  | .vbf16Max vd va vb pr => Sys2Proof.Machine.execVbf16Max vd va vb pr s
  | .vbf16Abs vd va pr => Sys2Proof.Machine.execVbf16Abs vd va pr s
  | .vbf16Neg vd va pr => Sys2Proof.Machine.execVbf16Neg vd va pr s
  | .vbf16Cmpeq vd va vb pr => Sys2Proof.Machine.execVbf16Cmpeq vd va vb pr s
  | .vbf16Cmplt vd va vb pr => Sys2Proof.Machine.execVbf16Cmplt vd va vb pr s
  | .vbf16Cmple vd va vb pr => Sys2Proof.Machine.execVbf16Cmple vd va vb pr s
  | .vf16Add vd va vb pr => Sys2Proof.Machine.execVf16Add vd va vb pr s
  | .vf16Sub vd va vb pr => Sys2Proof.Machine.execVf16Sub vd va vb pr s
  | .vf16Mul vd va vb pr => Sys2Proof.Machine.execVf16Mul vd va vb pr s
  | .vf16Fma vd va vb vc pr => Sys2Proof.Machine.execVf16Fma vd va vb vc pr s
  | .vf16Fms vd va vb vc pr => Sys2Proof.Machine.execVf16Fms vd va vb vc pr s
  | .vf16Fnma vd va vb vc pr => Sys2Proof.Machine.execVf16Fnma vd va vb vc pr s
  | .vf16Min vd va vb pr => Sys2Proof.Machine.execVf16Min vd va vb pr s
  | .vf16Max vd va vb pr => Sys2Proof.Machine.execVf16Max vd va vb pr s
  | .vf16Abs vd va pr => Sys2Proof.Machine.execVf16Abs vd va pr s
  | .vf16Neg vd va pr => Sys2Proof.Machine.execVf16Neg vd va pr s
  | .vf16Cmpeq vd va vb pr => Sys2Proof.Machine.execVf16Cmpeq vd va vb pr s
  | .vf16Cmplt vd va vb pr => Sys2Proof.Machine.execVf16Cmplt vd va vb pr s
  | .vf16Cmple vd va vb pr => Sys2Proof.Machine.execVf16Cmple vd va vb pr s
  | .vintAdd vd va vb pr ty => Sys2Proof.Machine.execVintAdd vd va vb pr ty s
  | .vintSub vd va vb pr ty => Sys2Proof.Machine.execVintSub vd va vb pr ty s
  | .vintMul vd va vb pr ty => Sys2Proof.Machine.execVintMul vd va vb pr ty s
  | .vintMad vd va vb vc pr ty => Sys2Proof.Machine.execVintMad vd va vb vc pr ty s
  | .vintMin vd va vb pr ty => Sys2Proof.Machine.execVintMin vd va vb pr ty s
  | .vintMax vd va vb pr ty => Sys2Proof.Machine.execVintMax vd va vb pr ty s
  | .vintMinu vd va vb pr ty => Sys2Proof.Machine.execVintMinu vd va vb pr ty s
  | .vintMaxu vd va vb pr ty => Sys2Proof.Machine.execVintMaxu vd va vb pr ty s
  | .vintAnd vd va vb pr ty => Sys2Proof.Machine.execVintAnd vd va vb pr ty s
  | .vintOr vd va vb pr ty => Sys2Proof.Machine.execVintOr vd va vb pr ty s
  | .vintXor vd va vb pr ty => Sys2Proof.Machine.execVintXor vd va vb pr ty s
  | .vintSll vd va vb pr ty => Sys2Proof.Machine.execVintSll vd va vb pr ty s
  | .vintSrl vd va vb pr ty => Sys2Proof.Machine.execVintSrl vd va vb pr ty s
  | .vintSra vd va vb pr ty => Sys2Proof.Machine.execVintSra vd va vb pr ty s
  | .vintCmpeq vd va vb pr ty => Sys2Proof.Machine.execVintCmpeq vd va vb pr ty s
  | .vintCmplt vd va vb pr ty => Sys2Proof.Machine.execVintCmplt vd va vb pr ty s
  | .vintCmpltu vd va vb pr ty => Sys2Proof.Machine.execVintCmpltu vd va vb pr ty s
  | .vintAbs vd va pr ty => Sys2Proof.Machine.execVintAbs vd va pr ty s
  | .bcast vd sa pr => Sys2Proof.Machine.execBcast vd sa pr s
  | .ins vd sa lane => Sys2Proof.Machine.execIns vd sa lane s
  | .ext sd va lane => Sys2Proof.Machine.execExt sd va lane s
  | .perm vd va vb pr => Sys2Proof.Machine.execPerm vd va vb pr s
  | .rot vd va n pr => Sys2Proof.Machine.execRot vd va n pr s
  | .zip vd va vb pr => Sys2Proof.Machine.execZip vd va vb pr s
  | .unzip vd va vb pr => Sys2Proof.Machine.execUnzip vd va vb pr s
  | .compress vd va pr => Sys2Proof.Machine.execCompress vd va pr s
  | .expand vd va pr => Sys2Proof.Machine.execExpand vd va pr s
  | .vredSumF32 vd va pr => Sys2Proof.Machine.execVredSumF32 vd va pr s
  | .vredMaxF32 vd va pr => Sys2Proof.Machine.execVredMaxF32 vd va pr s
  | .vredMinF32 vd va pr => Sys2Proof.Machine.execVredMinF32 vd va pr s
  | .vredSumI32 vd va pr => Sys2Proof.Machine.execVredSumI32 vd va pr s
  | .vredMaxI32 vd va pr => Sys2Proof.Machine.execVredMaxI32 vd va pr s
  | .vredMinI32 vd va pr => Sys2Proof.Machine.execVredMinI32 vd va pr s
  | .vredAnd vd va pr => Sys2Proof.Machine.execVredAnd vd va pr s
  | .vredOr vd va pr => Sys2Proof.Machine.execVredOr vd va pr s
  | .cvt vd va pr w => Sys2Proof.Machine.execCvt vd va pr w s
  | .qnt vd va pr w => Sys2Proof.Machine.execQnt vd va pr w s
  | .dqnt vd va pr w => Sys2Proof.Machine.execDqnt vd va pr w s
  | .vscl vd va pr => Sys2Proof.Machine.execVscl vd va pr s
  | .vmaxx vd va => Sys2Proof.Machine.execVmaxx vd va s
  | .comp vd va vb pr => Sys2Proof.Machine.execComp vd va vb pr s
  | .dcomp vd va vb pr => Sys2Proof.Machine.execDcomp vd va vb pr s
  | .vsel vd va vb pr => Sys2Proof.Machine.execVsel vd va vb pr s
  | .pand pd pa pb => Sys2Proof.Machine.execPand pd pa pb s
  | .por pd pa pb => Sys2Proof.Machine.execPor pd pa pb s
  | .pxor pd pa pb => Sys2Proof.Machine.execPxor pd pa pb s
  | .pnot pd pa => Sys2Proof.Machine.execPnot pd pa s
  | .pcnt sd pa => Sys2Proof.Machine.execPcnt sd pa s
  | .pfirst sd pa => Sys2Proof.Machine.execPfirst sd pa s
  | .pset pd sa => Sys2Proof.Machine.execPset pd sa s
  | .vmodeShort => Sys2Proof.Machine.execVmodeShort s
  | .vmodeLong => Sys2Proof.Machine.execVmodeLong s
  | .gang width => Sys2Proof.Machine.execGang width s
  | .gangrel => Sys2Proof.Machine.execGangrel s
  | .vclr d => Sys2Proof.Machine.execVclr d s
  | .mcfg a => Sys2Proof.Machine.execMcfg a s
  | .mmul n a b => Sys2Proof.Machine.execMmul n a b s
  | .mzero n => Sys2Proof.Machine.execMzero n s
  | .mst n a => Sys2Proof.Machine.execMst n a s
  | .mld n a => Sys2Proof.Machine.execMld n a s
  | .mwait d n => Sys2Proof.Machine.execMwait d n s
  | .spawn site imp => Sys2Proof.Machine.execSpawn site imp s
  | .join => Sys2Proof.Machine.execJoin s
  | .tnew d a b => Sys2Proof.Machine.execTnew d a b s
  | .tdep a b => Sys2Proof.Machine.execTdep a b s
  | .trel a => Sys2Proof.Machine.execTrel a s
  | .tdone => Sys2Proof.Machine.execTdone s
  | .range d a => Sys2Proof.Machine.execRange d a s
  | .yield => Sys2Proof.Machine.execYield s
  | .tcancel lev => Sys2Proof.Machine.execTcancel lev s
  | .tlev d lev => Sys2Proof.Machine.execTlev d lev s
  | .sol d a b imp scope comb => Sys2Proof.Machine.execSol d a b imp scope comb s
  | .reply a => Sys2Proof.Machine.execReply a s
  | .kput a b len => Sys2Proof.Machine.execKput a b len s
  | .kdel a b => Sys2Proof.Machine.execKdel a b s
  | .kmove a b => Sys2Proof.Machine.execKmove a b s
  | .kfind d a => Sys2Proof.Machine.execKfind d a s
  | .barinit a b => Sys2Proof.Machine.execBarinit a b s
  | .arrive d a => Sys2Proof.Machine.execArrive d a s
  | .await a b => Sys2Proof.Machine.execAwait a b s
  | .barbytes a b => Sys2Proof.Machine.execBarbytes a b s
  | .cpy d a b bar tag trap => Sys2Proof.Machine.execCpy d a b bar tag trap s
  | .cpyrep a bar tag trap => Sys2Proof.Machine.execCpyrep a bar tag trap s
  | .cpystat d tag => Sys2Proof.Machine.execCpystat d tag s
  | .cpykill tag => Sys2Proof.Machine.execCpykill tag s
  | .put a => Sys2Proof.Machine.execPut a s
  | .get a => Sys2Proof.Machine.execGet a s
  | .wpost a b => Sys2Proof.Machine.execWpost a b s
  | .wkill a => Sys2Proof.Machine.execWkill a s
  | .waitany d a => Sys2Proof.Machine.execWaitany d a s
  | .waitall a => Sys2Proof.Machine.execWaitall a s
  | .ffr d a => Sys2Proof.Machine.execFfr d a s
  | .tagclr a => Sys2Proof.Machine.execTagclr a s
  | .getc d n => Sys2Proof.Machine.execGetc d n s
  | .setc n a => Sys2Proof.Machine.execSetc n a s
  | .sysc d a n => Sys2Proof.Machine.execSysc d a n s
  | .eret => Sys2Proof.Machine.execEret s
  | .eack => Sys2Proof.Machine.execEack s
  | .park a => Sys2Proof.Machine.execPark a s
  | .wake a => Sys2Proof.Machine.execWake a s
  | .halt => Sys2Proof.Machine.execHalt s
  | .cinst a => Sys2Proof.Machine.execCinst a s
  | .cdrop a => Sys2Proof.Machine.execCdrop a s
  | .tlbi a b whole => Sys2Proof.Machine.execTlbi a b whole s
  | .scrub a b => Sys2Proof.Machine.execScrub a b s
  | .powerGovernorSample stk => Sys2Proof.Machine.execPowerGovernorSample stk s
  | .coldReset stk => Sys2Proof.Machine.execColdReset stk s
  | .sramWipeDone stk => Sys2Proof.Machine.execSramWipeDone stk s
  | .dramWipeDone stk => Sys2Proof.Machine.execDramWipeDone stk s
  | .lifeCycleCommand stk dst signed service => Sys2Proof.Machine.execLifeCycleCommand stk dst signed service s
  | .trainingComplete stk failed => Sys2Proof.Machine.execTrainingComplete stk failed s
  | .managementRegisterWrite stk w => Sys2Proof.Machine.execManagementRegisterWrite stk w s
  | .dikeRecordRevalidate stk dike => Sys2Proof.Machine.execDikeRecordRevalidate stk dike s
  | .hostAppend stk q off data => Sys2Proof.Machine.execHostAppend stk q off data s
  | .bar2PlainWrite stk => Sys2Proof.Machine.execBar2PlainWrite stk s
  | .launchRecordRead stk q => Sys2Proof.Machine.execLaunchRecordRead stk q s
  | .completionRecordWrite stk q => Sys2Proof.Machine.execCompletionRecordWrite stk q s
  | .translationCompletion stk idx status ta size r w n u => Sys2Proof.Machine.execTranslationCompletion stk idx status ta size r w n u s
  | .prgResponse stk prgi code => Sys2Proof.Machine.execPrgResponse stk prgi code s
  | .prgResponseTimeout stk prgi => Sys2Proof.Machine.execPrgResponseTimeout stk prgi s
  | .priStoppedClear stk => Sys2Proof.Machine.execPriStoppedClear stk s
  | .hostReadCompletion stk idx data bad => Sys2Proof.Machine.execHostReadCompletion stk idx data bad s
  | .atsInvalidateRequest stk itag pasid ua size => Sys2Proof.Machine.execAtsInvalidateRequest stk itag pasid ua size s
  | .invalidateCompletion stk => Sys2Proof.Machine.execInvalidateCompletion stk s
  | .codeQueueDoorbell stk dike => Sys2Proof.Machine.execCodeQueueDoorbell stk dike s
  | .walkerStart stk => Sys2Proof.Machine.execWalkerStart stk s
  | .walkComplete stk idx => Sys2Proof.Machine.execWalkComplete stk idx s
  | .polderInvalidation pol => Sys2Proof.Machine.execPolderInvalidation pol s
  | .epochDrained pol => Sys2Proof.Machine.execEpochDrained pol s
  | .sliceRequest ep who => Sys2Proof.Machine.execSliceRequest ep who s
  | .replicaInvalidationDone core => Sys2Proof.Machine.execReplicaInvalidationDone core s
  | .mergingFill ep => Sys2Proof.Machine.execMergingFill ep s
  | .bankAccess ep store => Sys2Proof.Machine.execBankAccess ep store s
  | .waitTableResend ep => Sys2Proof.Machine.execWaitTableResend ep s
  | .storeBufferSend core => Sys2Proof.Machine.execStoreBufferSend core s
  | .storeAck core => Sys2Proof.Machine.execStoreAck core s
  | .longLatencyFill ep k => Sys2Proof.Machine.execLongLatencyFill ep k s
  | .farLineSweep sl => Sys2Proof.Machine.execFarLineSweep sl s
  | .accumulatorRenewal stk => Sys2Proof.Machine.execAccumulatorRenewal stk s
  | .accumulatorRenewalDone stk => Sys2Proof.Machine.execAccumulatorRenewalDone stk s
  | .releaseWritebackDone core => Sys2Proof.Machine.execReleaseWritebackDone core s
  | .acquireSliceInvalidate stk idx sl => Sys2Proof.Machine.execAcquireSliceInvalidate stk idx sl s
  | .acquireComplete stk idx => Sys2Proof.Machine.execAcquireComplete stk idx s
  | .sluicePacketReceive stk src => Sys2Proof.Machine.execSluicePacketReceive stk src s
  | .enrikFlitReceive pkg port flit => Sys2Proof.Machine.execEnrikFlitReceive pkg port flit s
  | .enrikNakReceive pkg port seq => Sys2Proof.Machine.execEnrikNakReceive pkg port seq s
  | .enrikAckTimeout pkg port => Sys2Proof.Machine.execEnrikAckTimeout pkg port s
  | .runPadTimeout pkg port => Sys2Proof.Machine.execRunPadTimeout pkg port s
  | .retrainComplete pkg port => Sys2Proof.Machine.execRetrainComplete pkg port s
  | .retrainTimeout pkg port => Sys2Proof.Machine.execRetrainTimeout pkg port s
  | .linkKeyInstall pkg port index key sends => Sys2Proof.Machine.execLinkKeyInstall pkg port index key sends s
  | .keyRetireSend pkg port => Sys2Proof.Machine.execKeyRetireSend pkg port s
  | .keyRetireReceive pkg port => Sys2Proof.Machine.execKeyRetireReceive pkg port s
  | .runCounterExhausted pkg port => Sys2Proof.Machine.execRunCounterExhausted pkg port s
  | .timeBeaconSend pkg => Sys2Proof.Machine.execTimeBeaconSend pkg s
  | .timeBeaconReceive pkg port time => Sys2Proof.Machine.execTimeBeaconReceive pkg port time s
  | .linkDelayMeasure pkg port delay => Sys2Proof.Machine.execLinkDelayMeasure pkg port delay s
  | .farRequestTimeout ep store => Sys2Proof.Machine.execFarRequestTimeout ep store s
  | .guestReservation ep => Sys2Proof.Machine.execGuestReservation ep s
  | .reservationReply ep => Sys2Proof.Machine.execReservationReply ep s
  | .reservationExpiry core => Sys2Proof.Machine.execReservationExpiry core s
  | .migrationDrainDone ep => Sys2Proof.Machine.execMigrationDrainDone ep s
  | .contextPacketArrival ep => Sys2Proof.Machine.execContextPacketArrival ep s
  | .censusPacketCombine sl => Sys2Proof.Machine.execCensusPacketCombine sl s
  | .combineEntryForward sl => Sys2Proof.Machine.execCombineEntryForward sl s
  | .putDataPacket stk idx => Sys2Proof.Machine.execPutDataPacket stk idx s
  | .putFinalWrite stk idx => Sys2Proof.Machine.execPutFinalWrite stk idx s
  | .getRequestPacket stk idx data bad => Sys2Proof.Machine.execGetRequestPacket stk idx data bad s
  | .getDataPacket stk x => Sys2Proof.Machine.execGetDataPacket stk x s
  | .remoteAck stk idx => Sys2Proof.Machine.execRemoteAck stk idx s
  | .notReadyReply stk idx => Sys2Proof.Machine.execNotReadyReply stk idx s
  | .resendBackoffExpiry stk j k => Sys2Proof.Machine.execResendBackoffExpiry stk j k s
  | .remoteAgeStop stk j => Sys2Proof.Machine.execRemoteAgeStop stk j s
  | .channelRecordRefill stk c => Sys2Proof.Machine.execChannelRecordRefill stk c s
  | .loaderSourceAnswer pol digest => Sys2Proof.Machine.execLoaderSourceAnswer pol digest s
  | .sourceWaitTimeout pol digest => Sys2Proof.Machine.execSourceWaitTimeout pol digest s
  | .signatureVerified pol digest => Sys2Proof.Machine.execSignatureVerified pol digest s
  | .installRetry pol digest => Sys2Proof.Machine.execInstallRetry pol digest s
  | .installWaitTimeout pol who => Sys2Proof.Machine.execInstallWaitTimeout pol who s
  | .tagReplaceTimeout pol digest => Sys2Proof.Machine.execTagReplaceTimeout pol digest s
  | .vbusParityFailure x fails => Sys2Proof.Machine.execVbusParityFailure x fails s
  | .laneSwapDone sl => Sys2Proof.Machine.execLaneSwapDone sl s
  | .patrolScrub sl => Sys2Proof.Machine.execPatrolScrub sl s
  | .sleepDepthTimer core => Sys2Proof.Machine.execSleepDepthTimer core s
  | .coreWake core => Sys2Proof.Machine.execCoreWake core s
  | .dividerComplete core => Sys2Proof.Machine.execDividerComplete core s
  | .sequencerReplayStart core => Sys2Proof.Machine.execSequencerReplayStart core s
  | .gangBindDone ep => Sys2Proof.Machine.execGangBindDone ep s
  | .matrixCommandStart pol => Sys2Proof.Machine.execMatrixCommandStart pol s
  | .matrixCommandDone core => Sys2Proof.Machine.execMatrixCommandDone core s
  | .copySectorPerformed core idx j late data bad => Sys2Proof.Machine.execCopySectorPerformed core idx j late data bad s
  | .censusDirectoryProcess pol c => Sys2Proof.Machine.execCensusDirectoryProcess pol c s
  | .censusReport stk => Sys2Proof.Machine.execCensusReport stk s
  | .censusCompletionBroadcast pol c => Sys2Proof.Machine.execCensusCompletionBroadcast pol c s
  | .censusSlotFree dike c => Sys2Proof.Machine.execCensusSlotFree dike c s
  | .kmoveHoldAck pol idx => Sys2Proof.Machine.execKmoveHoldAck pol idx s
  | .kmoveCommit pol idx => Sys2Proof.Machine.execKmoveCommit pol idx s
  | .slotDispatch ep first => Sys2Proof.Machine.execSlotDispatch ep first s
  | .stealRequest ep first => Sys2Proof.Machine.execStealRequest ep first s
  | .stealRetryTimer core first => Sys2Proof.Machine.execStealRetryTimer core first s
  | .loadTokenVisit dike => Sys2Proof.Machine.execLoadTokenVisit dike s
  | .tokenHoldExpiry dike => Sys2Proof.Machine.execTokenHoldExpiry dike s
  | .releaseUnitWalk sl => Sys2Proof.Machine.execReleaseUnitWalk sl s
  | .entryAttributeLookup stk dike task => Sys2Proof.Machine.execEntryAttributeLookup stk dike task s
  | .pendingResponderCreate pol => Sys2Proof.Machine.execPendingResponderCreate pol s
  | .responderWiden stk => Sys2Proof.Machine.execResponderWiden stk s
  | .gangDrainTimeout pol => Sys2Proof.Machine.execGangDrainTimeout pol s
  | .gangDrainDone pol => Sys2Proof.Machine.execGangDrainDone pol s
  | .jobSwitch pol dike handlers => Sys2Proof.Machine.execJobSwitch pol dike handlers s
  | .polderKillWrite pol ep cause => Sys2Proof.Machine.execPolderKillWrite pol ep cause s
  | .polderSwapWrite pol ep => Sys2Proof.Machine.execPolderSwapWrite pol ep s
  | .polderResumeWrite pol ep idx => Sys2Proof.Machine.execPolderResumeWrite pol ep idx s
  | .inboxPop pol => Sys2Proof.Machine.execInboxPop pol s
  | .inboxEntryArrival pol => Sys2Proof.Machine.execInboxEntryArrival pol s
  | .pendingInboxWrite pol => Sys2Proof.Machine.execPendingInboxWrite pol s
  | .sendFillArrival pol => Sys2Proof.Machine.execSendFillArrival pol s
  | .channelDeadlockSample pol => Sys2Proof.Machine.execChannelDeadlockSample pol s
  | .twinSignatureCheck ep mismatch => Sys2Proof.Machine.execTwinSignatureCheck ep mismatch s

end Sys2Proof.Machine
end

