-- ==== Sys2Proof/Machine/Step.lean ====
section
/-! DEFINITION. Sys2Proof/Machine/Step.lean: one step of the machine. The agenda says whose turn it is: a barrel slot issues, meets
a code-store parity error or a register-bank error where it would issue, or an event of the table happens; with nothing on the agenda the turn is a free value. -/

namespace Sys2Proof.Machine

/-- A slot fetches and runs its instruction; the outcome with the instruction. -/
def issue (s : State) (ep : Nat) : Option Instr × Host.Outcome State Fault Refusal :=
  match s.fetch ep with
  | .ok (i, s) => (some i, exec i s)
  | .error s => (none, .next s)

/-- One turn: an event happens, a slot's fetch fails (R169), a slot's register bank does (R432), a slot fetches and runs its instruction, one copy of a twin pair does (R196), or
the network or the memories move. -/
def turn (s : State) : Turn → Host.Outcome State Fault Refusal
  | .event i => if i.isEvent then exec i s else .next s
  | .parity ep => .next (s.parityError ep)
  | .bank ep => .next (s.bankError ep)
  | .upset stk u => .next (s.modStack stk fun k => { k with upsets := k.upsets ++ [u] })
  | .net m => .next (s.netMove m)
  | .frame pkg port key bytes => .next (s.frameArrives pkg port key bytes)
  | .system ep digest => .next (s.placeSystem ep digest)
  | .trail ep differs =>
    if (s.thread (thrOf ep)).live ∧ (s.thread (thrOf ep)).twin then
      match issue s ep with
      | (i, .next s') => .next (s.trails s' ep i differs)
      | (_, o) => o
    else .next s
  | .issue ep =>
    match issue s ep with
    | (i, .next s') => if (s.thread (thrOf ep)).twin then .next (s.leads s' ep i) else .next s'
    | (_, o) => o

/-- What a step adds after its turn. -/
def afterTurn : Host.Outcome State Fault Refusal → Host.Outcome State Fault Refusal
  | .next s => .next s.tick
  | .fault f => .fault f
  | .refused r => .refused r

/-- One step. (DESIGN CHOICE, log 1.) -/
def step (s : State) : Host.Outcome State Fault Refusal :=
  match s.agenda with
  | [] => afterTurn (turn s (Config.nextTurn s.fresh))
  | t :: ts => afterTurn (turn { s with agenda := ts } t)

/-- The state with an instruction's words where the next step fetches: the first word in the low 32 bits (log 16). -/
def State.withFetchWord (s : State) (nbits w : Nat) : State :=
  s.place (w % 2 ^ nbits % 2 ^ 32) (w % 2 ^ nbits / 2 ^ 32 % 2 ^ 32)

end Sys2Proof.Machine
end

