-- ==== Sys2Proof/Safety.lean ====
section
/-! DEFINITION. Sys2Proof/Safety.lean: what counts as a safe run: no step stops, and memory keeps its canonical form. -/

namespace Sys2Proof

open Sys2Proof.Machine

/-- An outcome goes on. -/
def goesOn {σ φ ρ : Type} : Host.Outcome σ φ ρ → Bool
  | .next _ => true
  | .fault _ => false
  | .refused _ => false

/-- Memory in canonical form: keys strictly rise and no byte equals what an unlisted address reads as. -/
def Memory.wf (m : SMap Byte) : Bool := SMap.wf m && SMap.noDefault (0 : Byte) m

/-- A state is safe for `n` steps: none of them stops. -/
def safeFor (n : Nat) (s : State) : Bool := goesOn (Host.Core.run core n s)

end Sys2Proof
end

