-- ==== Sys2Proof/Certificates/Slice0/Obligations.lean ====
section
/-! DEFINITION. Sys2Proof/Certificates/Slice0/Obligations.lean: the statements about the model, each with the sentence of the spec
or the choice of the model that it rests on. `Claims` holds the words that they share. -/

open Sys2Proof Sys2Proof.Machine

namespace Sys2Proof.Claims

/-- Every operand is there and every destination may be written: what stands before an instruction of R191, R179 and R213 lets it go. -/
abbrev Ready (s : State) (srcs dsts : List Desig) : Prop := s.gate srcs dsts = .go

/-- A register bank is held in its canonical order. -/
def BanksOk (t : Thread) : Prop := SMap.wf t.s = true ∧ SMap.wf t.v = true ∧ SMap.wf t.p = true

/-- Nothing outside one thread's record and the channels differs: memory byte for byte, poison, full and empty bits, L2, every other
thread, every stack, slice and package, and the model's agenda. -/
structure OnlyThread (s t : State) (thr : Nat) : Prop where
  bytes : ∀ a, t.byte a = s.byte a
  poison : ∀ a, t.poisoned a = s.poisoned a
  full : ∀ a, t.wordFull a = s.wordFull a
  threads : ∀ k, k ≠ thr → t.thread k = s.thread k
  slices : ∀ k, t.slice k = s.slice k
  stackRecs : ∀ k, t.stack k = s.stack k
  packages : ∀ k, t.package k = s.package k
  census : t.census = s.census
  launches : t.launches = s.launches
  levels : t.levels = s.levels
  out : t.out = s.out
  agenda : t.agenda = s.agenda

/-- Two records of one thread differ at most in scalar registers, the offset and what the instruction carried while it was parked:
trap banks, level, status bits, `c.tvec`, `c.task`, `c.seed`, vector and predicate registers and queues are the same. -/
structure OnlyScalars (a b : Thread) : Prop where
  same : { b with s := a.s, pc := a.pc, wait := a.wait, prog := a.prog, xfault := a.xfault, hgot := a.hgot } = a

/-- The same for an instruction that may also write one vector or predicate register. -/
structure OnlyRegs (a b : Thread) : Prop where
  same : { b with s := a.s, v := a.v, p := a.p, pc := a.pc, wait := a.wait, prog := a.prog, xfault := a.xfault, hgot := a.hgot,
                  fills := a.fills, gen := a.gen } = a

/-- The end of an instruction that writes one scalar register (`s0` discards, `qout` pushes), pops `qin` when it is a source and goes
to the next instruction. -/
def result (s : State) (srcs : List Nat) (d size : Nat) (x : W64) : State := ((s.putS d x).popIf srcs).advance size

/-- An operation at the width that a size selects, its result extended as R284 says. -/
def onWidth (sz : Sz) (f : (n : Nat) → BitVec n → BitVec n → BitVec n) (a b : W64) : W64 :=
  match sz with
  | .w => (f 32 (a.setWidth 32) (b.setWidth 32)).signExtend 64
  | _ => f 64 a b

/-- A scalar instruction's sources, destination, length and value. -/
structure ScalarForm where
  srcs : List Nat
  d : Nat
  size : Nat
  value : State → W64

/-- An instruction of two sources whose size selects the width. -/
def twoSrc (d a b : Nat) (sz : Sz) (f : (n : Nat) → BitVec n → BitVec n → BitVec n) : Option ScalarForm :=
  some { srcs := [a, b], d := d, size := 4, value := fun s => onWidth sz f (s.sval a) (s.sval b) }

/-- An instruction of one source whose size selects the width. -/
def oneSrc (d a : Nat) (sz : Sz) (f : (n : Nat) → BitVec n → Nat) : Option ScalarForm :=
  some { srcs := [a], d := d, size := 4, value := fun s => onWidth sz (fun n x _ => BitVec.ofNat n (f n x)) (s.sval a) 0 }

/-- An instruction whose value is one of 64 bits. -/
def wide (srcs : List Nat) (d size : Nat) (f : State → W64) : Option ScalarForm := some { srcs := srcs, d := d, size := size, value := f }

/-- The position and the length of a field operand (R286). -/
def fieldPos (n : Nat) (y : BitVec n) : Nat := y.toNat % 64 % n
def fieldLen (n : Nat) (y : BitVec n) : Nat := Nat.min (y.toNat / 256 % 128) (n - fieldPos n y)
def fieldMask (n : Nat) (y : BitVec n) : BitVec n := BitVec.ofNat n (2 ^ fieldLen n y - 1)

/-- The three-register functions of R284 and R286, but for the divisions. -/
def registerForm : Instr → Option ScalarForm
  | .add d a b sz => twoSrc d a b sz fun _ x y => x + y
  | .sub d a b sz => twoSrc d a b sz fun _ x y => x - y
  | .mul d a b sz => twoSrc d a b sz fun _ x y => x * y
  | .mulh d a b sz => twoSrc d a b sz fun n x y => BitVec.ofInt n (x.toInt * y.toInt / 2 ^ n)
  | .mulhu d a b sz => twoSrc d a b sz fun n x y => BitVec.ofNat n (x.toNat * y.toNat / 2 ^ n)
  | .and d a b => wide [a, b] d 4 fun s => s.sval a &&& s.sval b
  | .or d a b => wide [a, b] d 4 fun s => s.sval a ||| s.sval b
  | .xor d a b => wide [a, b] d 4 fun s => s.sval a ^^^ s.sval b
  | .andn d a b => wide [a, b] d 4 fun s => s.sval a &&& ~~~s.sval b
  | .sll d a b sz => twoSrc d a b sz fun n x y => x <<< (y.toNat % n)
  | .srl d a b sz => twoSrc d a b sz fun n x y => x >>> (y.toNat % n)
  | .sra d a b sz => twoSrc d a b sz fun n x y => x.sshiftRight (y.toNat % n)
  | .rol d a b sz => twoSrc d a b sz fun n x y => x.rotateLeft (y.toNat % n)
  | .ror d a b sz => twoSrc d a b sz fun n x y => x.rotateRight (y.toNat % n)
  | .min d a b sz => twoSrc d a b sz fun _ x y => if x.sle y then x else y
  | .max d a b sz => twoSrc d a b sz fun _ x y => if x.sle y then y else x
  | .minu d a b sz => twoSrc d a b sz fun _ x y => if x.ule y then x else y
  | .maxu d a b sz => twoSrc d a b sz fun _ x y => if x.ule y then y else x
  | .slt d a b sz => twoSrc d a b sz fun _ x y => if x.slt y then 1 else 0
  | .sltu d a b sz => twoSrc d a b sz fun _ x y => if x.ult y then 1 else 0
  | .seq d a b sz => twoSrc d a b sz fun _ x y => if x = y then 1 else 0
  | .clz d a sz => oneSrc d a sz fun n x => ((List.range n).find? fun k => x.getLsbD (n - 1 - k)).getD n
  | .ctz d a sz => oneSrc d a sz fun n x => ((List.range n).find? fun k => x.getLsbD k).getD n
  | .popc d a sz => oneSrc d a sz fun n x => ((List.range n).filter fun k => x.getLsbD k).length
  | .sext d a sz => wide [a] d 4 fun s => ((s.sval a).setWidth (8 * szBytes sz)).signExtend 64
  | .zext d a sz => wide [a] d 4 fun s => ((s.sval a).setWidth (8 * szBytes sz)).setWidth 64
  | .ixa d a b sz => wide [a, b] d 4 fun s => s.sval a + s.sval b <<< sz.code
  | .bfx d a b sz => twoSrc d a b sz fun n x y => (x >>> fieldPos n y) &&& fieldMask n y
  | .bfi d a b sz => wide [a, b, d] d 4 fun s =>
      onWidth sz (fun n x y =>
        (((s.sval d).setWidth n) &&& ~~~(fieldMask n y <<< fieldPos n y)) ||| ((x &&& fieldMask n y) <<< fieldPos n y))
        (s.sval a) (s.sval b)
  | _ => none

/-- The immediate and long-immediate instructions of R287 and R288, and `here` (R291). -/
def immediateForm : Instr → Option ScalarForm
  | .addi d a k => wide [a] d 4 fun s => s.sval a + k.signExtend 64
  | .andi d a k => wide [a] d 4 fun s => s.sval a &&& k.setWidth 64
  | .ori d a k => wide [a] d 4 fun s => s.sval a ||| k.setWidth 64
  | .xori d a k => wide [a] d 4 fun s => s.sval a ^^^ k.setWidth 64
  | .slti d a k => wide [a] d 4 fun s => if (s.sval a).toInt < k.toInt then 1 else 0
  | .sltiu d a k => wide [a] d 4 fun s => if (s.sval a).toNat < (k.signExtend 64).toNat then 1 else 0
  | .shi d a op n => wide [a] d 4 fun s => match op with
      | .sll => s.sval a <<< (n % 64)
      | .srl => s.sval a >>> (n % 64)
      | .sra => (s.sval a).sshiftRight (n % 64)
      | .rol => (s.sval a).rotateLeft (n % 64)
  | .lih d k => wide [] d 4 fun _ => (k ++ (0 : BitVec 16)).signExtend 64
  | .addih d a k => wide [a] d 4 fun s => s.sval a + (k ++ (0 : BitVec 16)).signExtend 64
  | .muli d a k => wide [a] d 4 fun s => s.sval a * k.signExtend 64
  | .limm d k => wide [] d 8 fun _ => k.signExtend 64
  | .limmh d k => wide [d] d 8 fun s => (k ++ (s.sval d).setWidth 32 : BitVec 64)
  | .addl d k => wide [d] d 8 fun s => s.sval d + k.signExtend 64
  | .here d => wide [] d 4 fun s => BitVec.ofNat 64 s.me.pc
  | _ => none

/-- The target of a displacement in words (R222). -/
def wordsFrom (s : State) (disp : Int) : Nat := ((Int.ofNat s.me.pc + 4 * disp) % 2 ^ 64).toNat

/-- A comparing branch is taken (R226). -/
def taken (cc : Cc) (a b : W64) : Prop :=
  match cc with
  | .eq => a = b
  | .ne => a ≠ b
  | .lt => a.toInt < b.toInt
  | .ge => b.toInt ≤ a.toInt
  | .ltu => a.toNat < b.toNat
  | .geu => b.toNat ≤ a.toNat
  | .full => False
  | .empty => False

/-- A register is full, as `br.full` sees it: `qin` is when its channel exists and holds an entry (R289). -/
def holdsValue (s : State) (a : Nat) : Prop :=
  if a = 28 then s.upLink = true ∧ s.myCore.chan ≠ [] else (s.me.sreg a).st = .full

/-! ### What goes before an instruction's effect: premises on the state alone, each saying that a wait or a fault does not happen -/

/-- An address translates for the issuing thread and the instruction goes on with the target. -/
abbrev Translates (s : State) (va : Nat) (wr : Bool) (tgt : Target) (s1 : State) : Prop := s.xlate s.cur va wr = (.ok tgt, s1)

/-- Runs of bytes (place in the value, address, length) translate, lowest first, each to a piece. -/
def TranslatesRuns (s : State) (wr : Bool) : List (Nat × Nat × Nat) → List Piece → State → Prop
  | [], ps, s1 => ps = [] ∧ s1 = s
  | r :: rs, ps, s1 => ∃ tgt s2 qs, Translates s r.2.1 wr tgt s2 ∧ ps = { lo := r.1, len := r.2.2, tgt := tgt } :: qs
      ∧ TranslatesRuns s2 wr rs qs s1

/-- Bytes that an instruction reads at issue are there. -/
abbrev Reads (s : State) (va n : Nat) (bs : List Byte) (s1 : State) : Prop := ∀ k, s.withRead va n k = k bs s1

/-- A shared object is open to an atomic at its serving memory. -/
abbrev Opens (s : State) (va n pa : Nat) (s1 : State) : Prop := ∀ k, s.withObject va n k = k pa s1

/-- An image is installed in the issuing polder. -/
abbrev Installed (s : State) (digest slot : Nat) (im : Image) : Prop := s.myPolder.imageOf digest = some (slot, im)

/-- Every byte of memory, its poison and its full bits read as before. -/
structure MemorySame (s t : State) : Prop where
  bytes : ∀ a, t.byte a = s.byte a
  poison : ∀ a, t.poisoned a = s.poisoned a
  full : ∀ a, t.wordFull a = s.wordFull a

/-- Every byte outside `n` bytes at `pa` reads as before. -/
def BytesBut (s t : State) (pa n : Nat) : Prop := ∀ a, (a < pa ∨ pa + n ≤ a) → t.byte a = s.byte a

/-- Other threads are untouched. -/
def OthersSame (s t : State) (thr : Nat) : Prop := ∀ k, k ≠ thr → t.thread k = s.thread k

/-- Two records of one thread differ at most in scalar registers, the offset, the image it runs, its load queue and what the
instruction carried: the other banks and the trap state are the same. -/
structure OnlyFlow (a b : Thread) : Prop where
  same : { b with s := a.s, pc := a.pc, img := a.img, digest := a.digest, tag := a.tag, wait := a.wait, prog := a.prog,
                  xfault := a.xfault, hgot := a.hgot } = a

/-- The units that a translation or a read at issue leaves alone: every thread and core, what the device has sent out, censuses, launches
and levels, the agenda. -/
structure UnitsSame (s t : State) : Prop where
  cur : t.cur = s.cur
  threads : ∀ k, t.thread k = s.thread k
  cores : ∀ k, t.core k = s.core k
  census : t.census = s.census
  launches : t.launches = s.launches
  levels : t.levels = s.levels
  agenda : t.agenda = s.agenda

/-- Every scalar register but those named reads as before. -/
def ScalarsBut (a b : Thread) (ws : List Nat) : Prop := ∀ n, n ∉ ws → b.sreg n = a.sreg n

/-- `n` bytes of a byte string at an offset, as a little-endian number, hold a value. -/
def holds (bs : List Byte) (off n v : Nat) : Prop := leAt bs off n = v % 2 ^ (8 * n)

/-- Eight doubleword stores of the issuing slot stand behind the buffer's entries and hold 64 bytes at `va` (R165, R294). -/
def RecordStored (s t : State) (va : Nat) (r : List Byte) : Prop :=
  ∃ es, t.myCore.sb = s.myCore.sb ++ es ∧ es.length = 8 ∧ ∀ i < 8, ∃ e : StoreEnt, es[i]? = some e ∧ e.kind = .plain ∧ e.va = va + 8 * i
    ∧ e.slot = slotNo s.cur ∧ e.phase = .waiting ∧ e.data = (r.drop (8 * i)).take 8

end Sys2Proof.Claims

open Sys2Proof.Claims

/-! ## Scalar and control instructions (chapter 12) -/

/-- R284 and R286: every three-register function but the divisions completes with the table's result when its operands are there. The
result is held at the width that the size selects and extended to 64 bits; `s0` discards it and `qout` pushes it. -/
def Sys2Proof.Claims.RegisterFunctionResults : Prop :=
  ∀ (i : Instr) (f : ScalarForm) (s : State), registerForm i = some f → Ready s (f.srcs.map Desig.s) [.s f.d] →
    exec i s = .next (result s f.srcs f.d f.size (f.value s))

/-- R287, R288 and R291: every immediate and long-immediate instruction, and `here`, completes with the stated value. -/
def Sys2Proof.Claims.ImmediateResults : Prop :=
  ∀ (i : Instr) (f : ScalarForm) (s : State), immediateForm i = some f → Ready s (f.srcs.map Desig.s) [.s f.d] →
    exec i s = .next (result s f.srcs f.d f.size (f.value s))

/-- What writing a scalar result does: the destination is full and reads as the value, `s0` keeps reading zero, every other scalar
register keeps its state, its value and its mark, the offset moves past the instruction, and nothing else of the machine changes.
`qout` and `qin` are the channel's and are stated apart. -/
def Sys2Proof.Claims.ScalarResultFrame : Prop :=
  ∀ (s : State) (srcs : List Nat) (d size : Nat) (x : W64), BanksOk s.me → d ≠ 29 → 28 ∉ srcs →
    let t := result s srcs d size x
    (d ≠ 0 → t.me.sreg d = Cell.full x) ∧ t.me.sreg 0 = s.me.sreg 0 ∧ (∀ n, n ≠ d → t.me.sreg n = s.me.sreg n)
      ∧ t.me.pc = s.me.pc + size ∧ OnlyScalars s.me t.me ∧ OnlyThread s t s.thr
      ∧ (∀ k, t.core k = s.core k) ∧ ∀ k, t.polder k = s.polder k

/-- R213 and R283: a result for `qout` is pushed behind the downstream core's entries and writes no register, and a source of `qin`
takes the oldest entry of the upstream channel once, also when it is named twice. -/
def Sys2Proof.Claims.ChannelEnds : Prop :=
  ∀ (s : State) (x : W64) (down : Nat), s.downCore = some down → down ≠ coreOf s.cur →
    (∀ srcs, 28 ∉ srcs → let t := result s srcs 29 4 x
      (t.core down).chan = (s.core down).chan ++ [x] ∧ (∀ n, t.me.sreg n = s.me.sreg n) ∧ t.me.pc = s.me.pc + 4
        ∧ OnlyThread s t s.thr)
    ∧ ∀ d srcs, d ≠ 29 → 28 ∈ srcs → let t := result s srcs d 4 x
      t.myCore.chan = s.myCore.chan.drop 1 ∧ s.sval 28 = s.myCore.chan.headD 0 ∧ OnlyThread s t s.thr

/-- R191, R179 and R213: what an instruction finds before it reads its operands. An owed source or destination parks the thread;
otherwise an idle source, then a marked one, stop it; a full `qout` or an empty `qin` parks it; else it goes. -/
def Sys2Proof.Claims.OperandGate : Prop :=
  ∀ (s : State) (srcs dsts : List Desig), (∀ d ∈ dsts, s.blockReads d = false) → (.s 28) ∉ srcs → (.s 29) ∉ dsts →
    (Ready s srcs dsts ↔
      (∀ d ∈ srcs, s.me.stOf d = .full ∧ s.me.markOf d = none) ∧ ∀ d ∈ dsts, (s.me.stOf d).isOwed = false)
    ∧ ((∃ d ∈ srcs ++ dsts, (s.me.stOf d).isOwed = true) → ∃ d ∈ srcs ++ dsts, s.gate srcs dsts = .park (.reg d.code))

/-- R285: a division completes by entering the divider's queue with its result; its destination is owed until the divider has done
it, and then full with the result. A zero divisor gives all bits set or the dividend, and the one overflowing quotient wraps. -/
def Sys2Proof.Claims.DivisionsEnterTheDivider : Prop :=
  ∀ (s : State) (d a b : Nat) (sz : Sz), Ready s [.s a, .s b] [.s d] → s.myCore.divq.length < 5 → BanksOk s.me →
    let quotient (signed rem : Bool) : W64 := onWidth sz (fun n x y =>
      if y = 0 then (if rem then x else BitVec.allOnes n)
      else match signed, rem with
        | true, false => x.sdiv y
        | true, true => x.srem y
        | false, false => x / y
        | false, true => x % y) (s.sval a) (s.sval b)
    let queued (v : W64) (o : Host.Outcome State Fault Refusal) : Prop := ∃ t, o = .next t
      ∧ t.myCore.divq = s.myCore.divq ++ [{ slot := slotNo s.cur, dst := d, val := v }] ∧ (d ≠ 0 → t.me.stOf (.s d) = .owed .result)
      ∧ (∀ n, n ≠ d → t.me.sreg n = s.me.sreg n) ∧ t.me.pc = s.me.pc + 4 ∧ OnlyScalars s.me t.me ∧ OnlyThread s t s.thr
    queued (quotient true false) (exec (.div d a b sz) s) ∧ queued (quotient false false) (exec (.divu d a b sz) s)
      ∧ queued (quotient true true) (exec (.rem d a b sz) s) ∧ queued (quotient false true) (exec (.remu d a b sz) s)

/-- R285: the divider's oldest entry completes: it leaves, its slot's register is full with the result (`s0` discards it), and no
other register, thread or core changes. -/
def Sys2Proof.Claims.DividerCompletes : Prop :=
  ∀ (s : State) (core : Nat) (e : DivEnt) (rest : List DivEnt), (s.core core).divq = e :: rest →
    BanksOk (s.thread (core * 8 + e.slot)) →
    ∃ t, exec (.dividerComplete core) s = .next t ∧ (t.core core).divq = rest
      ∧ (e.dst ≠ 0 → (t.thread (core * 8 + e.slot)).sreg e.dst = Cell.full e.val)
      ∧ (∀ n, n ≠ e.dst → (t.thread (core * 8 + e.slot)).sreg n = (s.thread (core * 8 + e.slot)).sreg n)
      ∧ (t.thread (core * 8 + e.slot)).pc = (s.thread (core * 8 + e.slot)).pc
      ∧ (∀ k, k ≠ core → t.core k = s.core k) ∧ OnlyThread s t (core * 8 + e.slot)

/-- R222, R226, R289, R290, R291: branches and jumps whose target begins an instruction of the running image. A comparing branch goes
to its target when the condition holds and on to the next word otherwise; `br.full` and `br.empty` look at a register's state;
`jmp` adds its displacement to the offset; `jr` goes where its register says. No register but `qin` changes. -/
def Sys2Proof.Claims.Transfers : Prop :=
  (∀ (s : State) (cc : Cc) (a b : Nat) (disp : BitVec 12), cc ≠ .full → cc ≠ .empty → Ready s [.s a, .s b] [] →
    targetOk s.myCode (wordsFrom s disp.toInt) = true →
    (taken cc (s.sval a) (s.sval b) → exec (.br cc a b disp) s = .next ((s.popIf [a, b]).goto (wordsFrom s disp.toInt)))
      ∧ (¬taken cc (s.sval a) (s.sval b) → exec (.br cc a b disp) s = .next ((s.popIf [a, b]).advance 4)))
  ∧ (∀ (s : State) (a b : Nat) (disp : BitVec 12), targetOk s.myCode (wordsFrom s disp.toInt) = true →
    (holdsValue s a → exec (.br .full a b disp) s = .next (s.goto (wordsFrom s disp.toInt))
        ∧ exec (.br .empty a b disp) s = .next (s.advance 4))
      ∧ (¬holdsValue s a → exec (.br .full a b disp) s = .next (s.advance 4)
        ∧ exec (.br .empty a b disp) s = .next (s.goto (wordsFrom s disp.toInt))))
  ∧ (∀ (s : State) (disp : BitVec 26), targetOk s.myCode (wordsFrom s disp.toInt) = true →
    exec (.jmp disp) s = .next (s.goto (wordsFrom s disp.toInt)))
  ∧ ∀ (s : State) (a : Nat), Ready s [.s a] [] → (s.sval a).toNat % 4 = 0 → targetOk s.myCode (s.sval a).toNat = true →
    exec (.jr a) s = .next ((s.popIf [a]).goto (s.sval a).toNat)

/-- R221, R289, R290, R291: a target that begins no instruction of the image raises `ILLEGAL` with the target in `c.addr`, whether or not
the branch is taken, and a `jr` to an offset that is no multiple of 4 raises `MISALIGN`. -/
def Sys2Proof.Claims.BadTargetsTrap : Prop :=
  (∀ (s : State) (cc : Cc) (a b : Nat) (disp : BitVec 12), Ready s [.s a, .s b] [] →
    targetOk s.myCode (wordsFrom s disp.toInt) = false → exec (.br cc a b disp) s = .next (s.trap 0x01 (wordsFrom s disp.toInt)))
  ∧ (∀ (s : State) (a b : Nat) (disp : BitVec 12), targetOk s.myCode (wordsFrom s disp.toInt) = false →
    exec (.br .full a b disp) s = .next (s.trap 0x01 (wordsFrom s disp.toInt))
      ∧ exec (.br .empty a b disp) s = .next (s.trap 0x01 (wordsFrom s disp.toInt)))
  ∧ (∀ (s : State) (disp : BitVec 26), targetOk s.myCode (wordsFrom s disp.toInt) = false →
    exec (.jmp disp) s = .next (s.trap 0x01 (wordsFrom s disp.toInt)))
  ∧ ∀ (s : State) (a : Nat), Ready s [.s a] [] →
    ((s.sval a).toNat % 4 ≠ 0 → exec (.jr a) s = .next (s.trap 0x03 (s.sval a).toNat))
      ∧ ((s.sval a).toNat % 4 = 0 → targetOk s.myCode (s.sval a).toNat = false → exec (.jr a) s = .next (s.trap 0x01 (s.sval a).toNat))

namespace Sys2Proof.Claims

/-- The frame record of R165 for a call from image `cur` at a site with a return offset. -/
structure FrameRecord (r : List Byte) (cur : Image) (site next fp : Nat) : Prop where
  size : r.length = 64
  digest : holds r 0 32 cur.digest
  ordinal : holds r 32 2 site
  flags : holds r 34 2 (if cur.transl then 1 else 0)
  tag : holds r 36 4 cur.tag
  resume : holds r 40 4 next
  portable : holds r 44 4 (cur.sites.getD site (0, 0)).2
  frame : holds r 48 8 fp
  zero : holds r 56 8 0

/-- The thread runs an image from an offset with a frame and a stack pointer; no other register has changed. -/
structure Runs (s t : State) (slot : Nat) (im : Image) (pc fp sp : Nat) : Prop where
  pc : t.me.pc = pc
  img : t.me.img = slot
  digest : t.me.digest = im.digest
  tag : t.me.tag = im.tag
  fp : t.me.sreg 30 = Cell.full (BitVec.ofNat 64 fp)
  sp : t.me.sreg 31 = Cell.full (BitVec.ofNat 64 sp)
  scalars : ScalarsBut s.me t.me [30, 31]
  rest : OnlyFlow s.me t.me
  memory : MemorySame s t
  others : OthersSame s t s.thr

/-- A call has happened: the frame record is on its way to memory and the callee runs from its first instruction. -/
def Called (s t : State) (cur : Image) (site size slot : Nat) (im : Image) : Prop :=
  let rec_ := ((s.me.sreg 31).val.toNat + 2 ^ 64 - 64) % 2 ^ 64
  Runs s t slot im 0 rec_ ((rec_ + 2 ^ 64 - im.frame) % 2 ^ 64)
    ∧ ∃ r, FrameRecord r cur site (s.me.pc + size) (s.me.sreg 30).val.toNat ∧ RecordStored s t rec_ r

/-- What a trap leaves in bank 1 (R418): its cause, its address, the offset and the image of the instruction it stands for. -/
structure Captured (b : Bank) (i : TrapInfo) : Prop where
  cause : b.cause.toNat = i.cause % 2 ^ 8
  addr : b.addr.toNat = i.addr % 2 ^ 64
  epc : b.epc.toNat = i.epc % 2 ^ 32
  origin : b.origin.toNat = i.origin % 2 ^ 32
  efn : b.efn.toNat = i.efn % 2 ^ 4
  late : b.late = i.late
  user : b.user = 0

/-- The trap record of R420 for an interrupted thread. -/
structure TrapRecord (r : List Byte) (t : Thread) (transl : Bool) : Prop where
  size : r.length = 64
  digest : holds r 0 32 t.digest
  mark : holds r 32 2 0xFFFF
  flags : holds r 34 2 (if transl then 1 else 0)
  tag : holds r 36 4 t.tag
  epc : holds r 40 4 t.bank1.epc.toNat
  zero : holds r 44 4 0
  fp : holds r 48 8 (t.sreg 30).val.toNat
  sp : holds r 56 8 (t.sreg 31).val.toNat

/-- The thread once a trap's capture is done and before anything else of its entry. -/
def afterCapture (s : State) (i : TrapInfo) : State :=
  (s.modMyCore fun c => { c with mcfgBusy := if c.mcfgBusy = some (slotNo s.cur) then none else c.mcfgBusy }).modMe fun t =>
    { t with bank0 := if t.level = 1 then t.bank1 else t.bank0, bank1 := i.bank, prog := .none, xfault := none, hgot := [],
             late := none, entry := some { written := false, abandon := 0 } }

end Sys2Proof.Claims

/-! ## Calls, tails and returns (R165, R166, R293 to R296) -/

/-- What a translation may change, whatever it answers: the order of use in the TLBs of the polder and its slice (R26) and in the
stack's ATC (R35). Memory, every thread and core, and the rest of the units are as before. -/
def Sys2Proof.Claims.TranslationOnlyTouchesTlbs : Prop :=
  ∀ (s s1 : State) (ep va : Nat) (wr : Bool) (r : XRes), s.xlate ep va wr = (r, s1) →
    UnitsSame s s1 ∧ MemorySame s s1 ∧ s1.out = s.out ∧ (∀ k, { s1.stack k with atc := (s.stack k).atc } = s.stack k) ∧ (∀ k, s1.package k = s.package k)
      ∧ (∀ k, { s1.polder k with tlb := (s.polder k).tlb } = s.polder k)
      ∧ ∀ k, { s1.slice k with stlb := (s.slice k).stlb } = s.slice k

/-- A read at issue that goes through (R294, R416) leaves every thread and every core as it was; what it may change is L2, the TLBs
and the error logs. -/
def Sys2Proof.Claims.ReadsKeepThreads : Prop :=
  ∀ (s s1 : State) (va n : Nat) (bs : List Byte), Reads s va n bs s1 → UnitsSame s s1 ∧ ∀ k, (s1.polder k).code = (s.polder k).code

/-- R294: `call` and `callm` of an installed image from a 64-byte aligned stack pointer with eight free store-buffer entries: the
frame record is stored 64 bytes below `sp`, `fp` names it, `sp` leaves room for the callee's frame, and the callee begins. -/
def Sys2Proof.Claims.CallsEnterTheirCallee : Prop :=
  (∀ (s s1 : State) (site imp slot : Nat) (cur im : Image) (tgt : Target), s.myImage = some cur → site < cur.nsite →
    imp < cur.imports.length → Ready s [.s 30, .s 31] [.s 30, .s 31] → BanksOk s.me → (s.me.sreg 31).val.toNat % 64 = 0 →
    Installed s (cur.import? imp) slot im → Translates s (((s.me.sreg 31).val.toNat + 2 ^ 64 - 64) % 2 ^ 64) true tgt s1 →
    8 ≤ s.sbFree → ∃ t, exec (.call site imp) s = .next t ∧ Called s1 t cur site 4 slot im)
  ∧ ∀ (s s1 s2 : State) (p n slot : Nat) (cur im : Image) (bs : List Byte) (tgt : Target), s.myImage = some cur → n < cur.nsite →
    Ready s [.s p, .s 30, .s 31] [.s 30, .s 31] → BanksOk s.me → (s.me.sreg 31).val.toNat % 64 = 0 → (s.sval p).toNat % 8 = 0 →
    Reads s (s.sval p).toNat 32 bs s1 → leNat bs ≠ 0 → Installed s1 (leNat bs) slot im →
    Translates s1 (((s.me.sreg 31).val.toNat + 2 ^ 64 - 64) % 2 ^ 64) true tgt s2 → 8 ≤ s.sbFree →
    ∃ t, exec (.callm p n) s = .next t ∧ Called s2 t cur n 4 slot im

/-- R295: `tail` and `tailm` keep the frame: `fp` stays, `sp` is the callee's frame below it, and nothing is stored. -/
def Sys2Proof.Claims.TailsEnterTheirCallee : Prop :=
  (∀ (s : State) (site imp slot : Nat) (cur im : Image), s.myImage = some cur → site < cur.nsite → imp < cur.imports.length →
    Ready s [.s 30] [.s 31] → BanksOk s.me → (s.me.sreg 30).val.toNat % 64 = 0 → Installed s (cur.import? imp) slot im →
    let fp := (s.me.sreg 30).val.toNat
    ∃ t, exec (.tail site imp) s = .next t ∧ Runs s t slot im 0 fp ((fp + 2 ^ 64 - im.frame) % 2 ^ 64) ∧ t.myCore = s.myCore)
  ∧ ∀ (s s1 : State) (p n slot : Nat) (cur im : Image) (bs : List Byte), s.myImage = some cur → n < cur.nsite →
    Ready s [.s p, .s 30] [.s 31] → BanksOk s.me → (s.me.sreg 30).val.toNat % 64 = 0 → (s.sval p).toNat % 8 = 0 →
    Reads s (s.sval p).toNat 32 bs s1 → leNat bs ≠ 0 → Installed s1 (leNat bs) slot im →
    let fp := (s.me.sreg 30).val.toNat
    ∃ t, exec (.tailm p n) s = .next t ∧ Runs s1 t slot im 0 fp ((fp + 2 ^ 64 - im.frame) % 2 ^ 64)

/-- R166, R296: `ret` through a frame record with no deque entry continues in the caller: at the record's own return offset when the
installed image bears the record's tag, else at the offset its site table gives, with the record's frame pointer and the
stack pointer just above the record. A record that is not well formed, or whose ordinal the image has not, raises `ACCESS` at it,
and an offset that begins no instruction of the image raises `ILLEGAL` (R221). -/
def Sys2Proof.Claims.ReturnsEnterTheCaller : Prop :=
  ∀ (s s1 : State) (bs : List Byte), let fp := (s.me.sreg 30).val.toNat
    Ready s [.s 30] [.s 31] → BanksOk s.me → fp % 64 = 0 → Reads s fp 64 bs s1 →
    ((leAt bs 56 8 ≠ 0 ∨ 2 ≤ leAt bs 34 2) → exec .ret s = .next (s1.trap 0x05 fp))
    ∧ ∀ (slot : Nat) (im : Image), leAt bs 56 8 = 0 → leAt bs 34 2 < 2 → leAt bs 0 32 ≠ 0 →
      s.myCore.dequeEntry (slotNo s.cur) fp = none → Installed s1 (leAt bs 0 32) slot im →
      let off := if im.tag = leAt bs 36 4 then leAt bs 40 4 else (im.sites.getD (leAt bs 32 2) (0, 0)).1
      (im.nsite ≤ leAt bs 32 2 → exec .ret s = .next (s1.trap 0x05 fp))
      ∧ (leAt bs 32 2 < im.nsite → targetOk im.code off = false → exec .ret s = .next (s1.trap 0x01 off))
      ∧ (leAt bs 32 2 < im.nsite → targetOk im.code off = true →
        ∃ t, exec .ret s = .next t ∧ Runs s1 t slot im off (leAt bs 48 8) ((fp + 64) % 2 ^ 64) ∧ t.myCore = s1.myCore)

/-! ## Traps and the return from them (R304, R394, R418, R420, R422) -/

/-- R420: a trap at level 0, or at level 1 after `eack`, whose table names an installed handler, with eight free store-buffer
entries: bank 1 holds the trap and bank 0 what bank 1 held before a nested one, the trap record stands below `sp`, the
handler runs from its first instruction one level up with ack clear, and no other register has changed. -/
def Sys2Proof.Claims.TrapsEnterTheirHandler : Prop :=
  ∀ (s s2 s3 : State) (i : TrapInfo) (h : List Byte) (slot : Nat) (im : Image) (tgt : Target), s.me.wait = .no → BanksOk s.me →
    (s.me.level = 0 ∨ (s.me.level = 1 ∧ s.me.ack = true)) → (afterCapture s i).handlerDigest = (.ok h, s2) → leNat h ≠ 0 →
    let rec_ := ((s.me.sreg 31).val.toNat / 64 * 64 + 2 ^ 64 - 64) % 2 ^ 64
    Translates s2 rec_ true tgt s3 → 8 ≤ s.sbFree → Installed s3 (leNat h) slot im → im.attrs.testBit 4 = true →
    let t := s.takeTrap i
    t.me.pc = 0 ∧ t.me.level = s.me.level + 1 ∧ t.me.ack = false ∧ Captured t.me.bank1 i
      ∧ t.me.bank0 = (if s.me.level = 1 then s.me.bank1 else s.me.bank0) ∧ t.me.img = slot ∧ t.me.digest = im.digest
      ∧ t.me.tag = im.tag ∧ t.me.sreg 30 = Cell.full (BitVec.ofNat 64 rec_)
      ∧ t.me.sreg 31 = Cell.full (BitVec.ofNat 64 (rec_ + 2 ^ 64 - im.frame)) ∧ ScalarsBut s.me t.me [30, 31]
      ∧ t.me.v = s.me.v ∧ t.me.p = s.me.p ∧ t.me.task = s.me.task ∧ t.me.tvec = s.me.tvec ∧ t.me.seed = s.me.seed
      ∧ OthersSame s t s.thr
      ∧ ∃ r, RecordStored s t rec_ r
          ∧ TrapRecord r (afterCapture s i).me (match (s.myPolder).code.find? s.me.img with | some c => c.transl | none => false)

/-- R420: a trap whose table gives no handler kills the thread with the trap's own cause. -/
def Sys2Proof.Claims.TrapsWithoutAHandlerKill : Prop :=
  ∀ (s s2 : State) (i : TrapInfo) (h : List Byte), s.me.wait = .no → (s.me.level = 0 ∨ (s.me.level = 1 ∧ s.me.ack = true)) →
    (afterCapture s i).handlerDigest = (.ok h, s2) → leNat h = 0 → (s.takeTrap i).thread s.thr = Thread.none

/-- R304: `trap` raises `SOFTWARE` with its immediate in `c.addr`: what it leaves is the entry of R420 for that trap. -/
def Sys2Proof.Claims.TrapInstructionEntersItsHandler : Prop :=
  ∀ (s s2 s3 : State) (imm : BitVec 16) (h : List Byte) (slot : Nat) (im : Image) (tgt : Target), s.me.wait = .no → BanksOk s.me → s.me.level = 0 →
    (afterCapture s { cause := 0x0F, addr := imm.toNat, epc := s.me.pc, origin := s.me.pc, efn := s.me.efnSlot, late := false }).handlerDigest
      = (.ok h, s2) → leNat h ≠ 0 →
    Translates s2 (((s.me.sreg 31).val.toNat / 64 * 64 + 2 ^ 64 - 64) % 2 ^ 64) true tgt s3 → 8 ≤ s.sbFree →
    Installed s3 (leNat h) slot im → im.attrs.testBit 4 = true →
    ∃ t, exec (.trap imm) s = .next t ∧ t.me.pc = 0 ∧ t.me.level = 1 ∧ t.me.img = slot ∧ t.me.bank1.cause = 0x0F
      ∧ t.me.bank1.addr = imm.setWidth 64 ∧ t.me.bank1.epc.toNat = s.me.pc % 2 ^ 32 ∧ t.me.bank1.late = false

/-- R394, R422: `eack` sets ack in a handler that has not, and `eret` from the first or the second level takes `fp` and `sp` from the
trap record, goes on at `c.epc` in the interrupted image one level down; from the second level bank 0 becomes bank 1 and
ack is set. Outside a handler both raise `ILLEGAL` with their own word, and so does a second `eack`. -/
def Sys2Proof.Claims.HandlersReturn : Prop :=
  (∀ s : State, (s.me.level = 0 → exec .eack s = .next (s.trap 0x01 0xF0000080) ∧ exec .eret s = .next (s.trap 0x01 0xF0000060))
    ∧ (s.me.level ≠ 0 → s.me.ack = true → exec .eack s = .next (s.trap 0x01 0xF0000080))
    ∧ (s.me.level ≠ 0 → s.me.ack = false → ∃ t, exec .eack s = .next t ∧ t.me.ack = true ∧ t.me.pc = s.me.pc + 4
        ∧ t.me.level = s.me.level ∧ t.me.bank1 = s.me.bank1 ∧ t.me.bank0 = s.me.bank0 ∧ t.me.s = s.me.s ∧ MemorySame s t
        ∧ OthersSame s t s.thr))
  ∧ ∀ (s s1 : State) (bs : List Byte) (rec_ islot : Nat) (im : Image) (rest : List (Nat × Nat)), s.me.level = 1 ∨ s.me.level = 2 →
    Ready s [.s 30] [.s 31] → BanksOk s.me → (s.me.sreg 30).val.toNat % 64 = 0 →
    (∀ k, s.withTrapRecord (s.me.sreg 30).val.toNat k = k bs s1) → leAt bs 32 2 = 0xFFFF →
    s1.deferredPinned = false → s.me.runs = (rec_, islot) :: rest → s1.myPolder.code.find? islot = some im →
    (s.me.level = 1 → s1.putOff s.thr = []) →
    ∃ t, exec .eret s = .next t ∧ t.me.pc = s.me.bank1.epc.toNat ∧ t.me.level = s.me.level - 1 ∧ t.me.img = islot
      ∧ t.me.digest = im.digest ∧ t.me.tag = im.tag ∧ t.me.runs = rest ∧ t.me.sreg 30 = Cell.full (BitVec.ofNat 64 (leAt bs 48 8))
      ∧ t.me.sreg 31 = Cell.full (BitVec.ofNat 64 (leAt bs 56 8)) ∧ ScalarsBut s.me t.me [30, 31] ∧ t.me.v = s.me.v
      ∧ t.me.p = s.me.p ∧ t.me.bank0 = s.me.bank0
      ∧ (if s.me.level = 2 then t.me.bank1 = s.me.bank0 ∧ t.me.ack = true else t.me.bank1 = s.me.bank1 ∧ t.me.ack = false)
      ∧ MemorySame s1 t ∧ OthersSame s1 t s.thr

namespace Sys2Proof.Claims

/-- A load, or an atomic, of one element: its kind, destination, size and bytes, the registers it reads, those that pop `qin`, its
address, and whether it writes. -/
structure LoadForm where
  kind : State → LoadKind
  d : Nat
  sz : Sz
  n : Nat
  srcs : List Nat
  pops : List Nat
  ea : State → Nat
  wr : Bool

/-- An address register plus a signed offset scaled by the access (R307). -/
def scaled (s : State) (a n : Nat) (off : BitVec 11) : Nat := ((Int.ofNat (s.sval a).toNat + off.toInt * n) % 2 ^ 64).toNat

/-- The low bytes of a register that an atomic of a size takes. -/
def lowBytes (s : State) (r : Nat) (sz : Sz) : Nat := (s.sval r).toNat % 2 ^ (8 * szBytes sz)

/-- A scalar load form. -/
def ldForm (k : LoadKind) (d a : Nat) (sz : Sz) (off : BitVec 11) : Option LoadForm :=
  some { kind := fun _ => k, d := d, sz := sz, n := szBytes sz, srcs := [a], pops := [a], ea := fun s => scaled s a (szBytes sz) off, wr := false }

/-- An atomic form; `amo.cas` also reads the register after `b`. -/
def amoForm (fn : AmoFn) (d a b : Nat) (sz : Sz) : Option LoadForm :=
  some { kind := fun s => .amo fn (sz == .d) (lowBytes s b sz) (lowBytes s (b + 1) sz), d := d, sz := if sz = .d then .d else .ws,
         n := szBytes sz, srcs := if fn = .cas then [a, b, b + 1] else [a, b], pops := [a, b], ea := fun s => (s.sval a).toNat, wr := true }

/-- The scalar loads (R308) and the atomics (R315). -/
def loadForm : Instr → Option LoadForm
  | .ld d a sz off => ldForm .plain d a sz off
  | .ldAcq d a sz off => ldForm .acq d a sz off
  | .ldSync d a sz off => ldForm .sync d a sz off
  | .ldTake d a sz off => ldForm .take d a sz off
  | .amoAdd d a b sz => amoForm .add d a b sz
  | .amoAnd d a b sz => amoForm .and d a b sz
  | .amoOr d a b sz => amoForm .or d a b sz
  | .amoXor d a b sz => amoForm .xor d a b sz
  | .amoMin d a b sz => amoForm .min d a b sz
  | .amoMax d a b sz => amoForm .max d a b sz
  | .amoMinu d a b sz => amoForm .minu d a b sz
  | .amoMaxu d a b sz => amoForm .maxu d a b sz
  | .amoSwap d a b sz => amoForm .swap d a b sz
  | .amoCas d a b sz => amoForm .cas d a b sz
  | .amoFadd d a b => amoForm .fadd d a b .w
  | .amoFmax d a b => amoForm .fmax d a b .w
  | _ => none

/-- The target is one of the memories of a stack that hold full and empty words (R66). -/
def wordMemory (tgt : Target) : Prop := ∃ pa c m, tgt = .dev pa c m ∧ (region pa = .tcm ∨ region pa = .spad)

/-- The load stays where it is: its page is not a migrate page of another stack, or the thread may not move (R93). -/
def Stays (s : State) (d : Nat) (tgt : Target) : Prop :=
  ∀ pa c, tgt = .dev pa c true → s.me.prog = .refused
    ∨ ((∀ g m k, s.me.prog ≠ .migrate g m k) ∧ (stkOfPa pa = stkOf s.cur ∨ s.mayMigrate d = false))

/-- What each kind asks of its target: `ld.sync` and `ld.take` a TCM or scratchpad word (R66), an atomic on a host page one of three
functions and the dike's permission, and that the slot's older accesses have performed (R42, R122). -/
def targetAllowed (s : State) (k : LoadKind) (d : Nat) (tgt : Target) : Prop :=
  match k with
  | .plain => Stays s d tgt
  | .sync => wordMemory tgt
  | .take => wordMemory tgt
  | .amo fn _ _ _ => s.loadsDone = true ∧ s.storesDone = true
      ∧ ∀ ha c a, tgt = .host ha c a → (fn = .add ∨ fn = .swap ∨ fn = .cas) ∧ s.myStack.dike (s.jobOf s.cur) 2 1 / 4 % 2 = 1
  | _ => True

/-- Not the fixed-latency path of R52: another kind, another memory than a TCM, a long view, an older load whose data has not reached
the core, an older `inval`, or an older store that overlaps the load and does not cover it (R64). -/
def slowLoad (s : State) (k : LoadKind) (ps : List Piece) : Prop :=
  (k ≠ .plain ∧ k ≠ .acq) ∨ (∃ p ∈ ps, ∀ pa c m, p.tgt = .dev pa c m → region pa ≠ .tcm) ∨ s.me.long = true
    ∨ (∃ l ∈ s.me.loadq, l.phase ≠ .arrived) ∨ (∃ e ∈ s.myCore.sb, e.slot = slotNo s.cur ∧ e.kind = .inval ∧ e.phase ≠ .performed)
    ∨ s.myCore.forward (slotNo s.cur) (s.seq + 1) k.ordered ps = .wait

/-- An access of the issuing slot is queued and nothing else has happened: `qin` is popped when it is a source, the offset moves on. -/
structure Queued (s t : State) (srcs : List Nat) : Prop where
  pc : t.me.pc = s.me.pc + 4
  chan : t.myCore.chan = if 28 ∈ srcs then s.myCore.chan.drop 1 else s.myCore.chan
  memory : MemorySame s t
  others : OthersSame s t s.thr
  cores : ∀ k, k ≠ coreOf s.cur → t.core k = s.core k
  stackRecs : ∀ k, { t.stack k with atc := (s.stack k).atc } = s.stack k
  slices : ∀ k, { t.slice k with stlb := (s.slice k).stlb } = s.slice k
  out : t.out = s.out
  levels : t.levels = s.levels ∧ t.launches = s.launches ∧ t.census = s.census

/-- Two records of one thread differ at most in scalar and vector registers, the load queue, the offset and what the instruction
carried. -/
structure OnlyLoads (a b : Thread) : Prop where
  same : { b with s := a.s, v := a.v, loadq := a.loadq, pc := a.pc, wait := a.wait, prog := a.prog, xfault := a.xfault,
                  hgot := a.hgot } = a

/-- A loaded element extended to a register (R308): its low bytes first. -/
def extended (sz : Sz) (bs : List Byte) : W64 :=
  if szSigned sz then (BitVec.ofNat (8 * szBytes sz) (leNat bs)).signExtend 64 else BitVec.ofNat 64 (leNat bs)

/-- A store of one run: its kind, the registers it reads, its address, length and bytes, and whether it needs the write permission. -/
structure StoreForm where
  kind : StoreKind
  srcs : List Nat
  ea : State → Nat
  align : Nat
  n : Nat
  data : State → List Byte
  wr : Bool

/-- A scalar store form. -/
def stForm (k : StoreKind) (d a : Nat) (sz : Sz) (off : BitVec 11) : Option StoreForm :=
  some { kind := k, srcs := [d, a], ea := fun s => scaled s a (szBytes sz) off, align := szBytes sz, n := szBytes sz,
         data := fun s => (List.range (szBytes sz)).map fun i => BitVec.ofNat 8 ((s.sval d).toNat / 2 ^ (8 * i)), wr := true }

/-- The scalar stores (R309) and the line operations (R319, R320). -/
def storeForm : Instr → Option StoreForm
  | .st d a sz off => stForm .plain d a sz off
  | .stRel d a sz off => stForm .rel d a sz off
  | .stFill d a sz off => stForm .fill d a sz off
  | .stRelfill d a sz off => stForm .relfill d a sz off
  | .zero a => some { kind := .zero, srcs := [a], ea := fun s => (s.sval a).toNat, align := 64, n := 64,
                      data := fun _ => List.replicate 64 0, wr := true }
  | .clean a => some { kind := .clean, srcs := [a], ea := fun s => (s.sval a).toNat, align := 1, n := 1, data := fun _ => [], wr := false }
  | .inval a => some { kind := .inval, srcs := [a], ea := fun s => (s.sval a).toNat, align := 1, n := 1, data := fun _ => [], wr := false }
  | _ => none

/-- The memory operand of a load or a store, before its alignment is checked: the registers read, the address and the alignment. -/
def memoryOperand (i : Instr) : Option (List Nat × List Nat × (State → Nat) × Nat) :=
  match loadForm i, storeForm i with
  | some f, _ => some (f.srcs, [f.d], f.ea, f.n)
  | _, some f => some (f.srcs, [], f.ea, f.align)
  | _, _ => none

/-- The lanes of a vector access in a view of `n`: the numbers of the active ones. -/
def lanesOn (n : Nat) (p : PReg) : List Nat := (List.range n).filter fun i => p.getLsbD i

/-- The address of a lane of a `gather` or `scatter` (R313): the base plus the lane's signed 32-bit index shifted by the scale. -/
def laneAddress (s : State) (b va sc i : Nat) : Nat :=
  ((Int.ofNat (s.sval b).toNat + (((s.me.vreg va).val >>> (32 * i)).setWidth 32).toInt * 2 ^ sc) % 2 ^ 64).toNat

/-- The value an atomic leaves (R315), on numbers of 32 or 64 bits. -/
def atomicValue (fn : AmoFn) (w : Nat) (old x y : BitVec w) : BitVec w :=
  match fn with
  | .add => old + x
  | .and => old &&& x
  | .or => old ||| x
  | .xor => old ^^^ x
  | .min => if old.sle x then old else x
  | .max => if old.sle x then x else old
  | .minu => if old.ule x then old else x
  | .maxu => if old.ule x then x else old
  | .swap => x
  | .cas => if old = x then y else old
  | .fadd => (f32Add (old.setWidth 32) (x.setWidth 32)).setWidth w
  | .fmax => (f32Max (old.setWidth 32) (x.setWidth 32)).setWidth w

end Sys2Proof.Claims

/-! ## Loads, stores and atomics (chapter 13) -/

/-- R307, R308, R315: a load or an atomic of an aligned, translated element takes a free place of the slot's eight, its destination is
owed, and nothing is read or written before its memory serves it. -/
def Sys2Proof.Claims.LoadsEnterTheQueue : Prop :=
  ∀ (i : Instr) (f : LoadForm) (s s1 : State) (tgt : Target), loadForm i = some f → Ready s (f.srcs.map Desig.s) [.s f.d] →
    BanksOk s.me → f.ea s % f.n = 0 → Translates s (f.ea s) f.wr tgt s1 → s.me.loadq.length < 8 →
    targetAllowed s (f.kind s) f.d tgt → slowLoad s (f.kind s) [{ lo := 0, len := f.n, tgt := tgt }] →
    ∃ t e, exec i s = .next t ∧ t.me.loadq = s.me.loadq ++ [e] ∧ e.kind = f.kind s ∧ e.dest = .scalar f.d f.sz
      ∧ e.pieces = [{ lo := 0, len := f.n, tgt := tgt }] ∧ e.phase = .queued ∧ e.seq = s.seq + 1
      ∧ (f.d ≠ 0 → t.me.stOf (.s f.d) = .owed .result) ∧ ScalarsBut s.me t.me [f.d] ∧ t.me.v = s.me.v ∧ OnlyLoads s.me t.me
      ∧ t.myCore.sb = s.myCore.sb ∧ Queued s t f.pops

/-- R52, R308: a plain or acquire load of a TCM with every older load performed and no pending store of the slot has its value at once: the
element's bytes as they stand in memory, sign- or zero-extended. -/
def Sys2Proof.Claims.TcmLoadsComplete : Prop :=
  ∀ (i : Instr) (f : LoadForm) (s s1 : State) (pa : Nat) (c m : Bool), loadForm i = some f → (f.kind s = .plain ∨ f.kind s = .acq) →
    Ready s (f.srcs.map Desig.s) [.s f.d] → BanksOk s.me → f.ea s % f.n = 0 → Translates s (f.ea s) f.wr (.dev pa c m) s1 →
    region pa = .tcm → s.me.long = false → s.me.loadq.length < 8 → (∀ l ∈ s.me.loadq, l.phase = .arrived) →
    s.myCore.pending (slotNo s.cur) = [] → (∀ j < f.n, s.poisoned (pa + j) = false) →
    (s.stack (stkOfPa pa)).injctl.getLsbD 63 = false → (s.stack (stkOfPa pa)).upsets = [] → targetAllowed s (f.kind s) f.d (.dev pa c m) →
    ∃ t, exec i s = .next t ∧ (f.d ≠ 0 → t.me.sreg f.d = Cell.full (extended f.sz (s.bytes pa (f.n))))
      ∧ ScalarsBut s.me t.me [f.d] ∧ t.me.loadq = s.me.loadq ∧ t.me.v = s.me.v ∧ OnlyLoads s.me t.me
      ∧ t.myCore.sb = s.myCore.sb ∧ Queued s t f.pops

/-- R307: a load, store or atomic of an address that is not a multiple of its size raises `MISALIGN` with the address, before it is
translated; `zero` asks for 64. -/
def Sys2Proof.Claims.MisalignedAccessesTrap : Prop :=
  ∀ (i : Instr) (srcs dsts : List Nat) (ea : State → Nat) (n : Nat) (s : State), memoryOperand i = some (srcs, dsts, ea, n) →
    Ready s (srcs.map Desig.s) (dsts.map Desig.s) → ea s % n ≠ 0 → exec i s = .next (s.trap 0x03 (ea s))

/-- R309, R319, R320: a store or a line operation of an aligned, translated address enters the core's store buffer behind its entries
with its bytes, lowest first; memory and every register are as before. -/
def Sys2Proof.Claims.StoresEnterTheBuffer : Prop :=
  ∀ (i : Instr) (f : StoreForm) (s s1 : State) (tgt : Target), storeForm i = some f → Ready s (f.srcs.map Desig.s) [] →
    f.ea s % f.align = 0 → Translates s (f.ea s) f.wr tgt s1 → ((f.kind = .fill ∨ f.kind = .relfill) → wordMemory tgt) →
    s.myCore.sb.length < 16 →
    ∃ t e, exec i s = .next t ∧ t.myCore.sb = s.myCore.sb ++ [e] ∧ e.kind = f.kind ∧ e.data = f.data s
      ∧ e.pieces = [{ lo := 0, len := f.n, tgt := tgt }] ∧ e.va = f.ea s ∧ e.slot = slotNo s.cur ∧ e.phase = .waiting
      ∧ t.me.s = s.me.s ∧ t.me.v = s.me.v ∧ t.me.loadq = s.me.loadq ∧ OnlyLoads s.me t.me ∧ Queued s t f.srcs

/-- R311, R313: `vst` stores its active lanes, 32 bits each, in lane order, at `sA` plus 32 times its signed offset; with every lane active
the bytes are one run, and otherwise a run a lane. `scatter` enters one store a lane, at `sB` plus the lane's signed index shifted, once every
lane has been checked. Nothing is stored before the buffer sends it. -/
def Sys2Proof.Claims.VectorStoresEnterTheBuffer : Prop :=
  (∀ (s s1 : State) (vd a pr : Nat) (off : BitVec 12) (ps : List Piece), s.myCore.gang.donor = false ∨ slotNo s.cur ≠ 7 →
    Ready s [.v vd, .s a, .p pr] [] →
    let lanes := s.lanes s.thr
    let on := lanesOn lanes (s.me.preg pr).val
    let ea := ((Int.ofNat (s.sval a).toNat + off.toInt * 32) % 2 ^ 64).toNat
    ea % 32 = 0 → s.myCore.sb.length < 16 →
    TranslatesRuns s true (if on.length = lanes then cutPages 3 0 ea (4 * lanes)
      else on.zipIdx.map fun e => (4 * e.2, (ea + 4 * e.1) % 2 ^ 64, 4)) ps s1 →
    ∃ t e, exec (.vst vd a pr off) s = .next t ∧ t.myCore.sb = s1.myCore.sb ++ [e] ∧ e.kind = .plain ∧ e.pieces = ps
      ∧ e.data = (on.flatMap fun i => (List.range 4).map fun j => ((s.me.vreg vd).val >>> (32 * i + 8 * j)).setWidth 8)
      ∧ e.slot = slotNo s.cur ∧ e.phase = .waiting ∧ t.me.pc = s1.me.pc + 4 ∧ t.me.s = s1.me.s ∧ t.me.v = s1.me.v
      ∧ MemorySame s1 t ∧ OthersSame s1 t s1.thr)
  ∧ ∀ (s s1 : State) (vd va b sc pr : Nat) (ps : List Piece), s.myCore.gang.donor = false ∨ slotNo s.cur ≠ 7 →
    Ready s [.v vd, .v va, .s b, .p pr] [] → (∀ r e h, s.me.prog ≠ .scatter r e h) →
    let on := lanesOn (s.lanes s.thr) (s.me.preg pr).val
    (∀ i ∈ on, laneAddress s b va sc i % 4 = 0) → s.myCore.sb.length + on.length ≤ 16 →
    TranslatesRuns s true (on.zipIdx.map fun e => (4 * e.2, laneAddress s b va sc e.1, 4)) ps s1 →
    ∃ (t : State) (es : List StoreEnt), exec (.scatter vd va b sc pr) s = .next t ∧ t.myCore.sb = s1.myCore.sb ++ es ∧ es.length = on.length
      ∧ (∀ k i : Nat, on[k]? = some i → ∃ e : StoreEnt, es[k]? = some e ∧ e.kind = .plain ∧ e.va = laneAddress s b va sc i ∧ e.slot = slotNo s.cur
          ∧ e.phase = .waiting ∧ e.data = ((List.range 4).map fun j => ((s.me.vreg vd).val >>> (32 * i + 8 * j)).setWidth 8)
          ∧ ∃ p : Piece, ps[k]? = some p ∧ e.pieces = [{ lo := 0, len := 4, tgt := p.tgt }])
      ∧ t.me.pc = s1.me.pc + 4 ∧ t.me.s = s1.me.s ∧ t.me.v = s1.me.v ∧ MemorySame s1 t ∧ OthersSame s1 t s1.thr

/-- R311, R313: `vld`, its broadcasts and `gather` complete; unless R52 makes it a fixed-latency load, one load of the active lanes is queued
and the register is owed. The lanes that are not active keep the old bits, zero for an idle register, and with no active lane
a broadcast reads nothing. -/
def Sys2Proof.Claims.VectorLoadsEnterTheQueue : Prop :=
  ∀ (s s1 : State) (vd va a sc pr : Nat) (off : BitVec 12) (ps : List Piece), s.myCore.gang.donor = false ∨ slotNo s.cur ≠ 7 →
    s.me.loadq.length < 8 →
    let lanes := s.lanes s.thr
    let on := lanesOn lanes (s.me.preg pr).val
    let ea (n : Nat) := ((Int.ofNat (s.sval a).toNat + off.toInt * n) % 2 ^ 64).toNat
    let old : VReg := if (s.me.vreg vd).st = .idle then 0 else (s.me.vreg vd).val
    let queued (i : Instr) (kind : LoadKind) (bc : Option Nat) : Prop :=
      ∃ t, exec i s = .next t ∧ (∀ n, n ≠ vd → t.me.vreg n = s1.me.vreg n) ∧ t.me.s = s1.me.s ∧ t.me.pc = s1.me.pc + 4
        ∧ OthersSame s1 t s1.thr
        ∧ (slowLoad s1 kind ps → ∃ e, t.me.loadq = s1.me.loadq ++ [e] ∧ e.kind = kind ∧ e.pieces = ps ∧ e.phase = .queued
            ∧ e.dest = .vector vd old (s.me.preg pr).val bc lanes ∧ t.me.stOf (.v vd) = .owed .result ∧ MemorySame s1 t)
    (Ready s [.s a, .p pr] [.v vd] → (ea 32 % 32 = 0 → TranslatesRuns s false (if on.length = lanes then cutPages 3 0 (ea 32) (4 * lanes)
        else on.zipIdx.map fun e => (4 * e.2, (ea 32 + 4 * e.1) % 2 ^ 64, 4)) ps s1 → queued (.vld vd a pr off) .plain none)
      ∧ (ea 4 % 4 = 0 → TranslatesRuns s false (if on = [] then [] else [(0, ea 4, 4)]) ps s1 → queued (.vldBc32 vd a pr off) .plain (some 4))
      ∧ (ea 2 % 2 = 0 → TranslatesRuns s false (if on = [] then [] else [(0, ea 2, 2)]) ps s1 → queued (.vldBc16 vd a pr off) .plain (some 2))
      ∧ (TranslatesRuns s false (if on = [] then [] else [(0, ea 1, 1)]) ps s1 → queued (.vldBc8 vd a pr off) .plain (some 1)))
    ∧ (Ready s [.v va, .s a, .p pr] [.v vd] → (∀ i ∈ on, laneAddress s a va sc i % 4 = 0) →
      TranslatesRuns s false (on.zipIdx.map fun e => (4 * e.2, laneAddress s a va sc e.1, 4)) ps s1 →
      queued (.gather vd va a sc pr) .gather none)

namespace Sys2Proof.Claims

/-- An endpoint's core has an open store at the head: the oldest that has not performed. -/
def openStore (s : State) (core : Nat) (e : StoreEnt) : Prop := (s.core core).sb.find? (fun x => x.phase != .performed) = some e

/-- Nothing must leave a set of L2 for an access of the line: the home holds it, or its set has a free way. -/
def hasRoom (s : State) (pa : Nat) : Prop :=
  (s.homeLine? pa).isSome = true ∨ (s.waysOf (proxyDev (stkOfPa pa) pa) (devLine pa)).length < 16

/-- A merging fill of the home line brings no news of poison: it is not needed, or the line's bits say what the array's patterns say. -/
def fillAgrees (s : State) (pa n : Nat) : Prop :=
  ∀ l, s.homeLine? pa = some l → l.wv &&& partMask pa n = partMask pa n
    ∨ ∀ j < 2, l.whole j = false → l.bad (32 * j) = s.poison.has (pa / 64 * 64 + 32 * j)

/-- Memory of the issuing stack that takes a plain store of `n` bytes itself: a TCM, a scratchpad or an SRAM byte, or DRAM whose line has no
replica and finds room, in a channel that has not failed. -/
def ownMemory (s : State) (stk pa n : Nat) : Prop :=
  stkOfPa pa = stk ∧ (region pa = .tcm ∨ region pa = .spad ∨ region pa = .sram
    ∨ (region pa = .dram ∧ s.hasReplicas (devLine pa) = false ∧ hasRoom s pa ∧ fillAgrees s pa n
        ∧ (s.slice (proxyDev stk pa)).chan.failed = false ∧ (s.slice (proxyDev stk pa)).chan.holding = false))

/-- The memory of an address takes a write: the home holds its line, or its channel has not failed (R173). -/
def writable (s : State) (pa : Nat) : Prop :=
  region pa = .dram → (s.homeLine? pa).isSome = true ∨ (s.slice (proxyDev (stkOfPa pa) pa)).chan.failed = false

/-- The event that serves an access of a slot answers a state: its bank's for a TCM or a scratchpad, else the slice's or the stack's
(R54, R62). -/
def Served (s : State) (ep pa : Nat) (store : Bool) (t : State) : Prop :=
  if region pa = .tcm ∨ region pa = .spad then exec (.bankAccess ep store) s = .next t
  else exec (.sliceRequest ep (if store then .store else .load)) s = .next t

/-- No injection is armed in a stack, no error of its memories is waiting for a read, and it is not being wiped. -/
def quiet (s : State) (stk : Nat) : Prop :=
  (s.stack stk).injctl.getLsbD 63 = false ∧ (s.stack stk).upsets = [] ∧ (s.stack stk).wiping = 0

/-- The next load of a thread: every older one is bound. -/
def nextOf (s : State) (ep : Nat) (e : LoadEnt) : Prop := (s.thread (thrOf ep)).nextLoad = some e

/-- The next load of a thread, which every older load that has not performed lets pass (R62). -/
def goesNow (s : State) (ep : Nat) (e : LoadEnt) : Prop :=
  nextOf s ep e ∧ mayPass (stkOf ep) ((s.thread (thrOf ep)).unperformed e) e = true

/-- The entry of a load queue with an age, after an event: bound to bytes without a mark, with its reply on the way or there. -/
def boundTo (t : State) (ep seq : Nat) (data : List Byte) : Prop :=
  ∃ x ∈ (t.thread (thrOf ep)).loadq, x.seq = seq ∧ (x.phase = .bound ∨ x.phase = .arrived) ∧ x.data = data ∧ x.mark = none

/-- Every byte of a run is free of poison. -/
def clean (s : State) (pa n : Nat) : Prop := ∀ j < n, s.poisoned (pa + j) = false

/-- The home line holds every word of a run. -/
def wordsHeld (s : State) (pa n : Nat) : Prop := ∀ l, s.homeLine? pa = some l → l.wv &&& wordMask pa n = wordMask pa n

/-- Every word of a run is full. -/
def allWords (s : State) (pa n : Nat) (x : Bool) : Prop := ∀ j < n, s.wordFull (pa + j) = x

/-- The far line of a device address in a stack, if the stack holds one. -/
def noFarLine (s : State) (stk pa : Nat) : Prop := ∀ l, s.line? (proxyOf stk (devLine pa)) (devLine pa) = some l → l.kind ≠ .far

end Sys2Proof.Claims

/-! ## What becomes of loads, stores and atomics -/

/-- R65, R324: the oldest waiting store of a buffer is sent once every older load of its slot has performed and the stores before it have left
the buffer or all go to its own serving memory (one that releases, once it is the head and step 2 of R74 is done); a `send` then
leaves as a fill for its continuation, unless a failed port lies on its way (R88). A performed head leaves the buffer. -/
def Sys2Proof.Claims.StoresLeaveInOrder : Prop :=
  (∀ (s : State) (core : Nat) (before : List StoreEnt) (e : StoreEnt), splitWaiting (s.core core).sb = (before, some e) →
    (before = [] ∨ (e.releases (stkOfCore core) = false ∧ ∀ x ∈ before, sameServing (stkOfCore core) x.pieces e.pieces = true)) →
    (∀ l ∈ (s.thread (core * 8 + e.slot)).loadq, l.seq ≤ e.seq → l.phase = .arrived) →
    (e.releases (stkOfCore core) = false ∨ e.released = true) →
    (∀ c val, e.kind = .send c val → s.routeCut (stkOfCore core / 4) (pkgOf (c % 2 ^ 32)) = false) →
    ∃ t, exec (.storeBufferSend core) s = .next t
      ∧ (t.core core).sb = (s.core core).sb.map (fun x => if x.seq = e.seq then
          { x with phase := match e.kind with | .send _ _ => .performed | _ => .sent } else x)
      ∧ (match e.kind with
         | .send c val => ∃ f, (t.polder (polOf (c % 2 ^ 32))).inflight = (s.polder (polOf (c % 2 ^ 32))).inflight ++ [f]
             ∧ f.ep = c % 2 ^ 32 ∧ f.dst = (if c / 2 ^ 37 % 2 = 1 then .v (c / 2 ^ 32 % 32) else .s (c / 2 ^ 32 % 32))
             ∧ f.due = .cont ∧ f.val = BitVec.ofNat 64 val ∧ f.mark = none
         | _ => ∀ k, t.polder k = s.polder k)
      ∧ MemorySame s t ∧ (∀ k, t.thread k = s.thread k) ∧ ∀ k, k ≠ core → t.core k = s.core k)
  ∧ ∀ (s : State) (core : Nat) (e : StoreEnt) (rest : List StoreEnt), (s.core core).sb = e :: rest → e.phase = .performed →
    ∃ t, exec (.storeAck core) s = .next t ∧ (t.core core).sb = rest ∧ MemorySame s t ∧ (∀ k, t.thread k = s.thread k)
      ∧ ∀ k, k ≠ core → t.core k = s.core k

/-- R54, R59, R64, R320: a sent plain or `zero` store of one run that lies in a line of memory the issuing stack serves itself performs
with the event of its memory: exactly its bytes change, in their order, and its entry is performed. A store that covers whole
granules leaves them without poison (R181). -/
def Sys2Proof.Claims.StoresPerform : Prop :=
  ∀ (s : State) (ep pa n : Nat) (c m : Bool) (e : StoreEnt), openStore s (coreOf ep) e → e.phase = .sent →
    (e.kind = .plain ∨ e.kind = .zero) → e.pieces = [{ lo := 0, len := n, tgt := .dev pa c m }] → e.data.length = n → 0 < n →
    pa % 64 + n ≤ 64 → ownMemory s (stkOfCore (coreOf ep)) pa n → quiet s (stkOfPa pa) → SMap.wf s.mem = true →
    s.poison.Pairwise (· < ·) →
    ∃ t, Served s ep pa true t ∧ (∀ j < n, t.byte (pa + j) = e.data.getD j 0) ∧ BytesBut s t pa n
      ∧ (∀ g, (∀ j < granuleSize g, pa ≤ granule g + j ∧ granule g + j < pa + n) → t.poisoned g = false)
      ∧ (∀ g, (¬∃ j < n, granule (pa + j) = granule g) → t.poisoned g = s.poisoned g)
      ∧ (∀ a, t.wordFull a = s.wordFull a) ∧ (∀ k, t.thread k = s.thread k)
      ∧ (t.core (coreOf ep)).sb = (s.core (coreOf ep)).sb.map (fun x => if x.seq = e.seq then { x with phase := .performed } else x)

/-- R66, R67: a sent `st.fill` performs in a TCM or a scratchpad: its bytes are written and its words are full; with no request waiting
at them nothing else changes. -/
def Sys2Proof.Claims.FillStoresFillWords : Prop :=
  ∀ (s : State) (ep pa n : Nat) (c m : Bool) (e : StoreEnt), openStore s (coreOf ep) e → e.phase = .sent → e.kind = .fill →
    e.pieces = [{ lo := 0, len := n, tgt := .dev pa c m }] → e.data.length = n → n = 4 ∨ n = 8 → pa % n = 0 →
    (region pa = .tcm ∨ region pa = .spad) → stkOfPa pa = stkOf ep → quiet s (stkOfPa pa) → SMap.wf s.mem = true → s.poison.Pairwise (· < ·) →
    s.empties.Pairwise (· < ·) → s.waiters pa = [] →
    ∃ t, exec (.bankAccess ep true) s = .next t ∧ (∀ j < n, t.byte (pa + j) = e.data.getD j 0) ∧ BytesBut s t pa n
      ∧ allWords t pa n true ∧ (∀ a, (a < pa ∨ pa + n ≤ a) → t.wordFull a = s.wordFull a) ∧ clean t pa n
      ∧ ∀ k, t.thread k = s.thread k

/-- R62, R66, R315: what a load's memory does when it serves it. A plain load is bound to the bytes as they stand; `ld.sync` and
`ld.take` at full words too, and `ld.take` leaves them empty; an atomic is bound to the old bytes and leaves the value of
R315, and changes no other byte. -/
def Sys2Proof.Claims.LoadsAreServed : Prop :=
  ∀ (s : State) (ep pa n : Nat) (c m : Bool) (e : LoadEnt), goesNow s ep e → e.phase = .queued →
    e.pieces = [{ lo := 0, len := n, tgt := .dev pa c m }] → 0 < n → pa % 64 + n ≤ 64 →
    (s.core (coreOf ep)).pending (slotNo ep) = [] → clean s pa n → quiet s (stkOfPa pa) → (s.thread (thrOf ep)).roam = false →
    e.got = [] → noFarLine s (stkOf ep) pa → stkOfPa pa = stkOf ep → (∀ sl b, s.roomless (stkOf ep) sl e.pieces b = false) →
    (s.farPinned (stkOf ep) fun line _ => line == devLine pa) = false →
    ((region pa = .tcm ∨ region pa = .spad ∨ region pa = .sram)
      ∨ (region pa = .dram ∧ (s.slice (proxyDev (stkOf ep) pa)).chan.failed = false
          ∧ (s.slice (proxyDev (stkOf ep) pa)).chan.holding = false ∧ hasRoom s pa
          ∧ (∀ l, s.replica? (some (sliceOf ep)) pa n = some l → l.poison = 0)
          ∧ ∀ l, s.line? (proxyDev (stkOf ep) pa) (devLine pa) = some l → l.wv = 0xFFFF)) →
    (e.kind = .plain → ∃ t, Served s ep pa false t ∧ boundTo t ep e.seq (s.bytes pa n) ∧ OthersSame s t (thrOf ep))
    ∧ ((e.kind = .sync ∨ e.kind = .take) → (region pa = .tcm ∨ region pa = .spad) → allWords s pa n true →
        s.empties.Pairwise (· < ·) →
        ∃ t, Served s ep pa false t ∧ boundTo t ep e.seq (s.bytes pa n) ∧ (∀ a, t.byte a = s.byte a)
          ∧ (e.kind = .sync → ∀ a, t.wordFull a = s.wordFull a) ∧ (e.kind = .take → allWords t pa n false)
          ∧ (∀ a, (a / 4 < pa / 4 ∨ (pa + n - 1) / 4 < a / 4) → t.wordFull a = s.wordFull a) ∧ OthersSame s t (thrOf ep))
    ∧ ∀ (fn : AmoFn) (wide : Bool) (x y : Nat), e.kind = .amo fn wide x y → n = (if wide then 8 else 4) →
        (fn = .fadd ∨ fn = .fmax → wide = false) → x < 2 ^ (8 * n) → y < 2 ^ (8 * n) → SMap.wf s.mem = true →
        let w := 8 * n
        ∃ t, Served s ep pa false t ∧ boundTo t ep e.seq (s.bytes pa n) ∧ BytesBut s t pa n
          ∧ t.num pa n = (atomicValue fn w (BitVec.ofNat w (s.num pa n)) (BitVec.ofNat w x) (BitVec.ofNat w y)).toNat
          ∧ OthersSame s t (thrOf ep)

/-- R192: the value of a load whose memory has answered reaches its register, extended as its size says; the register is full, the entry is gone and the thread is
no longer parked. The second clause is a result that an instruction computed (R190). -/
def Sys2Proof.Claims.LongLatencyResultsArrive : Prop :=
  (∀ (s : State) (ep d : Nat) (sz : Sz) (e : LoadEnt), (s.thread (thrOf ep)).loadq.filter (fun x => x.phase == .bound || x.phase == .arrived) = [e] →
    e.dest = .scalar d sz → d ≠ 0 → e.held = false → e.mark = none → BanksOk (s.thread (thrOf ep)) →
    ∃ t, exec (.longLatencyFill ep 0) s = .next t ∧ (t.thread (thrOf ep)).sreg d = Cell.full (extended sz e.data)
      ∧ ScalarsBut (s.thread (thrOf ep)) (t.thread (thrOf ep)) [d] ∧ (t.thread (thrOf ep)).wait = .no
      ∧ (t.thread (thrOf ep)).loadq = (s.thread (thrOf ep)).loadq.filter (fun x => x.seq != e.seq)
      ∧ (t.thread (thrOf ep)).pc = (s.thread (thrOf ep)).pc ∧ OnlyThread s t (thrOf ep))
  ∧ ∀ (s : State) (ep : Nat) (f : DueVal) (rest : List DueVal), (∀ l ∈ (s.thread (thrOf ep)).loadq, l.phase ≠ .bound ∧ l.phase ≠ .arrived) →
    (s.thread (thrOf ep)).fills = f :: rest → BanksOk (s.thread (thrOf ep)) →
    ∃ t, exec (.longLatencyFill ep 0) s = .next t ∧ (t.thread (thrOf ep)).fills = rest ∧ (t.thread (thrOf ep)).wait = .no
      ∧ (match f.dst, f.val with
         | .s n, .s x => n ≠ 0 → (t.thread (thrOf ep)).sreg n = { st := .full, val := x, mark := f.mark }
         | .v n, .v x => (t.thread (thrOf ep)).vreg n = { st := .full, val := x, mark := f.mark }
         | .p n, .p x => n ≠ 0 → (t.thread (thrOf ep)).preg n = { st := .full, val := x, mark := f.mark }
         | _, _ => (t.thread (thrOf ep)).s = (s.thread (thrOf ep)).s)
      ∧ OnlyThread s t (thrOf ep)

/-- R179, R424: a load of a poisoned byte is bound with a mark that names the byte, and an instruction that reads the register raises
`POISON` at its own offset with the mark's origin; nothing of the instruction happens before. -/
def Sys2Proof.Claims.PoisonIsRaisedWhereItIsRead : Prop :=
  (∀ (s : State) (ep pa n va : Nat) (c m : Bool) (e : LoadEnt), goesNow s ep e → e.phase = .queued → e.kind = .plain →
    e.pieces = [{ lo := 0, len := n, tgt := .dev pa c m }] → e.vas = [(0, va, n)] → 0 < n → n ≤ 8 → va + n ≤ 2 ^ 64 →
    (region pa = .tcm ∨ region pa = .spad) → pa % n = 0 → stkOfPa pa = stkOf ep → (s.thread (thrOf ep)).roam = false →
    (s.core (coreOf ep)).pending (slotNo ep) = [] → quiet s (stkOfPa pa) → (∃ j < n, s.poisoned (pa + j) = true) →
    ∃ t j, exec (.bankAccess ep false) s = .next t ∧ j < n ∧ s.poisoned (pa + j) = true ∧ (∀ i < j, s.poisoned (pa + i) = false)
      ∧ ∃ x ∈ (t.thread (thrOf ep)).loadq, x.seq = e.seq ∧ (x.phase = .bound ∨ x.phase = .arrived)
          ∧ x.mark = some { cause := 0x07, addr := va + j, origin := e.pc, efn := e.img })
  ∧ ∀ (s : State) (d a b : Nat) (sz : Sz) (m : Mark), (s.me.stOf (.s a)) = .full → s.me.markOf (.s a) = some m →
    (s.me.stOf (.s b)) = .full → (s.me.stOf (.s d)).isOwed = false → s.blockReads (.s d) = false →
    let i : TrapInfo := { cause := m.cause, addr := m.addr, epc := s.me.pc, origin := m.origin, efn := m.efn, late := true }
    exec (.add d a b sz) s = .next (s.takeTrap i)

namespace Sys2Proof.Claims

/-- A line of a slice after an event, field by field. -/
def lineIs (t : State) (sl line : Nat) (p : Line → Prop) : Prop := ∃ l, t.line? sl line = some l ∧ p l

/-- No slice of a stack holds a far line. -/
def noFar (s : State) (stk : Nat) : Prop := ∀ n < 160, ∀ e ∈ (s.slice (stk * 256 + n)).lines, e.2.kind ≠ .far

/-- The far lines of one slice are exactly one line. -/
def onlyFar (s : State) (sl line : Nat) (l : Line) : Prop := (s.slice sl).lines = [(line, l)] ∧ l.kind = .far

end Sys2Proof.Claims

/-! ## Lines, releases and acquires (chapters 03 and 05) -/

/-- R58: a store to a home line with replicas waits until they have gone, and then performs: the store's entry is invalidating, every
replica named by the directory leaves, and the answer of the last of them lets the bytes change. -/
def Sys2Proof.Claims.ReplicasGoBeforeAStore : Prop :=
  (∀ (s : State) (core pa n : Nat) (m : Bool) (e : StoreEnt) (l : Line), openStore s core e → e.phase = .sent → e.kind = .plain →
    e.pieces = [{ lo := 0, len := n, tgt := .dev pa true m }] → 0 < n → pa % 64 + n ≤ 64 → region pa = .dram →
    stkOfPa pa = stkOfCore core → quiet s (stkOfPa pa) → (s.slice (proxyDev (stkOfPa pa) pa)).chan.holding = false →
    s.line? (proxyDev (stkOfPa pa) pa) (devLine pa) = some l → l.dir ≠ 0 → l.dir.getLsbD (homeSlice (offOfPa pa)) = false →
    ∃ t, exec (.sliceRequest (core * 16) .store) s = .next t ∧ MemorySame s t
      ∧ (t.core core).sb = (s.core core).sb.map (fun x => if x.seq = e.seq then { x with phase := .invalidating } else x)
      ∧ ∀ k < 160, l.dir.getLsbD k = true → SMap.wf (s.slice (stkOfPa pa * 256 + k)).lines = true →
          t.line? (stkOfPa pa * 256 + k) (devLine pa) = none)
  ∧ ∀ (s : State) (core pa n : Nat) (c m : Bool) (e : StoreEnt), (s.core core).sb.find? (fun x => x.phase == .invalidating) = some e →
    e.kind = .plain → e.pieces = [{ lo := 0, len := n, tgt := .dev pa c m }] → e.data.length = n → 0 < n → pa % 64 + n ≤ 64 →
    region pa = .dram → stkOfPa pa = stkOfCore core → (s.slice (proxyDev (stkOfPa pa) pa)).chan.failed = false →
    hasRoom s pa → SMap.wf s.mem = true →
    ∃ t, exec (.replicaInvalidationDone core) s = .next t ∧ (∀ j < n, t.byte (pa + j) = e.data.getD j 0) ∧ BytesBut s t pa n
      ∧ (t.core core).sb = (s.core core).sb.map (fun x => if x.seq = e.seq then { x with phase := .performed } else x)
      ∧ ∀ k, t.thread k = s.thread k

/-- R60, R67: a load whose line lacks words goes back to its slice once the merging fill has brought them, a home line's words from its
own memory, with the poison that its bits and the array's patterns agree on; a request that a full table refused is sent again. -/
def Sys2Proof.Claims.LoadsAreSentAgain : Prop :=
  (∀ (s : State) (ep pa n : Nat) (m : Bool) (e : LoadEnt) (l : Line), nextOf s ep e → e.phase = .merging →
    e.pieces = [{ lo := 0, len := n, tgt := .dev pa true m }] → 0 < n → pa % 64 + n ≤ 64 → region pa = .dram →
    stkOfPa pa = stkOf ep → s.line? (proxyDev (stkOf ep) pa) (devLine pa) = some l → l.kind = .home →
    quiet s (stkOfPa pa) → (s.slice (proxyDev (stkOfPa pa) pa)).chan.failed = false →
    (∀ j < 2, l.whole j = false → l.bad (32 * j) = s.poison.has (pa / 64 * 64 + 32 * j)) →
    ∃ t, exec (.mergingFill ep) s = .next t ∧ (∃ x ∈ (t.thread (thrOf ep)).loadq, x.seq = e.seq ∧ x.phase = .queued)
      ∧ (l.wv &&& wordMask pa n ≠ wordMask pa n →
          lineIs t (proxyDev (stkOf ep) pa) (devLine pa) fun x => x = { l with wv := 0xFFFF })
      ∧ MemorySame s t ∧ OthersSame s t (thrOf ep))
  ∧ ∀ (s : State) (ep : Nat) (e : LoadEnt), nextOf s ep e → e.phase = .refused →
    ∃ t, exec (.waitTableResend ep) s = .next t ∧ (∃ x ∈ (t.thread (thrOf ep)).loadq, x.seq = e.seq ∧ x.phase = .queued)
      ∧ OnlyThread s t (thrOf ep)

/-- R74, R119: a release's own step 2: at the head of the buffer, with no far line in the stack, the waiting store may be sent; nothing else
changes. -/
def Sys2Proof.Claims.ReleasesWaitForWritebacks : Prop :=
  ∀ (s : State) (core : Nat) (e : StoreEnt) (before : List StoreEnt), splitWaiting (s.core core).sb = (before, some e) →
    before = [] → (∀ l ∈ (s.thread (core * 8 + e.slot)).loadq, l.seq ≤ e.seq → l.phase = .arrived) →
    e.releases (stkOfCore core) = true → e.released = false → noFar s (stkOfCore core) →
    ∃ t, exec (.releaseWritebackDone core) s = .next t ∧ MemorySame s t ∧ (∀ k, t.thread k = s.thread k)
      ∧ (t.core core).sb = (s.core core).sb.map (fun x => if x.seq = e.seq then { x with released := true } else x)

/-- R71, R61, R76: the sweep of a slice drops a clean far line of 8 ms or older and keeps a younger or a pinned one. -/
def Sys2Proof.Claims.OldFarLinesAreDropped : Prop :=
  ∀ (s : State) (sl line : Nat) (l : Line), onlyFar s sl line l → line < 2 ^ 60 → stkOfPa (line * 64) ≠ stkOfSlice sl → proxyOf (stkOfSlice sl) line = sl → l.wd = 0 →
    let age := (stampOf (s.podTime (stkOfSlice sl / 4)) + 2 ^ 16 - l.stamp) % 2 ^ 16
    ∃ t, exec (.farLineSweep sl) s = .next t ∧ MemorySame s t
      ∧ (31250 ≤ age → l.pins = 0 → (t.slice sl).lines = []) ∧ ((age < 31250 ∨ l.pins ≠ 0) → (t.slice sl).lines = [(line, l)])

/-- R72: after 256 µs, or with 512 bits set, the accumulator opens an empty signature and keeps the old one until its writebacks are
acknowledged; then T is the pod time. Neither happens otherwise. -/
def Sys2Proof.Claims.AccumulatorRenews : Prop :=
  ∀ (s : State) (stk : Nat), let a := (s.stack stk).acc; let now := s.podTime (stk / 4)
    (a.old = none → (a.start + 1024000 ≤ now ∨ 512 ≤ ((List.range 1024).filter fun i => a.sig.getLsbD i).length) →
      ∃ t, exec (.accumulatorRenewal stk) s = .next t ∧ (t.stack stk).acc = { sig := 0, t := a.t, old := some a.sig, start := now }
        ∧ (∀ k, k ≠ stk → t.stack k = s.stack k) ∧ MemorySame s t ∧ ∀ k, t.thread k = s.thread k)
    ∧ (∀ b, a.old = some b → ∃ t, exec (.accumulatorRenewalDone stk) s = .next t
        ∧ (t.stack stk).acc = { sig := a.sig, t := now, old := none, start := a.start } ∧ (∀ k, k ≠ stk → t.stack k = s.stack k)
        ∧ MemorySame s t ∧ ∀ k, t.thread k = s.thread k)
    ∧ (a.old ≠ none ∨ (now < a.start + 1024000 ∧ ((List.range 1024).filter fun i => a.sig.getLsbD i).length < 512) →
        exec (.accumulatorRenewal stk) s = .next s)
    ∧ (a.old = none → exec (.accumulatorRenewalDone stk) s = .next s)

/-- R75, R117: a slice asked by an acquire drops a clean far line that the signature names or that is stamped too old, keeps any other,
and answers; when every slice has answered the accumulator takes the signature and T, the acquire leaves the table and its load is
bound. -/
def Sys2Proof.Claims.AcquiresComplete : Prop :=
  (∀ (s : State) (stk i n line : Nat) (a : Acq) (l : Line), (s.stack stk).acqs[i]? = some a → n ∈ a.left → n < 256 →
    onlyFar s (stk * 256 + n) line l → line < 2 ^ 60 → stkOfPa (line * 64) ≠ stk → proxyOf stk line = stk * 256 + n → l.wd = 0 → l.pins = 0 →
    ∃ t, exec (.acquireSliceInvalidate stk i n) s = .next t ∧ MemorySame s t
      ∧ (acquireDrops a.sig line l = true → (t.slice (stk * 256 + n)).lines = [])
      ∧ (acquireDrops a.sig line l = false → (t.slice (stk * 256 + n)).lines = [(line, l)])
      ∧ (t.stack stk).acqs[i]? = some { a with left := a.left.erase n } ∧ ∀ k, t.thread k = s.thread k)
  ∧ ∀ (s : State) (stk i : Nat) (a : Acq) (e : LoadEnt), (s.stack stk).acqs[i]? = some a → a.left = [] →
    e ∈ (s.thread a.thr).loadq → e.seq = a.seq →
    ∃ t, exec (.acquireComplete stk i) s = .next t ∧ (t.stack stk).acqs = (s.stack stk).acqs.eraseIdx i
      ∧ (match a.sig with
         | some (b, ts) => (t.stack stk).acc.sig = (s.stack stk).acc.sig ||| b ∧ (t.stack stk).acc.t = max (s.stack stk).acc.t ts
         | none => (t.stack stk).acc.sig = (s.stack stk).acc.sig
             ∧ (t.stack stk).acc.t = max (s.stack stk).acc.t (s.podTime (stk / 4)))
      ∧ (∃ x ∈ (t.thread a.thr).loadq, x.seq = a.seq ∧ x.phase = .bound) ∧ MemorySame s t ∧ OthersSame s t a.thr

/-- R215, R324, R429: a fill that arrives for a register owed to a continuation at level 0 makes it full; one that finds no such register, or
a thread in a handler or escalated, goes toward the inbox of its polder. -/
def Sys2Proof.Claims.FillsArrive : Prop :=
  ∀ (s : State) (pol n : Nat) (f : Fill) (rest : List Fill), (s.polder pol).inflight = f :: rest → f.cross = false →
    f.dst = .s n → f.due = .cont → polOf f.ep = pol → n ≠ 0 → BanksOk (s.thread (thrOf f.ep)) →
    let r := s.thread (thrOf f.ep)
    ∃ t, exec (.sendFillArrival pol) s = .next t ∧ (t.polder pol).inflight = rest ∧ MemorySame s t ∧ OthersSame s t (thrOf f.ep)
      ∧ (r.live = true → r.escal = none → r.stOf (.s n) = .owed .cont → r.level = 0 →
          (t.thread (thrOf f.ep)).sreg n = { st := .full, val := f.val, mark := f.mark }
            ∧ ScalarsBut r (t.thread (thrOf f.ep)) [n] ∧ (t.polder pol).arriving = (s.polder pol).arriving)
      ∧ (r.live = false ∨ r.escal ≠ none ∨ r.stOf (.s n) ≠ .owed .cont ∨ 0 < r.level → t.thread (thrOf f.ep) = r
          ∧ ∃ x, (t.polder pol).arriving = (s.polder pol).arriving ++ [x] ∧ x.kind = 1 ∧ x.val = f.val ∧ x.ep = f.ep ∧ x.desig = n)

/-- R92: a thread's oldest load of another stack's memory or of the host that has had no reply ends with a mark of cause `REMOTE_FAILED`
(0x13); a store is performed and its thread raises the cause at its next turn. -/
def Sys2Proof.Claims.FarAccessesTimeOut : Prop :=
  (∀ (s : State) (ep va n : Nat) (tgt : Target) (e : LoadEnt), e ∈ (s.thread (thrOf ep)).loadq → e.phase ≠ .arrived → e.kind = .plain →
    (∀ l ∈ (s.thread (thrOf ep)).loadq, l.seq < e.seq → l.phase = .arrived ∨ farAccess (stkOf ep) l.pieces = false) →
    (s.thread (thrOf ep)).loadq.Pairwise (fun x y => x.seq < y.seq) →
    e.pieces = [{ lo := 0, len := n, tgt := tgt }] → e.vas = [(0, va, n)] → 0 < n → va < 2 ^ 64 →
    ((∃ ha c a, tgt = .host ha c a) ∨ ∃ pa c m, tgt = .dev pa c m ∧ stkOfPa pa ≠ stkOf ep) →
    ∃ t, exec (.farRequestTimeout ep false) s = .next t ∧ MemorySame s t ∧ OthersSame s t (thrOf ep)
      ∧ ∃ x ∈ (t.thread (thrOf ep)).loadq, x.seq = e.seq ∧ x.phase = .arrived
          ∧ x.mark = some { cause := 0x13, addr := va, origin := e.pc, efn := e.img })
  ∧ ∀ (s : State) (ep n : Nat) (tgt : Target) (e : StoreEnt), openStore s (coreOf ep) e → e.phase = .sent →
    e.pieces = [{ lo := 0, len := n, tgt := tgt }] →
    ((∃ ha c a, tgt = .host ha c a) ∨ ∃ pa c m, tgt = .dev pa c m ∧ stkOfPa pa ≠ stkOf ep) →
    (s.thread (coreOf ep * 8 + e.slot)).late = none →
    ∃ t, exec (.farRequestTimeout ep true) s = .next t ∧ MemorySame s t
      ∧ (t.core (coreOf ep)).sb = (s.core (coreOf ep)).sb.map (fun x => if x.seq = e.seq then { x with phase := .performed } else x)
      ∧ (t.thread (coreOf ep * 8 + e.slot)).late = some { cause := 0x13, addr := e.va, origin := e.pc, efn := e.img }
      ∧ OthersSame s t (coreOf ep * 8 + e.slot)

namespace Sys2Proof.Claims

/-- A store of one lane, in order, for each active lane of a scatter: address, piece and bytes. -/
def LaneStores (es : List StoreEnt) (addrs : List Nat) (ps : List Piece) (x : VReg) (on : List Nat) (slot : Nat) : Prop :=
  es.length = on.length ∧ ∀ j < on.length, ∃ e : StoreEnt, es[j]? = some e ∧ e.kind = .plain ∧ e.va = addrs.getD j 0 ∧ e.slot = slot
    ∧ e.pieces = [{ (ps.getD j { lo := 0, len := 0, tgt := .kdir 0 }) with lo := 0 }]
    ∧ e.data = (List.range 4).map fun b => (x >>> (32 * on.getD j 0 + 8 * b)).setWidth 8

/-- The lanes of a gather or a scatter translate in order. -/
def TranslatesLanes (s : State) (wr : Bool) (addrs : List Nat) (ps : List Piece) (s1 : State) : Prop :=
  TranslatesRuns s wr (addrs.zipIdx.map fun e => (4 * e.2, e.1, 4)) ps s1

/-- Nothing of a slot's accesses is pending. -/
def allPerformed (s : State) : Prop := s.loadsDone = true ∧ s.storesDone = true

end Sys2Proof.Claims

/-! ## Gather, scatter, fences, prefetch, continuations and channels -/

/-- R313: `gather` queues one load of the active lanes' words in lane order, and `scatter` stores them lane by lane; a lane's address is
the base plus its signed index shifted. A scatter that finds fewer places than lanes enters the lowest lanes, parks at its own
offset, and enters the rest when there is room. The first lane whose address is not a multiple of 4 raises `MISALIGN` with its
address, the lanes before it having translated. -/
def Sys2Proof.Claims.GatherAndScatter : Prop :=
  (∀ (s s1 : State) (v va b sc pr : Nat) (ps : List Piece), s.myCore.gang.donor = false ∨ slotNo s.cur ≠ 7 →
    let lanes := s.lanes s.thr
    let on := lanesOn lanes (s.me.preg pr).val
    let addrs := on.map (laneAddress s b va sc)
    (Ready s [.v va, .s b, .p pr] [.v v] → (∀ a ∈ addrs, a % 4 = 0) → TranslatesLanes s false addrs ps s1 → s.me.loadq.length < 8 →
      ∃ t e, exec (.gather v va b sc pr) s = .next t ∧ t.me.loadq = s1.me.loadq ++ [e] ∧ e.kind = .gather ∧ e.pieces = ps
        ∧ e.phase = .queued ∧ t.me.stOf (.v v) = .owed .result ∧ (∀ n, n ≠ v → t.me.vreg n = s1.me.vreg n)
        ∧ e.dest = .vector v (if (s.me.vreg v).st = .idle then 0 else (s.me.vreg v).val) (s.me.preg pr).val none lanes
        ∧ t.me.s = s1.me.s ∧ t.me.pc = s1.me.pc + 4 ∧ MemorySame s1 t ∧ OthersSame s1 t s1.thr)
    ∧ (Ready s [.v v, .v va, .s b, .p pr] [] → (∀ a ∈ addrs, a % 4 = 0) → TranslatesLanes s true addrs ps s1 →
      (∀ r x y, s.me.prog ≠ .scatter r x y) →
      ∃ (t : State) (es : List StoreEnt), exec (.scatter v va b sc pr) s = .next t ∧ t.myCore.sb = s1.myCore.sb ++ es
        ∧ LaneStores es addrs ps (s.me.vreg v).val (on.take (16 - s.myCore.sb.length)) (slotNo s.cur) ∧ t.me.s = s1.me.s ∧ t.me.v = s1.me.v
        ∧ (on.length + s.myCore.sb.length ≤ 16 → t.me.pc = s1.me.pc + 4)
        ∧ (16 < on.length + s.myCore.sb.length → t.me.pc = s1.me.pc ∧ t.me.wait = .storeBuf)
        ∧ MemorySame s1 t ∧ OthersSame s1 t s1.thr)
    ∧ ∀ before a rest, addrs = before ++ a :: rest → a % 4 ≠ 0 → (∀ x ∈ before, x % 4 = 0) →
        (Ready s [.v va, .s b, .p pr] [.v v] → TranslatesLanes s false before ps s1 →
          exec (.gather v va b sc pr) s = .next (s1.trap 0x03 a))
        ∧ (Ready s [.v v, .v va, .s b, .p pr] [] → TranslatesLanes s true before ps s1 → (∀ r x y, s.me.prog ≠ .scatter r x y) →
          exec (.scatter v va b sc pr) s = .next (s1.trap 0x03 a)))
  ∧ ∀ (s : State) (v va b sc pr : Nat) (rest : List (Nat × Target × List Byte)) (x y : Bool),
    s.myCore.gang.donor = false ∨ slotNo s.cur ≠ 7 → s.me.prog = .scatter rest x y → rest.length + s.myCore.sb.length ≤ 16 →
    ∃ (t : State) (es : List StoreEnt), exec (.scatter v va b sc pr) s = .next t ∧ t.myCore.sb = s.myCore.sb ++ es ∧ es.length = rest.length
      ∧ (∀ j : Nat, ∀ r : Nat × Target × List Byte, rest[j]? = some r → ∃ e : StoreEnt, es[j]? = some e ∧ e.kind = .plain ∧ e.va = r.1 ∧ e.slot = slotNo s.cur ∧ e.data = r.2.2
          ∧ e.pieces = [{ lo := 0, len := 4, tgt := r.2.1 }])
      ∧ t.me.s = s.me.s ∧ t.me.v = s.me.v ∧ t.me.pc = s.me.pc + 4 ∧ MemorySame s t ∧ OthersSame s t s.thr

/-- No pending store of the issuing slot goes to a memory that a test selects. -/
def noneTo (s : State) (p : Nat → Prop) : Prop :=
  ∀ e ∈ s.myCore.pending (slotNo s.cur), ∀ q ∈ e.pieces, ∀ pa c m, q.tgt = .dev pa c m → ¬p pa

/-- R116, R317: a core or polder fence goes on once the slot's older stores to its core's TCM, or to that and its polder's scratchpad, have
performed, and parks until then; a stack fence once all its older loads and stores have. A fence of package scope or above
then also writes back every dirty far line of the stack and drops those that its scope selects, when none of these is pinned,
and T is at least the pod time after it. A fence changes no register. -/
def Sys2Proof.Claims.FencesComplete : Prop :=
  let isTcm (pa : Nat) : Prop := region pa = .tcm
  let isLocal (s : State) (pa : Nat) : Prop := region pa = .tcm ∨ (region pa = .spad ∧ polOfSpad pa = polOf s.cur)
  let plain (s : State) (scope : Scope) : Prop := ∃ t, exec (.fence scope) s = .next t ∧ t.me.pc = s.me.pc + 4 ∧ t.me.s = s.me.s
    ∧ t.me.v = s.me.v ∧ OnlyThread s t s.thr ∧ ∀ k, t.core k = s.core k
  let parks (s : State) (scope : Scope) (why : Park) : Prop := exec (.fence scope) s = .next (s.park why)
  (∀ s : State, (noneTo s isTcm → plain s .core) ∧ (¬noneTo s isTcm → parks s .core .stores))
  ∧ (∀ s : State, (noneTo s (isLocal s) → plain s .polder) ∧ (¬noneTo s (isLocal s) → parks s .polder .stores))
  ∧ (∀ s : State, allPerformed s → plain s .stack)
  ∧ (∀ (s : State) (scope : Scope), (scope = .stack ∨ scope = .package ∨ scope = .pod ∨ scope = .host) →
    (s.loadsDone = false → parks s scope .loads) ∧ (s.loadsDone = true → s.storesDone = false → parks s scope .stores))
  ∧ ∀ (s : State) (scope : Scope) (selected : Nat → Bool), allPerformed s →
    (scope = .package ∧ selected = (fun line => decide (line < 2 ^ 60) && stkOfPa (line * 64) / 4 == stkOf s.cur / 4)
      ∨ scope = .pod ∧ selected = (fun line => decide (line < 2 ^ 60)) ∨ scope = .host ∧ selected = fun _ => true) →
    ((s.writebackFar (stkOf s.cur)).farPinned (stkOf s.cur) fun line _ => selected line) = false →
    ∃ t, exec (.fence scope) s = .next t ∧ t.me.pc = s.me.pc + 4 ∧ t.me.s = s.me.s ∧ t.me.v = s.me.v ∧ OthersSame s t s.thr
      ∧ t.myStack.acc.t = max s.myStack.acc.t (s.podTime (pkgOf s.cur))
      ∧ ((∀ k, SMap.wf (s.slice k).lines = true) →
          ∀ line l, t.line? (proxyOf (stkOf s.cur) line) line = some l → l.kind = .far → selected line = false)
      ∧ (noFar s (stkOf s.cur) → MemorySame s t)

/-- R318: `pf` always completes and changes no register, no trap state and no store of its core; it moves past itself whatever its address
does. In the windows nothing else of the machine changes. A cacheable line of the issuing stack's own DRAM that nothing holds
is in its home slice with every word valid after it. -/
def Sys2Proof.Claims.PrefetchCompletes : Prop :=
  ∀ (s : State) (a : Nat), Ready s [.s a] [] → let s0 := (s.popIf [a]).advance 4
    ∃ t, exec (.pf a) s = .next t ∧ t.me.pc = s.me.pc + 4 ∧ t.me.s = s.me.s ∧ t.me.v = s.me.v ∧ t.me.p = s.me.p
      ∧ t.me.level = s.me.level ∧ t.me.bank1 = s.me.bank1 ∧ t.me.entry = s.me.entry ∧ t.myCore.sb = s.myCore.sb ∧ OthersSame s t s.thr
      ∧ (0xFFFFFFFFC0000000 ≤ (s.sval a).toNat → t = s0)
      ∧ ∀ (s1 : State) (pa : Nat), (s.sval a).toNat < 0xFFFFFFFFC0000000 → s0.xlateNow (s.sval a).toNat false = (.ok (.dev pa true false), s1) →
          region pa = .dram → stkOfPa pa = stkOf s.cur → s1.addrHeld (pa / 64 * 64) = false → s1.homeLine? pa = none →
          s1.noRoom (proxyDev (stkOf s.cur) pa) (devLine pa) = false → s1.replica? (some (sliceOf s.cur)) (pa / 64 * 64) 64 = none →
          ∃ l, t.homeLine? pa = some l ∧ l.wv = 0xFFFF

/-- R19, R322, R323: `mkcont` makes its register owed to a fill and writes the word that names it: kind in bit 37, number in [36:32], the
issuing endpoint below; `send` to a well-formed continuation of the dike takes a store-buffer place with its value. -/
def Sys2Proof.Claims.ContinuationsAreMadeAndSent : Prop :=
  (∀ (s : State) (d a : Nat) (kind : RegKind), Ready s [] [.s d, kindDesig kind a] → BanksOk s.me → d ≠ 0 →
    (kind = .scalar → a ≠ d ∧ a ≠ 0) →
    ∃ t, exec (.mkcont d a kind) s = .next t ∧ t.me.pc = s.me.pc + 4
      ∧ t.me.sreg d = Cell.full (BitVec.ofNat 64 ((if kind = .vector then 2 ^ 37 else 0) + a * 2 ^ 32 + s.cur))
      ∧ t.me.stOf (kindDesig kind a) = .owed .cont
      ∧ (∀ n, n ≠ d → (kind = .scalar → n ≠ a) → t.me.sreg n = s.me.sreg n) ∧ (∀ n, (kind = .vector → n ≠ a) → t.me.vreg n = s.me.vreg n)
      ∧ OnlyThread s t s.thr ∧ ∀ k, t.core k = s.core k)
  ∧ (∀ (s : State) (a b : Nat), Ready s [.s a, .s b] [] → s.myCore.sb.length < 16 →
    let c := (s.sval a).toNat
    let ep := c % 2 ^ 32
    c < 2 ^ 38 → (c / 2 ^ 37 % 2 = 1 → c / 2 ^ 32 % 32 < 16) → (c / 2 ^ 37 % 2 = 0 → c / 2 ^ 32 % 32 ≠ 0) → s.epWf ep = true →
    s.jobOf ep = s.jobOf s.cur → s.jobOf s.cur ≠ 0 → (slotNo ep = 7 → slotNo s.cur = 7) →
    ∃ t e, exec (.send a b) s = .next t ∧ t.myCore.sb = s.myCore.sb ++ [e] ∧ e.kind = .send c (s.sval b).toNat ∧ e.slot = slotNo s.cur
      ∧ e.phase = .waiting ∧ t.me.s = s.me.s ∧ t.me.loadq = s.me.loadq ∧ OnlyLoads s.me t.me ∧ Queued s t [a, b])
  ∧ ∀ (s : State) (a b : Nat), Ready s [.s a, .s b] [] →
    let c := (s.sval a).toNat
    let ep := c % 2 ^ 32
    ((2 ^ 38 ≤ c ∨ s.epWf ep = false) → exec (.send a b) s = .next (s.trap 0x05 c))
      ∧ (s.contWf c = true → s.jobOf ep ≠ s.jobOf s.cur → exec (.send a b) s = .next (s.trap 0x06 c))
      ∧ (s.contWf c = true → s.jobOf ep = s.jobOf s.cur → s.jobOf s.cur ≠ 0 → slotNo ep = 7 → slotNo s.cur ≠ 7 →
          exec (.send a b) s = .next (s.trap 0x02 c))

/-- R212, R325, R326: `qcfg` with legal ends and empty channels sets them (15 leaves an end unchanged); an upstream end that becomes none also
gives the spill area back, whose bytes alone may then differ. `qstat` reads the ends, whether
both sides agree, and the entries on either side. -/
def Sys2Proof.Claims.ChannelsAreConfigured : Prop :=
  (∀ (s : State) (a b : Nat), Ready s [.s a, .s b] [] → s.me.roam = false →
    let u := (s.sval a).toNat
    let d := (s.sval b).toNat
    let legal (x : Nat) : Prop := (x ≤ 8 ∧ x ≠ coreNo s.cur) ∨ x = 15
    legal u → legal d → (u = 15 ∨ u = s.myCore.up ∨ s.myCore.chan = []) →
    (d = 15 ∨ d = s.myCore.down ∨ ∀ k, s.downCore = some k → (s.core k).chan = []) →
    ∃ t, exec (.qcfg a b) s = .next t ∧ t.me.pc = s.me.pc + 4 ∧ t.me.s = s.me.s
      ∧ t.myCore = { s.myCore with up := (if u = 15 then s.myCore.up else u), down := (if d = 15 then s.myCore.down else d),
                                    chan := (if a = 28 ∨ b = 28 then s.myCore.chan.drop 1 else s.myCore.chan),
                                    spilled := if u = 8 then false else s.myCore.spilled }
      ∧ (∀ k, k ≠ coreOf s.cur → t.core k = s.core k) ∧ OthersSame s t s.thr
      ∧ BytesBut s t (spadPa (polOf s.cur) (0xC000 + coreNo s.cur * 0x800)) 0x800
      ∧ ((u ≠ 8 ∨ s.myCore.spilled = false) → OnlyThread s t s.thr))
  ∧ (∀ (s : State) (a b : Nat), Ready s [.s a, .s b] [] →
    (8 < (s.sval a).toNat ∧ (s.sval a).toNat ≠ 15 ∨ (s.sval a).toNat = coreNo s.cur) →
    exec (.qcfg a b) s = .next (s.trap 0x01 (s.sval a).toNat))
  ∧ ∀ (s : State) (d : Nat), s.me.roam = false → Ready s [] [.s d] → s.myCore.up ≤ 8 → s.myCore.down ≤ 8 → s.myCore.chan.length < 512 →
    (∀ k, (s.core k).chan.length < 512) →
    ∃ x : W64, exec (.qstat d) s = .next (result s [] d 4 x) ∧ (x.toNat / 2 ^ 24 % 16 = s.myCore.up) ∧ (x.toNat / 2 ^ 28 = s.myCore.down)
      ∧ (x.getLsbD 22 = s.upLink) ∧ (x.getLsbD 23 = s.downLink)
      ∧ (x.toNat % 2 ^ 9 = if s.upLink then s.myCore.chan.length else 0)
      ∧ (x.toNat / 2 ^ 9 % 2 ^ 9 = match s.downCore with | some k => if s.downLink then (s.core k).chan.length else 0 | none => 0)

namespace Sys2Proof.Claims

/-- Element `k` of width `w` of a vector register (R205). -/
def el (w : Nat) (x : VReg) (k : Nat) : BitVec w := (x >>> (w * k)).setWidth w

/-- Element `k` of vector register `r` of the issuing thread. -/
def vel (s : State) (w r k : Nat) : BitVec w := el w (s.me.vreg r).val k

/-- What a vector instruction needs beside its operands: no donor's slot 7 (R203), and no format change of its core under way when it
reads the context (R347, R350). -/
def mayRun (s : State) (ctx : Bool) : Prop :=
  (s.myCore.gang.donor = false ∨ slotNo s.cur ≠ 7) ∧ (ctx = true → s.myCore.mcfgBusy = none)

/-- The result of a vector instruction has reached its register, or waits for it as a long-latency result (R189, R346). -/
def Given (s t : State) (d : Desig) (x : RVal) (slow : Bool) : Prop :=
  if slow = true ∨ s.me.long = true then
    t.me.stOf d = .owed .result ∧ t.me.fills = s.me.fills ++ [{ dst := d, val := x, mark := none }]
  else t.me.fills = s.me.fills ∧ t.me.stOf d = .full ∧ t.me.markOf d = none ∧ (match d, x with
    | .s n, .s v => (t.me.sreg n).val = v
    | .v n, .v v => (t.me.vreg n).val = v
    | .p n, .p v => (t.me.preg n).val = v
    | _, _ => False)

/-- What a vector instruction leaves alone: every register but its destination, and everything outside its thread. -/
structure VecFrame (s t : State) (d : Desig) (size : Nat) : Prop where
  pc : t.me.pc = s.me.pc + size
  scalars : ∀ n, d ≠ .s n → t.me.sreg n = s.me.sreg n
  vectors : ∀ n, d ≠ .v n → t.me.vreg n = s.me.vreg n
  preds : ∀ n, d ≠ .p n → t.me.preg n = s.me.preg n
  rest : OnlyRegs s.me t.me
  cores : ∀ k, t.core k = s.core k
  outside : OnlyThread s t s.thr

/-- An element-wise vector instruction: its sources, destination, mask (`p0` for none), element width, whether it is slow or reads the
context, the lane it names, and element `k` of its result. -/
structure VecForm where
  srcs : List Desig
  vd : Nat
  mask : Nat
  w : Nat
  slow : Bool
  ctx : Bool
  lane : Nat
  value : State → (k : Nat) → BitVec w

/-- The exact value of an element of a format, and an exact value rounded once to it with `rne` (R331). -/
def fval (s : State) (f : Fmt) (r k : Nat) : FV := fmtDecode f (vel s (fmtWidth f) r k).toNat
def rne (f : Fmt) (v : FV) : BitVec (fmtWidth f) := BitVec.ofNat (fmtWidth f) (roundTo v f .rne false 0)

def float1 (f : Fmt) (vd va pr : Nat) (op : FV → FV) : Option VecForm :=
  some { srcs := [.v va, .p pr], vd := vd, mask := pr, w := fmtWidth f, slow := false, ctx := false, lane := 0,
         value := fun s k => rne f (op (fval s f va k)) }
def float2 (f : Fmt) (vd va vb pr : Nat) (op : FV → FV → FV) : Option VecForm :=
  some { srcs := [.v va, .v vb, .p pr], vd := vd, mask := pr, w := fmtWidth f, slow := false, ctx := false, lane := 0,
         value := fun s k => rne f (op (fval s f va k) (fval s f vb k)) }
def float3 (f : Fmt) (vd va vb vc pr : Nat) (op : FV → FV → FV → FV) : Option VecForm :=
  some { srcs := [.v va, .v vb, .v vc, .p pr], vd := vd, mask := pr, w := fmtWidth f, slow := false, ctx := false, lane := 0,
         value := fun s k => rne f (op (fval s f va k) (fval s f vb k) (fval s f vc k)) }
def special (vd va pr : Nat) (f : BitVec 32 → BitVec 32) : Option VecForm :=
  some { srcs := [.v va, .p pr], vd := vd, mask := pr, w := 32, slow := true, ctx := false, lane := 0,
         value := fun s k => f (vel s 32 va k) }

/-- The floating-point arithmetic of the three formats (R331) and the special functions (R332). -/
def floatForm : Instr → Option VecForm
  | .vf32Add vd va vb pr => float2 .f32 vd va vb pr FV.add
  | .vf32Sub vd va vb pr => float2 .f32 vd va vb pr fun a b => a.add b.neg
  | .vf32Mul vd va vb pr => float2 .f32 vd va vb pr FV.mul
  | .vf32Fma vd va vb vc pr => float3 .f32 vd va vb vc pr fun a b c => (a.mul b).add c
  | .vf32Fms vd va vb vc pr => float3 .f32 vd va vb vc pr fun a b c => (a.mul b).add c.neg
  | .vf32Fnma vd va vb vc pr => float3 .f32 vd va vb vc pr fun a b c => (a.mul b).neg.add c
  | .vf32Min vd va vb pr => float2 .f32 vd va vb pr FV.min
  | .vf32Max vd va vb pr => float2 .f32 vd va vb pr FV.max
  | .vf32Abs vd va pr => float1 .f32 vd va pr FV.abs
  | .vf32Neg vd va pr => float1 .f32 vd va pr FV.neg
  | .vbf16Add vd va vb pr => float2 .bf16 vd va vb pr FV.add
  | .vbf16Sub vd va vb pr => float2 .bf16 vd va vb pr fun a b => a.add b.neg
  | .vbf16Mul vd va vb pr => float2 .bf16 vd va vb pr FV.mul
  | .vbf16Fma vd va vb vc pr => float3 .bf16 vd va vb vc pr fun a b c => (a.mul b).add c
  | .vbf16Fms vd va vb vc pr => float3 .bf16 vd va vb vc pr fun a b c => (a.mul b).add c.neg
  | .vbf16Fnma vd va vb vc pr => float3 .bf16 vd va vb vc pr fun a b c => (a.mul b).neg.add c
  | .vbf16Min vd va vb pr => float2 .bf16 vd va vb pr FV.min
  | .vbf16Max vd va vb pr => float2 .bf16 vd va vb pr FV.max
  | .vbf16Abs vd va pr => float1 .bf16 vd va pr FV.abs
  | .vbf16Neg vd va pr => float1 .bf16 vd va pr FV.neg
  | .vf16Add vd va vb pr => float2 .f16 vd va vb pr FV.add
  | .vf16Sub vd va vb pr => float2 .f16 vd va vb pr fun a b => a.add b.neg
  | .vf16Mul vd va vb pr => float2 .f16 vd va vb pr FV.mul
  | .vf16Fma vd va vb vc pr => float3 .f16 vd va vb vc pr fun a b c => (a.mul b).add c
  | .vf16Fms vd va vb vc pr => float3 .f16 vd va vb vc pr fun a b c => (a.mul b).add c.neg
  | .vf16Fnma vd va vb vc pr => float3 .f16 vd va vb vc pr fun a b c => (a.mul b).neg.add c
  | .vf16Min vd va vb pr => float2 .f16 vd va vb pr FV.min
  | .vf16Max vd va vb pr => float2 .f16 vd va vb pr FV.max
  | .vf16Abs vd va pr => float1 .f16 vd va pr FV.abs
  | .vf16Neg vd va pr => float1 .f16 vd va pr FV.neg
  | .vf32Rcp vd va pr => special vd va pr fun a => f32Rcp (Config.special 13 a) a
  | .vf32Rsqrt vd va pr => special vd va pr fun a => f32Rsqrt (Config.special 14 a) a
  | .vf32Sqrt vd va pr => special vd va pr fun a => toF32 (fvSqrt (ofF32 a))
  | .vf32Exp2 vd va pr => special vd va pr fun a => f32Exp2 (Config.special 16 a) a
  | .vf32Log2 vd va pr => special vd va pr fun a => f32Log2 (Config.special 17 a) a
  | .vf32Tanh vd va pr => special vd va pr fun a => f32Tanh (Config.special 18 a) a
  | .vf32Sig vd va pr => special vd va pr fun a => f32Sig (Config.special 19 a) a
  | _ => none

def ints (vd : Nat) (srcs : List Nat) (pr : Nat) (ty : IntTy) (op : (w : Nat) → (Nat → BitVec w) → BitVec w) : Option VecForm :=
  some { srcs := srcs.map Desig.v ++ [.p pr], vd := vd, mask := pr, w := tyWidth ty, slow := false, ctx := false, lane := 0,
         value := fun s k => op (tyWidth ty) fun i => vel s (tyWidth ty) (srcs.getD i 0) k }

/-- The integer arithmetic of R333, on elements of 32, 16 or 8 bits. -/
def integerForm : Instr → Option VecForm
  | .vintAdd vd va vb pr ty => ints vd [va, vb] pr ty fun _ x => x 0 + x 1
  | .vintSub vd va vb pr ty => ints vd [va, vb] pr ty fun _ x => x 0 - x 1
  | .vintMul vd va vb pr ty => ints vd [va, vb] pr ty fun _ x => x 0 * x 1
  | .vintMad vd va vb vc pr ty => ints vd [va, vb, vc] pr ty fun _ x => x 0 * x 1 + x 2
  | .vintMin vd va vb pr ty => ints vd [va, vb] pr ty fun _ x => if (x 0).sle (x 1) then x 0 else x 1
  | .vintMax vd va vb pr ty => ints vd [va, vb] pr ty fun _ x => if (x 0).sle (x 1) then x 1 else x 0
  | .vintMinu vd va vb pr ty => ints vd [va, vb] pr ty fun _ x => if (x 0).ule (x 1) then x 0 else x 1
  | .vintMaxu vd va vb pr ty => ints vd [va, vb] pr ty fun _ x => if (x 0).ule (x 1) then x 1 else x 0
  | .vintAnd vd va vb pr ty => ints vd [va, vb] pr ty fun _ x => x 0 &&& x 1
  | .vintOr vd va vb pr ty => ints vd [va, vb] pr ty fun _ x => x 0 ||| x 1
  | .vintXor vd va vb pr ty => ints vd [va, vb] pr ty fun _ x => x 0 ^^^ x 1
  | .vintSll vd va vb pr ty => ints vd [va, vb] pr ty fun w x => x 0 <<< ((x 1).toNat % w)
  | .vintSrl vd va vb pr ty => ints vd [va, vb] pr ty fun w x => x 0 >>> ((x 1).toNat % w)
  | .vintSra vd va vb pr ty => ints vd [va, vb] pr ty fun w x => (x 0).sshiftRight ((x 1).toNat % w)
  | .vintAbs vd va pr ty => ints vd [va] pr ty fun _ x => if (x 0).msb then -(x 0) else x 0
  | _ => none

/-- A rearrangement of lanes. -/
def lanes32 (srcs : List Desig) (vd mask lane : Nat) (f : State → Nat → BitVec 32) : Option VecForm :=
  some { srcs := srcs, vd := vd, mask := mask, w := 32, slow := false, ctx := false, lane := lane, value := f }

/-- The lanes that a predicate selects, and the number of them below a lane. -/
def onIn (s : State) (pr : Nat) : List Nat := lanesOn (s.lanes s.thr) (s.me.preg pr).val

/-- The permutes (R334) and `vsel` (R336). -/
def permuteForm : Instr → Option VecForm
  | .bcast vd sa pr => lanes32 [.s sa, .p pr] vd pr 0 fun s _ => (s.me.sreg sa).val.setWidth 32
  | .ins vd sa lane => lanes32 [.s sa] vd 0 lane fun s i =>
      if i = lane then (s.me.sreg sa).val.setWidth 32 else if (s.me.vreg vd).st = .idle then 0 else vel s 32 vd i
  | .perm vd va vb pr => lanes32 [.v va, .v vb, .p pr] vd pr 0 fun s i => vel s 32 va ((vel s 32 vb i).toNat % s.lanes s.thr)
  | .rot vd va n pr => lanes32 [.v va, .p pr] vd pr 0 fun s i => vel s 32 va ((i + n) % s.lanes s.thr)
  | .zip vd va vb pr => lanes32 [.v va, .v vb, .p pr] vd pr 0 fun s i => if i % 2 = 0 then vel s 32 va (i / 2) else vel s 32 vb (i / 2)
  | .unzip vd va vb pr => lanes32 [.v va, .v vb, .p pr] vd pr 0 fun s i =>
      if 2 * i < s.lanes s.thr then vel s 32 va (2 * i) else vel s 32 vb (2 * i - s.lanes s.thr)
  | .compress vd va pr => lanes32 [.v va, .p pr] vd 0 0 fun s i => match (onIn s pr)[i]? with | some j => vel s 32 va j | none => 0
  | .expand vd va pr => lanes32 [.v va, .p pr] vd pr 0 fun s i => vel s 32 va ((onIn s pr).filter (· < i)).length
  | .vsel vd va vb pr => lanes32 [.v va, .v vb, .p pr] vd 0 0 fun s i => if (s.me.preg pr).val.getLsbD i then vel s 32 va i else vel s 32 vb i
  | _ => none

/-- The tree of R280: at each level neighbours combine, and a member without a partner passes on. -/
def tree (f : BitVec 32 → BitVec 32 → BitVec 32) : Nat → (Nat → Option (BitVec 32)) → Nat → Option (BitVec 32)
  | 0, x, i => x i
  | n + 1, x, i =>
    match tree f n x (2 * i), tree f n x (2 * i + 1) with
    | some a, some b => some (f a b)
    | some a, none => some a
    | none, b => b

/-- A reduction over the active lanes: lane 0 takes the value at the root of the tree of 32 lanes, or the value for no lane. -/
def reduction (vd va pr : Nat) (empty : BitVec 32) (float : Bool) (f : BitVec 32 → BitVec 32 → BitVec 32) : Option VecForm :=
  some { srcs := [.v va, .p pr], vd := vd, mask := 0, w := 32, slow := true, ctx := false, lane := 0,
         value := fun s i =>
           let leaf (j : Nat) : Option (BitVec 32) :=
             if j < s.lanes s.thr ∧ (s.me.preg pr).val.getLsbD j then
               (if float ∧ 0x7F800000 < (vel s 32 va j).toNat % 2 ^ 31 then some 0x7FC00000 else some (vel s 32 va j))
             else none
           if i = 0 then (tree f 5 leaf 0).getD empty else 0 }

/-- The reductions of R335. -/
def reduceForm : Instr → Option VecForm
  | .vredSumF32 vd va pr => reduction vd va pr 0 true f32Add
  | .vredMaxF32 vd va pr => reduction vd va pr 0xFF800000 true f32Max
  | .vredMinF32 vd va pr => reduction vd va pr 0x7F800000 true f32Min
  | .vredSumI32 vd va pr => reduction vd va pr 0 false fun a b => a + b
  | .vredMaxI32 vd va pr => reduction vd va pr 0x80000000 false fun a b => if a.sle b then b else a
  | .vredMinI32 vd va pr => reduction vd va pr 0x7FFFFFFF false fun a b => if a.sle b then a else b
  | .vredAnd vd va pr => reduction vd va pr 0xFFFFFFFF false fun a b => a &&& b
  | .vredOr vd va pr => reduction vd va pr 0 false fun a b => a ||| b
  | _ => none

/-- Scaling and companding of lanes (R277, R278, R340, R341): the scale byte of a lane stands in the second source. -/
def scaleForm : Instr → Option VecForm
  | .comp vd va vb pr => some {
      srcs := [.v va, .v vb, .p pr], vd := vd, mask := pr, w := 32, slow := false, ctx := true, lane := 0,
      value := fun s i =>
        let e := (vel s 32 vb i).toNat % 256
        if e = 255 then 0x7FC00000 else toF32 (compand s.myCore.ctx.table ((ofF32 (vel s 32 va i)).scale (127 - Int.ofNat e))) }
  | .dcomp vd va vb pr => some {
      srcs := [.v va, .v vb, .p pr], vd := vd, mask := pr, w := 32, slow := false, ctx := true, lane := 0,
      value := fun s i =>
        let e := (vel s 32 vb i).toNat % 256
        if e = 255 then 0x7FC00000 else toF32 ((invert s.myCore.ctx.table (ofF32 (vel s 32 va i))).scale (Int.ofNat e - 127)) }
  | .vscl vd va pr => some {
      srcs := [.v va, .p pr], vd := vd, mask := 0, w := 32, slow := true, ctx := true, lane := 0,
      value := fun s i =>
        let greatest := (onIn s pr).foldl (fun m j => m.max (ofF32 (vel s 32 va j)).abs) (FV.zero false)
        if i = 0 then BitVec.ofNat 32 (scaleFor greatest ((Fmt.ofCode s.myCore.ctx.afmt).getD .f32)) else 0 }
  | _ => none

/-- Every element-wise vector instruction. -/
def vecForm (i : Instr) : Option VecForm :=
  (floatForm i).orElse fun _ => (integerForm i).orElse fun _ => (permuteForm i).orElse fun _ => (reduceForm i).orElse fun _ => scaleForm i

/-- A comparison: sources, mask, element width, and the test of element `k`. -/
structure CmpForm where
  srcs : List Desig
  pd : Nat
  mask : Nat
  w : Nat
  test : State → Nat → Bool

def floatCmp (f : Fmt) (pd va vb pr : Nat) (op : FV → FV → Bool) : Option CmpForm :=
  some { srcs := [.v va, .v vb, .p pr], pd := pd, mask := pr, w := fmtWidth f, test := fun s k => op (fval s f va k) (fval s f vb k) }
def intCmp (pd va vb pr : Nat) (ty : IntTy) (op : (w : Nat) → BitVec w → BitVec w → Bool) : Option CmpForm :=
  some { srcs := [.v va, .v vb, .p pr], pd := pd, mask := pr, w := tyWidth ty,
         test := fun s k => op (tyWidth ty) (vel s (tyWidth ty) va k) (vel s (tyWidth ty) vb k) }

/-- The comparisons of R331 and R333. -/
def cmpForm : Instr → Option CmpForm
  | .vf32Cmpeq vd va vb pr => floatCmp .f32 vd va vb pr FV.eq
  | .vf32Cmplt vd va vb pr => floatCmp .f32 vd va vb pr FV.lt
  | .vf32Cmple vd va vb pr => floatCmp .f32 vd va vb pr fun a b => a.lt b || a.eq b
  | .vbf16Cmpeq vd va vb pr => floatCmp .bf16 vd va vb pr FV.eq
  | .vbf16Cmplt vd va vb pr => floatCmp .bf16 vd va vb pr FV.lt
  | .vbf16Cmple vd va vb pr => floatCmp .bf16 vd va vb pr fun a b => a.lt b || a.eq b
  | .vf16Cmpeq vd va vb pr => floatCmp .f16 vd va vb pr FV.eq
  | .vf16Cmplt vd va vb pr => floatCmp .f16 vd va vb pr FV.lt
  | .vf16Cmple vd va vb pr => floatCmp .f16 vd va vb pr fun a b => a.lt b || a.eq b
  | .vintCmpeq vd va vb pr ty => intCmp vd va vb pr ty fun _ a b => a == b
  | .vintCmplt vd va vb pr ty => intCmp vd va vb pr ty fun _ a b => a.slt b
  | .vintCmpltu vd va vb pr ty => intCmp vd va vb pr ty fun _ a b => a.ult b
  | _ => none

/-- Bit `i` of predicate `n`; `p0` is always set. -/
def bit (s : State) (n i : Nat) : Bool := (s.me.preg n).val.getLsbD i

/-- The functions on predicates (R336): sources, destination and bit `i` of the result. -/
def predForm : Instr → Option (List Desig × Nat × (State → Nat → Bool))
  | .pand pd pa pb => some ([.p pa, .p pb], pd, fun s i => bit s pa i && bit s pb i)
  | .por pd pa pb => some ([.p pa, .p pb], pd, fun s i => bit s pa i || bit s pb i)
  | .pxor pd pa pb => some ([.p pa, .p pb], pd, fun s i => bit s pa i != bit s pb i)
  | .pnot pd pa => some ([.p pa], pd, fun s i => !bit s pa i)
  | .pset pd sa => some ([.s sa], pd, fun s i => (s.me.sreg sa).val.getLsbD i)
  | _ => none

/-- The vector instructions that write a scalar (R334, R336): source, destination, the lane named, the value. -/
def scalarOut : Instr → Option (Desig × Nat × Nat × (State → W64))
  | .ext sd va lane => some (.v va, sd, lane, fun s => (vel s 32 va lane).setWidth 64)
  | .pcnt sd pa => some (.p pa, sd, 0, fun s => BitVec.ofNat 64 (onIn s pa).length)
  | .pfirst sd pa => some (.p pa, sd, 0, fun s => match (onIn s pa).head? with | some i => BitVec.ofNat 64 i | none => BitVec.allOnes 64)
  | _ => none

/-- The conversions (R337, R338): what becomes of the value of an element, with its scale byte and its random bits. -/
def conversion (fn : CvtWord → CompTable → Nat → FV → Nat → Nat) (vd va pr : Nat) (w : CvtWord) : List Desig × Nat × Nat × Nat × CvtWord
    × (State → Nat → Nat → Nat) :=
  (.v va :: ((match w.scale with | some vs => [.v vs] | none => []) ++ [.p pr]), vd, va, pr, w, fun s k rb =>
    let e := match w.scale with | some vs => (vel s 8 vs (k / 32)).toNat | none => 127
    fn w s.myCore.ctx.table e (fmtDecode w.src (vel s (fmtWidth w.src) va k).toNat) rb)

/-- `cvt` rounds as its word says; `qnt` scales down, compands and rounds; `dqnt` expands, scales up and rounds with `rne`. A scale of
255 is a NaN (R274). -/
def convertForm : Instr → Option (Bool × List Desig × Nat × Nat × Nat × CvtWord × (State → Nat → Nat → Nat))
  | .cvt vd va pr w => some (true, conversion (fun w _ _ v rb => roundTo v w.dst w.rnd w.sat rb) vd va pr w)
  | .qnt vd va pr w => some (true, conversion (fun w t e v rb =>
      let x : FV := if e = 255 then .nan else v.scale (127 - Int.ofNat e)
      roundTo (if w.cmp then compand t x else x) w.dst w.rnd w.sat rb) vd va pr w)
  | .dqnt vd va pr w => some (false, conversion (fun w t e v _ =>
      let x : FV := if w.cmp then invert t v else v
      roundTo (if e = 255 then .nan else x.scale (Int.ofNat e - 127)) w.dst .rne w.sat 0) vd va pr w)
  | _ => none

end Sys2Proof.Claims

/-! ## Vector instructions (chapter 14) -/

/-- R329, R331 to R335, R340, R341: every element-wise vector instruction completes with its stated elements under its predicate: a masked
lane keeps the destination's old bits (zero when it was idle), and nothing stands above the view's lanes. Arithmetic rounds once
from the exact value; a special function is a free value within its bound (log 46). -/
def Sys2Proof.Claims.VectorElementResults : Prop :=
  ∀ (i : Instr) (f : VecForm) (s : State), vecForm i = some f → mayRun s f.ctx → Ready s f.srcs [.v f.vd] → BanksOk s.me →
    f.lane < s.lanes s.thr →
    ∃ t x, exec i s = .next t ∧ Given s t (.v f.vd) (.v x) f.slow ∧ VecFrame s t (.v f.vd) 4
      ∧ (∀ k < s.lanes s.thr * 32 / f.w, el f.w x k = if bit s f.mask (k * f.w / 32) then f.value s k
          else if (s.me.vreg f.vd).st = .idle then 0 else vel s f.w f.vd k)
      ∧ ∀ b, s.lanes s.thr * 32 ≤ b → x.getLsbD b = false

/-- R330, R331, R333: a comparison sets the predicate bit of each active lane when its test holds in every element of the lane, clears it
otherwise, keeps the bit of a masked lane (clear when the register was idle) and clears the bits above the view; `p0` discards it. -/
def Sys2Proof.Claims.VectorComparisonResults : Prop :=
  ∀ (i : Instr) (f : CmpForm) (s : State), cmpForm i = some f → mayRun s false → Ready s f.srcs [.p f.pd] → BanksOk s.me →
    ∃ t x, exec i s = .next t ∧ (f.pd ≠ 0 → Given s t (.p f.pd) (.p x) false) ∧ t.me.preg 0 = s.me.preg 0 ∧ VecFrame s t (.p f.pd) 4
      ∧ (∀ k < s.lanes s.thr, x.getLsbD k = if bit s f.mask k then (List.range (32 / f.w)).all (fun j => f.test s (32 / f.w * k + j))
          else if (s.me.preg f.pd).st = .idle then false else bit s f.pd k)
      ∧ ∀ b, s.lanes s.thr ≤ b → x.getLsbD b = false

/-- R334, R336: the functions on predicates, and the instructions that take a lane, a count or the first active lane to a scalar register;
a lane that the view lacks raises `ILLEGAL` with its number; `p0` and `s0` discard a result. -/
def Sys2Proof.Claims.PredicateResults : Prop :=
  (∀ (i : Instr) (srcs : List Desig) (pd : Nat) (f : State → Nat → Bool) (s : State), predForm i = some (srcs, pd, f) → mayRun s false →
    Ready s srcs [.p pd] → BanksOk s.me →
    ∃ t x, exec i s = .next t ∧ (pd ≠ 0 → Given s t (.p pd) (.p x) false) ∧ t.me.preg 0 = s.me.preg 0 ∧ VecFrame s t (.p pd) 4
      ∧ (∀ k < s.lanes s.thr, x.getLsbD k = f s k) ∧ ∀ b, s.lanes s.thr ≤ b → x.getLsbD b = false)
  ∧ (∀ (i : Instr) (src : Desig) (sd lane : Nat) (f : State → W64) (s : State), scalarOut i = some (src, sd, lane, f) → mayRun s false →
    Ready s [src] [.s sd] → BanksOk s.me → lane < s.lanes s.thr →
    ∃ t, exec i s = .next t ∧ (sd ≠ 0 → Given s t (.s sd) (.s (f s)) false) ∧ t.me.sreg 0 = s.me.sreg 0 ∧ VecFrame s t (.s sd) 4)
  ∧ ∀ (s : State) (d a lane : Nat), mayRun s false → s.lanes s.thr ≤ lane →
    (Ready s [.v a] [.s d] → exec (.ext d a lane) s = .next (s.trap 0x01 lane))
      ∧ (Ready s [.s a] [.v d] → exec (.ins d a lane) s = .next (s.trap 0x01 lane))

/-- R337, R338, R271: a conversion of well-formed formats writes each active element of the common count from its source element, its
scale byte and, under `sr`, its place among the active elements, and keeps the old element of a masked one; under `sr` the
generator goes on by one output for every four active elements begun. -/
def Sys2Proof.Claims.ConversionResults : Prop :=
  ∀ (i : Instr) (draws : Bool) (srcs : List Desig) (vd va pr : Nat) (w : CvtWord) (f : State → Nat → Nat → Nat) (s : State),
    convertForm i = some (draws, srcs, vd, va, pr, w, f) → mayRun s true → Ready s srcs [.v vd] → BanksOk s.me →
    let sw := fmtWidth w.src
    let tw := fmtWidth w.dst
    let n := s.lanes s.thr * 32 / max sw tw
    let on := (List.range n).filter fun k => bit s pr (k * sw / 32)
    ∃ t x, exec i s = .next t ∧ Given s t (.v vd) (.v x) false ∧ VecFrame s t (.v vd) 8
      ∧ (∀ k < n, el tw x k = if bit s pr (k * sw / 32) then
            BitVec.ofNat tw (f s k (genBits s.me.seed.toNat s.me.gen.toNat (on.filter (· < k)).length))
          else if (s.me.vreg vd).st = .idle then 0 else vel s tw vd k)
      ∧ (∀ b, n * tw ≤ b → x.getLsbD b = false)
      ∧ t.me.gen = (if draws = true ∧ w.rnd = .sr then s.me.gen + BitVec.ofNat 64 ((on.length + 3) / 4) else s.me.gen)

namespace Sys2Proof.Claims

/-- The slot has no block of its own in the sequencer. -/
def noBlock (s : State) : Prop := ∀ b, s.myCore.seqr = some b → b.slot ≠ slotNo s.cur

/-- A core in no gang. -/
def freeGang : Gang := { width := 0, leader := false, donor := false, reserved := false }

/-- What a `mop` needs before its records (R355). -/
def mopReady (s : State) (srcs : List Nat) : Prop :=
  Ready s (srcs.map Desig.s) [] ∧ s.me.roam = false ∧ s.myCore.mcfgBusy = none

/-- A record at an aligned address is read and passes its checks (R351, R352). -/
def ReadsRecord (s : State) (use : RecUse) (va : Nat) (bs : List Byte) (s1 : State) : Prop :=
  va % 32 = 0 ∧ Reads s va 32 bs s1 ∧ recordOk s1.myCore.ctx use bs = true

/-- What a record covers is translated, in its place and free of poison (R355). -/
abbrev Covers (s : State) (wr : Bool) (runs : List (Nat × Nat × Nat)) (ps : List Piece) (s1 : State) : Prop :=
  ∀ k, s.withCovered wr runs [] k = k ps s1

/-- The queue has room and every line that the command names can be pinned: it is pinned fewer than fifteen times, or its set has a way
for it (R61, R76, R358). -/
def mayEnqueue (s : State) (pins : List Nat) : Prop :=
  s.myCore.mq.length < 8 ∧ (s.pinAll (stkOf s.cur) pins.eraseDups).isSome = true

/-- A matrix command stands behind the queue's commands, numbered after them, and the slot goes on. -/
def Enqueued (s t : State) (cmd : MCmd) (pins : List Nat) : Prop :=
  (∃ e, t.myCore.mq = s.myCore.mq ++ [e] ∧ e.cmd = cmd ∧ e.slot = slotNo s.cur ∧ e.started = false ∧ e.seq = s.myCore.mseq + 1
      ∧ e.pins = pins.eraseDups)
    ∧ t.myCore.acc = s.myCore.acc ∧ t.me.pc = s.me.pc + 4 ∧ t.me.s = s.me.s ∧ t.me.v = s.me.v ∧ OthersSame s t s.thr

/-- The element of a tile at a row and a column. -/
def tileAt (s : State) (core n i j : Nat) : BitVec 32 := ((s.core core).tile n).at i j

/-- A matrix element's products are summed in groups of sixteen in ascending K; a group's exact sum is rounded once, and the rounded sums
are added one after another (R279, R357). -/
def dot (acc : BitVec 32) (k : Nat) (prod : Nat → FV) : BitVec 32 :=
  (List.range ((k + 15) / 16)).foldl (fun acc g =>
    let ks := (List.range (min 16 (k - 16 * g))).map (16 * g + ·)
    f32Add acc (toF32 (match ks.reverse with | [] => FV.zero false | x :: xs => xs.foldl (fun sum k => (prod k).add sum) (prod x)))) acc

/-- The oldest command of a core has started, and no memory that it names is held (R172, R184). -/
def running (s : State) (core : Nat) (cmd : MCmd) : Prop :=
  (∃ e r, (s.core core).mq = e :: r ∧ e.started = true ∧ e.cmd = cmd) ∧ s.commandHeld cmd = false

/-- An object is open, well formed and writable and has nobody waiting, and a release at its scope finds nothing to write back. -/
def BarOpen (s : State) (va pa : Nat) (b : Bar) (s1 : State) : Prop :=
  va % 32 = 0 ∧ pa % 32 = 0 ∧ Opens s va 32 pa s1 ∧ s1.barAt pa = some b ∧ s1.waiters pa = [] ∧ SMap.wf s1.mem = true ∧ writable s1 pa
    ∧ (region pa = .dram → noFar s1 (stkOf s.cur))

/-- A barrier object after arrivals and bytes (R379): the counts saturate at what is expected and note an excess; when both are met the
phase flips, the counts start again and a stop is cleared. -/
def barAfter (b : Bar) (arrivals bytes : Nat) : Bar :=
  let a := min (b.arr + arrivals) b.exp
  let n := min (b.byt + bytes) b.expB
  let excess := b.flags.testBit 2 || decide (b.exp < b.arr + arrivals) || decide (b.expB < b.byt + bytes)
  let f (phase stop : Bool) : Nat := (if phase then 1 else 0) + (if stop then 2 else 0) + (if excess then 4 else 0)
  if a = b.exp ∧ n = b.expB then { b with arr := 0, byt := 0, flags := f (!b.flags.testBit 0) false }
  else { b with arr := a, byt := n, flags := f (b.flags.testBit 0) (b.flags.testBit 1) }

end Sys2Proof.Claims

/-! ## Views, gangs, blocks and the exchange -/

/-- R205, R345: entering the long view in a leading core leaves every vector register full and zero and `p1` to `p7` false; leaving it
keeps the low 256 bits, the low eight predicate bits and the states; `vclr` leaves its register zero. -/
def Sys2Proof.Claims.ViewsChange : Prop :=
  (∀ s : State, mayRun s false → noBlock s → s.myCore.gang.leader = true → s.me.long = false → s.me.owesVector = false →
    ∃ t, exec .vmodeLong s = .next t ∧ t.me.long = true ∧ t.me.pc = s.me.pc + 4 ∧ (∀ n < 16, t.me.vreg n = Cell.full 0)
      ∧ (∀ n, n ≠ 0 → t.me.preg n = Cell.full 0) ∧ t.me.s = s.me.s ∧ OnlyThread s t s.thr ∧ ∀ k, t.core k = s.core k)
  ∧ (∀ s : State, mayRun s false → noBlock s → s.me.long = true → s.me.owesVector = false → BanksOk s.me →
    ∃ t, exec .vmodeShort s = .next t ∧ t.me.long = false ∧ t.me.pc = s.me.pc + 4
      ∧ (∀ n, t.me.vreg n = { s.me.vreg n with val := (s.me.vreg n).val &&& BitVec.ofNat 1024 (2 ^ 256 - 1) })
      ∧ (∀ n, n ≠ 0 → t.me.preg n = { s.me.preg n with val := (s.me.preg n).val &&& 0xFF }) ∧ t.me.s = s.me.s
      ∧ OnlyThread s t s.thr ∧ ∀ k, t.core k = s.core k)
  ∧ ∀ (s : State) (d : Nat), mayRun s false → noBlock s → Ready s [] [.v d] → BanksOk s.me →
    ∃ t, exec (.vclr d) s = .next t ∧ Given s t (.v d) (.v 0) false ∧ VecFrame s t (.v d) 4

/-- R202, R203, R207, R208, R345: `gang` under the conditions of R203 parks its slot until the bond grid has bound the donors; the core
then leads a gang of that width and its donors are donors. `gangrel` gives them back. Elsewhere both raise `GANG`. -/
def Sys2Proof.Claims.GangsBindAndRelease : Prop :=
  (∀ (s : State) (w : GangWidth), mayRun s false → noBlock s → (∀ n, s.me.prog ≠ .binding n) →
    (s.gangOk (widthCode w) = true → ∃ t, exec (.gang w) s = .next t ∧ t.me.prog = .binding (widthCode w) ∧ t.me.pc = s.me.pc
        ∧ t.me.wait = .view ∧ OnlyThread s t s.thr)
    ∧ (s.gangOk (widthCode w) = false → exec (.gang w) s = .next (s.trapOpen 0x0C)))
  ∧ (∀ (s : State) (ep w : Nat), (s.thread (thrOf ep)).prog = .binding w → (w = 1 ∨ w = 2) → (s.core (coreOf ep)).gang.donor = false →
    ∃ t, exec (.gangBindDone ep) s = .next t ∧ (t.core (coreOf ep)).gang.width = w ∧ (t.core (coreOf ep)).gang.leader = true
      ∧ (∀ d ∈ donorsOf (coreOf ep) w, (t.core d).gang.donor = true) ∧ (t.thread (thrOf ep)).pc = (s.thread (thrOf ep)).pc + 4
      ∧ (t.thread (thrOf ep)).prog = .none ∧ OthersSame s t (thrOf ep) ∧ MemorySame s t)
  ∧ (∀ s : State, mayRun s false → s.myCore.seqr = none → s.myCore.gang.leader = true → s.myCore.gang.width = 1 ∨ s.myCore.gang.width = 2 →
    (∀ i < 8, (s.thread (coreOf s.cur * 8 + i)).owesVector = false) →
    ∃ t, exec .gangrel s = .next t ∧ t.myCore.gang = freeGang
      ∧ (∀ d ∈ donorsOf (coreOf s.cur) s.myCore.gang.width, (t.core d).gang = freeGang)
      ∧ (∀ i < 8, (t.thread (coreOf s.cur * 8 + i)).long = false) ∧ t.me.pc = s.me.pc + 4 ∧ MemorySame s t)
  ∧ ∀ s : State, mayRun s false → noBlock s → s.myCore.gang.leader = false →
    exec .gangrel s = .next (s.trapOpen 0x0C) ∧ exec .vmodeLong s = .next (s.trapOpen 0x0C)

/-- R298 to R303: `rpt` captures its block and goes on behind it: the destinations of its instructions are owed to the block; a count of 0
only goes on. The sequencer then starts the instruction whose turn it is on the registers as they stand, and its destination is
full once nothing that is left of the block writes it. -/
def Sys2Proof.Claims.BlocksReplay : Prop :=
  (∀ (s : State) (len a str fin : Nat) (code : List Instr), mayRun s false → Ready s [.s a] [] → (s.sval a).toNat ≤ 65535 →
    blockAt s.myCode (s.lanes s.thr) len (s.me.pc + 4) = .ok (code, fin) →
    let c := (s.sval a).toNat
    idleSource s.me (blockOps code str c) [] = none → s.myCore.seqr = none →
    (∀ op ∈ blockOps code str c, owedOutside s.me op.dst = false) →
    ∃ t, exec (.rpt len a str) s = .next t ∧ t.me.pc = fin ∧ MemorySame s t ∧ OthersSame s t s.thr
      ∧ (c = 0 → t.myCore.seqr = none ∧ t.me.s = s.me.s ∧ t.me.v = s.me.v ∧ t.me.p = s.me.p)
      ∧ (c ≠ 0 → (∃ b, t.myCore.seqr = some b ∧ b.slot = slotNo s.cur ∧ b.code = code ∧ b.str = str ∧ b.count = c ∧ b.replay = 0
            ∧ b.index = 0)
          ∧ (∀ op ∈ blockOps code str c, t.me.stOf op.dst = .owed .block ∨ op.dst = .p 0 ∨ op.dst = .s 0)))
  ∧ ∀ (s : State) (core : Nat) (b : Block) (op : VecOp), (s.core core).seqr = some b → b.replay < b.count →
    blockOpAt b.code b.str b.replay b.index = some op →
    (∀ d ∈ op.srcs, owedOutside (s.thread (core * 8 + b.slot)) d = false) → op.dst ≠ .p 0 →
    let x := (op.run (vecIn (s.core core) (s.thread (core * 8 + b.slot)) (s.lanes (core * 8 + b.slot)) op.dst)).1
    (∃ v n, op.dst = .v n ∧ x = .v v) →
    ∃ t, exec (.sequencerReplayStart core) s = .next t ∧ OnlyThread s t (core * 8 + b.slot)
      ∧ (t.core core).seqr = (if b.next.replay < b.count then some b.next else none)
      ∧ (t.thread (core * 8 + b.slot)).stOf op.dst = (if b.next.rest.any fun o => o.dst == op.dst then .owed .block else .full)
      ∧ (∀ n v, op.dst = .v n → x = .v v → ((t.thread (core * 8 + b.slot)).vreg n).val = v)
      ∧ (t.thread (core * 8 + b.slot)).s = (s.thread (core * 8 + b.slot)).s ∧ (t.thread (core * 8 + b.slot)).pc = (s.thread (core * 8 + b.slot)).pc

/-- R343: `vmaxx` posts its register and parks until every core of its mask has posted with that mask; then each contributor's destination
is owed the lane-wise maximum of the posted registers, a NaN as the canonical one (R268), and its thread goes on. -/
def Sys2Proof.Claims.MaximumExchange : Prop :=
  ∀ (s : State) (vd va : Nat), mayRun s false → Ready s [.v va] [.v vd] → s.me.long = false → s.mapped (coreOf s.cur) = true →
    s.myCore.gang.donor = false → s.myPolder.exch.find? (coreNo s.cur) = none →
    let me := coreNo s.cur
    (s.myCore.xmask.toNat = 2 ^ me → ∃ t m, exec (.vmaxx vd va) s = .next t ∧ t.me.pc = s.me.pc + 4
        ∧ (∀ i < 8, el 32 m i = f32Max (vel s 32 va i) (vel s 32 va i))
        ∧ t.me.fills = s.me.fills ++ [{ dst := .v vd, val := .v m, mark := none }] ∧ t.me.stOf (.v vd) = .owed .result
        ∧ OthersSame s t s.thr ∧ MemorySame s t)
    ∧ ∀ (c : Nat) (e : ExchEnt), c < 8 → c ≠ me → s.myCore.xmask.toNat = 2 ^ me + 2 ^ c → s.mapped (polOf s.cur * 8 + c) = true →
        (s.core (polOf s.cur * 8 + c)).gang.donor = false →
        (s.myPolder.exch.find? c = none → ∃ t x, exec (.vmaxx vd va) s = .next t ∧ t.me.pc = s.me.pc ∧ t.me.wait = .exchange
            ∧ t.myPolder.exch.find? me = some x ∧ x.val = (s.me.vreg va).val ∧ x.vd = vd ∧ x.mask = 2 ^ me + 2 ^ c)
        ∧ (s.myPolder.exch.find? c = some e → e.mask = 2 ^ me + 2 ^ c → e.slot < 8 →
            ∃ t m, exec (.vmaxx vd va) s = .next t ∧ t.me.pc = s.me.pc + 4
              ∧ t.me.fills = s.me.fills ++ [{ dst := .v vd, val := .v m, mark := none }]
              ∧ (∀ i < 8, el 32 m i = let one (x : BitVec 32) : BitVec 32 := f32Max x x
                  if me < c then f32Max (one (vel s 32 va i)) (el 32 e.val i) else f32Max (one (el 32 e.val i)) (vel s 32 va i))
              ∧ (let other := thrOf (epOf (polOf s.cur * 8 + c) e.slot)
                 (t.thread other).pc = (s.thread other).pc + 4
                   ∧ (t.thread other).fills = (s.thread other).fills ++ [{ dst := .v e.vd, val := .v m, mark := none }]))

/-! ## Matrix instructions (chapter 15) -/

/-- R355, R358: `mzero`, `mld`, `mst` and `mmul` with well-formed records enter the core's queue of eight with their operands; `mst`
under `sr` takes its random bits at issue. -/
def Sys2Proof.Claims.MatrixCommandsEnterTheQueue : Prop :=
  (∀ (s : State) (n : Nat), mopReady s [] → s.myCore.mq.length < 8 → ∃ t, exec (.mzero n) s = .next t ∧ Enqueued s t (.mzero n) [])
  ∧ (∀ (s s1 s2 : State) (n a : Nat) (r : List Byte) (ps : List Piece), mopReady s [a] → s.storesDone = true →
    ReadsRecord s .mld (s.sval a).toNat r s1 → Covers s1 false (sortRuns (recordRuns s1.myCore.ctx .mld r)) ps s2 →
    mayEnqueue s2 (pinLines ps) → ∃ t, exec (.mld n a) s = .next t ∧ Enqueued s2 t (.mld n (operandOf r ps)) (pinLines ps))
  ∧ (∀ (s s1 s2 : State) (n a : Nat) (r : List Byte) (ps : List Piece), mopReady s [a] → s.storesDone = true →
    ReadsRecord s .mst (s.sval a).toNat r s1 → Covers s1 true (sortRuns (recordRuns s1.myCore.ctx .mst r)) ps s2 →
    mayEnqueue s2 (pinLines ps) → ∃ t rnd, exec (.mst n a) s = .next t ∧ Enqueued s2 t (.mst n (operandOf r ps) rnd) (pinLines ps)
      ∧ (s.myCore.ctx.mode % 4 ≠ 2 → rnd = [] ∧ t.me.gen = s2.me.gen)
      ∧ (s.myCore.ctx.mode % 4 = 2 → leAt r 12 1 ≠ 0x20 → rnd.length = leAt r 14 2 * leAt r 16 2
          ∧ t.me.gen = s2.me.gen + BitVec.ofNat 64 ((leAt r 14 2 * leAt r 16 2 + 3) / 4)))
  ∧ ∀ (s s1 s2 s3 s4 : State) (n a b : Nat) (ra rb : List Byte) (pa pb : List Piece), mopReady s [a, b] → s.storesDone = true →
    ReadsRecord s .a (s.sval a).toNat ra s1 → ReadsRecord s1 (.b (leAt ra 16 2)) (s.sval b).toNat rb s2 →
    Covers s2 false (sortRuns (recordRuns s2.myCore.ctx .a ra)) pa s3 →
    Covers s3 false (sortRuns (recordRuns s3.myCore.ctx (.b 0) rb)) pb s4 → mayEnqueue s4 (pinLines (pa ++ pb)) →
    ∃ t, exec (.mmul n a b) s = .next t ∧ Enqueued s4 t (.mmul n (operandOf ra pa) (operandOf rb pb)) (pinLines (pa ++ pb))

/-- R349, R350: `mcfg` of a well-formed record in a core with an empty queue installs its formats and mode, with the identity table or
the table that the record names, for the whole core; it waits while commands are queued, and a record that breaks a limit raises
`FORMAT` at it. -/
def Sys2Proof.Claims.FormatContextIsInstalled : Prop :=
  ∀ (s s1 : State) (a : Nat) (bs : List Byte), let p := (s.sval a).toNat
    Ready s [.s a] [] → s.me.roam = false → p % 64 = 0 → s.storesDone = true →
    s.myCore.mcfgBusy = none ∨ s.myCore.mcfgBusy = some (slotNo s.cur) →
    let mine (s : State) : State := s.modMyCore fun k => { k with mcfgBusy := some (slotNo s.cur) }
    (s.myCore.mq ≠ [] → ∃ t, exec (.mcfg a) s = .next t ∧ t.me.wait = .matrix ∧ t.me.pc = s.me.pc ∧ t.myCore.ctx = s.myCore.ctx)
    ∧ (s.myCore.mq = [] → Reads (mine s) p 64 bs s1 →
        (ctxOk bs = false → exec (.mcfg a) s = .next (s1.trap 0x09 p))
        ∧ (ctxOk bs = true → (s1.myStack.service = 1 → leAt bs 0 1 = 0x40 ∧ leAt bs 1 1 = 0x40) → leAt bs 8 8 = 0 →
            ∃ t, exec (.mcfg a) s = .next t ∧ t.me.pc = s.me.pc + 4 ∧ t.myCore.mcfgBusy = none ∧ t.myCore.ctx.afmt = leAt bs 0 1
              ∧ t.myCore.ctx.bfmt = leAt bs 1 1 ∧ t.myCore.ctx.accfmt = 0x20 ∧ t.myCore.ctx.mode = leAt bs 3 1
              ∧ t.myCore.ctx.table = Ctx.identity ∧ t.me.s = s.me.s ∧ OthersSame s t s.thr)
        ∧ ∀ (tb : List Byte) (s2 : State), ctxOk bs = true →
            (s1.myStack.service = 1 → leAt bs 0 1 = 0x40 ∧ leAt bs 1 1 = 0x40) → leAt bs 8 8 ≠ 0 → leAt bs 8 8 % 64 = 0 →
            Reads s1 (leAt bs 8 8) 192 tb s2 → compTableOk (tableAt tb) = true →
            ∃ t, exec (.mcfg a) s = .next t ∧ t.me.pc = s.me.pc + 4 ∧ t.myCore.ctx.mode = leAt bs 3 1
              ∧ t.myCore.ctx.table = tableAt tb ∧ t.me.s = s.me.s)

/-- R360: `mwait` waits for the commands of its tile that were queued when it issued first; with none of them left it writes the tile's status: poison in bit 0, a NaN in bit 1, an infinity in bit 2;
with one left it parks and keeps the number of the last command it waits for. R350: while an `mcfg` of its core is in progress it waits at issue. -/
def Sys2Proof.Claims.MatrixWaits : Prop :=
  (∀ (s : State) (d n last : Nat), s.me.roam = false → Ready s [] [.s d] →
    (s.me.prog = .none ∧ last = s.myCore.mseq ∧ s.myCore.mcfgBusy = none ∨ s.me.prog = .mwait last) →
    ((∀ e ∈ s.myCore.mq, e.cmd.tile = n → last < e.seq) →
      ∃ x : W64, exec (.mwait d n) s = .next (result s [] d 4 x) ∧ x.toNat < 8 ∧ (x.getLsbD 0 = (s.myCore.tile n).poison)
        ∧ (x.getLsbD 1 = true ↔ ∃ e ∈ (s.myCore.tile n).elem, 0x7F800000 < e.2.toNat % 2 ^ 31)
        ∧ (x.getLsbD 2 = true ↔ ∃ e ∈ (s.myCore.tile n).elem, e.2.toNat % 2 ^ 31 = 0x7F800000))
    ∧ ((∃ e ∈ s.myCore.mq, e.cmd.tile = n ∧ e.seq ≤ last) →
        ∃ t, exec (.mwait d n) s = .next t ∧ t.me.wait = .matrix ∧ t.me.pc = s.me.pc ∧ t.me.prog = .mwait last
          ∧ OnlyThread s t s.thr))
  ∧ ∀ (s : State) (d n : Nat), s.me.roam = false → Ready s [] [.s d] → s.me.prog = .none → s.myCore.mcfgBusy ≠ none →
    exec (.mwait d n) s = .next (s.park .matrix)

/-- R357 to R359: an idle matrix unit starts the oldest command of the core whose turn it is and keeps the turn for its weight; a command
that is done has its effect: `mzero` clears the tile, `mld` takes its rows from memory, `mmul` adds the products of its operands to
the elements of its rows and columns and leaves the others, and `mst` in f32 leaves its elements in the scratchpad. -/
def Sys2Proof.Claims.MatrixCommandsRun : Prop :=
  (∀ (s : State) (pol : Nat) (e : MEnt) (r : List MEnt), (∀ c < 8, ∀ x ∈ (s.core (pol * 8 + c)).mq, x.started = false) →
    (s.polder pol).turn < 8 → (s.core (pol * 8 + (s.polder pol).turn)).mq = e :: r →
    let c := (s.polder pol).turn
    let left := (if 0 < (s.polder pol).budget then (s.polder pol).budget else (s.core (pol * 8 + c)).mweight.toNat) - 1
    ∃ t, exec (.matrixCommandStart pol) s = .next t ∧ (t.core (pol * 8 + c)).mq = { e with started := true } :: r
      ∧ (t.polder pol).budget = left ∧ (t.polder pol).turn = (if left = 0 then (c + 1) % 8 else c) ∧ MemorySame s t
      ∧ ∀ k, t.thread k = s.thread k)
  ∧ (∀ (s : State) (core n : Nat), running s core (.mzero n) → SMap.wf (s.core core).acc = true →
    ∃ t, exec (.matrixCommandDone core) s = .next t ∧ (∀ i j, tileAt t core n i j = 0) ∧ ((t.core core).tile n).poison = false
      ∧ (∀ m, m ≠ n → (t.core core).tile m = (s.core core).tile m) ∧ (t.core core).mq = (s.core core).mq.drop 1 ∧ (∀ a, t.byte a = s.byte a)
      ∧ ∀ k, t.thread k = s.thread k)
  ∧ (∀ (s s1 : State) (core n : Nat) (o : Operand) (g : Got), running s core (.mld n o) → SMap.wf (s.core core).acc = true →
    s.readPieces (stkOfCore core) (core * 16) none o.pieces false 6 [] = (g, s1) → o.rows ≤ 16 → o.cols ≤ 16 →
    ∃ t, exec (.matrixCommandDone core) s = .next t
      ∧ (∀ i < 16, ∀ j < 16, tileAt t core n i j =
          if i < o.rows ∧ j < o.cols then BitVec.ofNat 32 (leAt g.data ((i * o.cols + j) * 4) 4) else 0)
      ∧ ((t.core core).tile n).poison = !g.bad.isEmpty ∧ (∀ m, m ≠ n → (t.core core).tile m = (s.core core).tile m)
      ∧ ∀ k, t.thread k = s.thread k)
  ∧ (∀ (s s1 s2 : State) (core n : Nat) (a b : Operand) (ga gb : Got), running s core (.mmul n a b) → SMap.wf (s.core core).acc = true →
    SMap.wf ((s.core core).tile n).elem = true →
    s.readPieces (stkOfCore core) (core * 16) none a.pieces false 6 [] = (ga, s1) →
    s1.readPieces (stkOfCore core) (core * 16) none b.pieces false 6 [] = (gb, s2) → a.rows ≤ 16 → b.cols ≤ 16 →
    let c := (s.core core).ctx
    ∃ t, exec (.matrixCommandDone core) s = .next t
      ∧ (∀ i < 16, ∀ j < 16, tileAt t core n i j =
          if i < a.rows ∧ j < b.cols then dot (tileAt s core n i j) a.cols fun k =>
            (a.value c (c.mode.testBit 3) (c.mode.testBit 5) ga.data i k i).mul (b.value c (c.mode.testBit 4) (c.mode.testBit 6) gb.data k j j)
          else tileAt s core n i j)
      ∧ ((t.core core).tile n).poison = (((s.core core).tile n).poison || !ga.bad.isEmpty || !gb.bad.isEmpty)
      ∧ (∀ m, m ≠ n → (t.core core).tile m = (s.core core).tile m) ∧ ∀ k, t.thread k = s.thread k)
  ∧ ∀ (s : State) (core n pa : Nat) (c m : Bool) (o : Operand) (rnd : List Nat), running s core (.mst n o rnd) →
    SMap.wf s.mem = true → ((s.core core).tile n).poison = false → o.fmt = 0x20 →
    o.pieces = [{ lo := 0, len := o.rows * o.cols * 4, tgt := .dev pa c m }] → (∀ j < o.rows * o.cols * 4, region (pa + j) = .spad) →
    ∃ t, exec (.matrixCommandDone core) s = .next t
      ∧ (∀ i < o.rows, ∀ j < o.cols, ∀ k < 4, t.byte (pa + (i * o.cols + j) * 4 + k) = ((tileAt s core n i j) >>> (8 * k)).setWidth 8)
      ∧ BytesBut s t pa (o.rows * o.cols * 4) ∧ ∀ m, (t.core core).tile m = (s.core core).tile m

/-! ## Barriers (R379, R380) -/

/-- R379, R380: `barinit` sets the counts expected and starts a phase that keeps its number; `arrive` and `barbytes` add to the counts and
flip the phase when both are met; `arrive` gives the phase it arrived in; `await` passes once the phase is not the one it names, and
otherwise stands at the tail of the table of the object's memory. A zero first count, or a malformed object, traps. -/
def Sys2Proof.Claims.Barriers : Prop :=
  (∀ (s s1 : State) (a b pa : Nat) (bar : Bar), Ready s [.s a, .s b] [] → BarOpen s (s.sval a).toNat pa bar s1 → (s.sval b).toNat ≠ 0 →
    ∃ t, exec (.barinit a b) s = .next t
      ∧ t.barAt pa = some { exp := (s.sval b).toNat % 2 ^ 32, arr := 0, expB := (s.sval b).toNat / 2 ^ 32, byt := 0, flags := bar.flags % 2 }
      ∧ t.me.pc = s1.me.pc + 4 ∧ BytesBut s1 t pa 32 ∧ t.me.s = s1.me.s ∧ OthersSame s1 t s1.thr)
  ∧ (∀ (s s1 : State) (d a pa : Nat) (bar : Bar), Ready s [.s a] [.s d] → BarOpen s (s.sval a).toNat pa bar s1 → d ≠ 0 →
    ∃ t, exec (.arrive d a) s = .next t ∧ t.barAt pa = some (barAfter bar 1 0) ∧ BytesBut s1 t pa 32 ∧ t.me.pc = s1.me.pc + 4
      ∧ t.me.stOf (.s d) = .owed .result
      ∧ t.me.fills = s1.me.fills ++ [{ dst := .s d, val := .s (BitVec.ofNat 64 (bar.flags % 2)), mark := none }] ∧ OthersSame s1 t s1.thr)
  ∧ (∀ (s s1 : State) (a b pa : Nat) (bar : Bar), Ready s [.s a, .s b] [] → BarOpen s (s.sval a).toNat pa bar s1 →
    (s.sval b).toNat < 2 ^ 32 →
    ∃ t, exec (.barbytes a b) s = .next t ∧ t.barAt pa = some (barAfter bar 0 (s.sval b).toNat) ∧ BytesBut s1 t pa 32
      ∧ t.me.pc = s1.me.pc + 4 ∧ t.me.s = s1.me.s ∧ OthersSame s1 t s1.thr)
  ∧ (∀ (s s1 : State) (a b pa : Nat) (bar : Bar), Ready s [.s a, .s b] [] → BarOpen s (s.sval a).toNat pa bar s1 → s.me.prog = .none →
    ((s.sval b).getLsbD 0 ≠ bar.flags.testBit 0 → ∃ t, exec (.await a b) s = .next t ∧ t.me.pc = s1.me.pc + 4 ∧ t.me.s = s1.me.s
        ∧ MemorySame s1 t ∧ OthersSame s1 t s1.thr)
    ∧ ((s.sval b).getLsbD 0 = bar.flags.testBit 0 → region pa = .tcm ∨ region pa = .spad ∨ region pa = .sram ∨ region pa = .dram →
        ∃ t, exec (.await a b) s = .next t ∧ t.me.pc = s1.me.pc ∧ t.me.wait = .barrier
          ∧ t.waiters pa = [{ thr := s.thr, load := none, pa := pa }] ∧ MemorySame s1 t ∧ OthersSame s1 t s1.thr))
  ∧ ∀ (s s1 : State) (a b pa : Nat), Ready s [.s a, .s b] [] →
    ((s.sval b).toNat = 0 → exec (.barinit a b) s = .next (s.trapOpen 0x01))
    ∧ ((s.sval b).toNat ≠ 0 → (s.sval a).toNat % 32 = 0 → Opens s (s.sval a).toNat 32 pa s1 → s1.barAt pa = none →
        exec (.barinit a b) s = .next (s1.trap 0x05 (s.sval a).toNat))
/-! ## Instructions (chapters 03 to 16 and 18) -/

/-- R284, R286 to R288, R291: every function of two registers, of one and of an immediate has the value that its rule gives. -/
def Obligations.ScalarFunctionsGiveTheirResults : Prop := Claims.RegisterFunctionResults ∧ Claims.ImmediateResults

/-- R213, R283: what the scalar functions leave as it is, and what `qin` and `qout` do as their operands. -/
def Obligations.ScalarFunctionsChangeNothingElse : Prop := Claims.ScalarResultFrame ∧ Claims.ChannelEnds

/-- R179, R191, R213, R307: what stops an instruction before it does anything. -/
def Obligations.OperandsAndAlignmentAreChecked : Prop := Claims.OperandGate ∧ Claims.MisalignedAccessesTrap

/-- R285: divisions enter the divider and leave it with their results. -/
def Obligations.DivisionsRunInTheDivider : Prop := Claims.DivisionsEnterTheDivider ∧ Claims.DividerCompletes

/-- R221, R222, R226, R289 to R291: branches and jumps. -/
def Obligations.TransfersReachTheirTargets : Prop := Claims.Transfers ∧ Claims.BadTargetsTrap

/-- R26, R294: what a translation and a read at issue leave as it is. -/
def Obligations.ReadingKeepsTheMachine : Prop := Claims.TranslationOnlyTouchesTlbs ∧ Claims.ReadsKeepThreads

/-- R166, R294 to R296: calls, tails and returns. -/
def Obligations.CallsAndReturns : Prop := Claims.CallsEnterTheirCallee ∧ Claims.TailsEnterTheirCallee ∧ Claims.ReturnsEnterTheCaller

/-- R304, R420: a trap enters its handler, or kills the thread that has none. -/
def Obligations.TrapsAreTaken : Prop := Claims.TrapsEnterTheirHandler ∧ Claims.TrapsWithoutAHandlerKill ∧ Claims.TrapInstructionEntersItsHandler

/-- R394, R422: `eret` and `eack`. -/
def Obligations.HandlersEnd : Prop := Claims.HandlersReturn

/-- R307, R308, R311, R315: loads, atomics and vector loads enter the queue, and their registers are owed. -/
def Obligations.LoadsAreQueued : Prop := Claims.LoadsEnterTheQueue ∧ Claims.VectorLoadsEnterTheQueue

/-- R52, R62, R66, R179, R190, R192, R308, R315, R424: a load is served and fills its register, and poison traps where it is read. -/
def Obligations.LoadsFillTheirRegisters : Prop := Claims.TcmLoadsComplete ∧ Claims.LoadsAreServed ∧ Claims.LongLatencyResultsArrive ∧ Claims.PoisonIsRaisedWhereItIsRead

/-- R309, R311, R319, R320: stores enter the buffer. -/
def Obligations.StoresAreBuffered : Prop := Claims.StoresEnterTheBuffer ∧ Claims.VectorStoresEnterTheBuffer

/-- R54, R59, R64 to R67, R181, R320, R324: stores leave the buffer in order and change the bytes that they store to. -/
def Obligations.StoresPerformInOrder : Prop := Claims.StoresLeaveInOrder ∧ Claims.StoresPerform ∧ Claims.FillStoresFillWords

/-- R58, R60, R67, R92: replicas, refused requests and far requests without an answer. -/
def Obligations.RequestsAreRepeated : Prop := Claims.ReplicasGoBeforeAStore ∧ Claims.LoadsAreSentAgain ∧ Claims.FarAccessesTimeOut

/-- R61, R71, R72, R74 to R76, R117, R119: far lines, signatures, releases and acquires. -/
def Obligations.ReleasesAndAcquiresComplete : Prop := Claims.ReleasesWaitForWritebacks ∧ Claims.OldFarLinesAreDropped ∧ Claims.AccumulatorRenews ∧ Claims.AcquiresComplete

/-- R313: gathers and scatters. -/
def Obligations.GathersAndScattersComplete : Prop := Claims.GatherAndScatter

/-- R116, R317, R318: fences and `pf`. -/
def Obligations.FencesAndHintsComplete : Prop := Claims.FencesComplete ∧ Claims.PrefetchCompletes

/-- R19, R215, R322 to R324, R429: continuations. -/
def Obligations.ContinuationsAreFilled : Prop := Claims.ContinuationsAreMadeAndSent ∧ Claims.FillsArrive

/-- R325, R326: `qcfg` and `qstat`. -/
def Obligations.ChannelEndsAreConfigured : Prop := Claims.ChannelsAreConfigured

/-- R329 to R335, R340, R341: vector arithmetic and comparisons. -/
def Obligations.VectorFunctionsGiveTheirResults : Prop := Claims.VectorElementResults ∧ Claims.VectorComparisonResults

/-- R334, R336: predicates. -/
def Obligations.PredicatesGiveTheirResults : Prop := Claims.PredicateResults

/-- R271, R337, R338: conversions. -/
def Obligations.ConversionsGiveTheirResults : Prop := Claims.ConversionResults

/-- R202, R203, R205, R207, R208, R345: views and gangs. -/
def Obligations.ViewsAndGangsChange : Prop := Claims.ViewsChange ∧ Claims.GangsBindAndRelease

/-- R298 to R303, R343: `rpt` blocks and `vmaxx`. -/
def Obligations.BlocksAndExchangesComplete : Prop := Claims.BlocksReplay ∧ Claims.MaximumExchange

/-- R349, R350, R355, R358, R360: matrix commands, the format context and waits. -/
def Obligations.MatrixCommandsAreQueued : Prop := Claims.MatrixCommandsEnterTheQueue ∧ Claims.FormatContextIsInstalled ∧ Claims.MatrixWaits

/-- R357 to R359: what the matrix unit computes, loads and stores. -/
def Obligations.MatrixCommandsComplete : Prop := Claims.MatrixCommandsRun

/-- R379, R380: barrier objects. -/
def Obligations.BarriersComplete : Prop := Claims.Barriers

namespace Sys2Proof.Claims

/-- A level around a new task is cancelled: its launch, its graph, its phase or the job (R217). -/
def anyCancelled (s : State) (dike lid : Nat) : Prop := ∃ g p, s.cancelledAt dike lid g p 1 = true ∨ s.cancelledAt dike 0 g p 1 = true

/-- Memory, the system areas of a stack's own and its ready queue are the same in two states. -/
structure WorkSame (stk : Nat) (a t : State) : Prop where
  memory : MemorySame a t
  areas : (t.stack stk).areas = (a.stack stk).areas
  ready : (t.stack stk).ready = (a.stack stk).ready

/-- The bytes of a system area that a stack holds for a dike without a page table (log 97). -/
def area (s : State) (stk dike va n : Nat) : List Byte := (List.range n).map fun i => (s.stack stk).areas.getD (areaKey dike (va + i)) 0

/-- A system address that is no window and canonical over `n` bytes. -/
def plainVa (va n : Nat) : Prop := ∀ i < n, canonical (va + i) = true ∧ inWindows (va + i) = false

/-- A handle names a live TCB of the dike (R367): its status. -/
def LiveHandle (s : State) (h st : Nat) (s1 : State) : Prop := s.handleStatus h = (st, s1) ∧ st ≠ 0 ∧ st ≠ 8

/-- A value waits to be filled into a register as a long-latency result, and the register is owed to it. -/
def Comes (t : Thread) (d : Nat) (x : W64) : Prop :=
  (d ≠ 0 → t.stOf (.s d) = .owed .result) ∧ ∃ e, t.fills.getLast? = some e ∧ e.dst = .s d ∧ e.val = .s x ∧ e.mark = none

/-- No gang task of the issuing polder is the task that issues. -/
def NoGang (s : State) : Prop := ∀ g ∈ s.myPolder.gangs, g.1 ≠ s.me.task.toNat

/-- The twelve stores of a spawn: the frame record in eight doublewords, then the continuation block's four runs of 32 bytes with `s16`
to `s27` and zeros (R364). -/
structure SpawnStores (s t : State) (rec_ blk : Nat) (r b : List Byte) : Prop where
  saved : ∀ i < 12, leAt b (8 * i) 8 = (s.me.sreg (16 + i)).val.toNat
  zero : ∀ i < 32, b.getD (96 + i) 0 = 0
  stores : ∃ es, t.myCore.sb = s.myCore.sb ++ es ∧ es.length = 12
    ∧ (∀ i < 8, ∃ e : StoreEnt, es[i]? = some e ∧ e.kind = .plain ∧ e.va = rec_ + 8 * i ∧ e.data = (r.drop (8 * i)).take 8)
    ∧ ∀ i < 4, ∃ e : StoreEnt, es[8 + i]? = some e ∧ e.kind = .plain ∧ e.va = blk + 32 * i ∧ e.data = (b.drop (32 * i)).take 32

/-- R364: `spawn` of an installed image with room in the deque: the join word counts one more, the frame record and the block are stored,
the entry stands at the bottom of the deque, and the callee runs below them. With a full deque it goes on as a call. A join word out
of line raises `MISALIGN` (the model's choice, log 110). -/
def Spawns : Prop :=
  ∀ (s s1 s2 s3 s4 : State) (site imp slot pa : Nat) (cur im : Image) (rtgt jt tgt : Target) (bps : List Piece),
    let sp := (s.me.sreg 31).val.toNat
    let rec_ := (sp + 2 ^ 64 - 64) % 2 ^ 64
    let blk := (sp + 2 ^ 64 - 192) % 2 ^ 64
    let jw := ((s.me.sreg 30).val.toNat + 2 ^ 64 - 8) % 2 ^ 64
    s.myImage = some cur → site < cur.nsite → imp < cur.imports.length →
    Ready s ([.s 30, .s 31] ++ (List.range 12).map fun i => .s (16 + i)) [.s 30, .s 31] → BanksOk s.me → sp % 64 = 0 →
    Installed s (cur.import? imp) slot im → Translates s rec_ true rtgt s1 →
    TranslatesRuns s1 true ((List.range 4).map fun i => (32 * i, (blk + 32 * i) % 2 ^ 64, 32)) bps s2 →
    (jw % 8 ≠ 0 → exec (.spawn site imp) s = .next (s2.trap 0x03 jw))
    ∧ (jw % 8 = 0 → Translates s2 jw true jt s3 →
    (∀ ha c attr, jt ≠ .host ha c attr) →
    (s.myCore.deque.length < 64 → Opens s3 jw 8 pa s4 → SMap.wf s4.mem = true → writable s4 pa → 12 ≤ s.sbFree →
      ∃ t, exec (.spawn site imp) s = .next t ∧ t.me.pc = 0 ∧ t.me.img = slot ∧ t.me.digest = im.digest ∧ t.me.tag = im.tag
        ∧ t.me.sreg 30 = Cell.full (BitVec.ofNat 64 rec_)
        ∧ t.me.sreg 31 = Cell.full (BitVec.ofNat 64 ((blk + 2 ^ 64 - im.frame) % 2 ^ 64)) ∧ ScalarsBut s.me t.me [30, 31]
        ∧ t.num pa 4 = (s4.num pa 4 + 1) % 2 ^ 32 ∧ BytesBut s4 t pa 4
        ∧ t.myCore.deque = s.myCore.deque ++ [{ live := true, slot := slotNo s.cur, recVa := rec_ }]
        ∧ (∃ r b, FrameRecord r cur site (s.me.pc + 8) (s.me.sreg 30).val.toNat ∧ SpawnStores s t rec_ blk r b) ∧ OthersSame s t s.thr)
    ∧ (64 ≤ s.myCore.deque.length → Translates s3 rec_ true tgt s4 → 8 ≤ s.sbFree →
      ∃ t, exec (.spawn site imp) s = .next t ∧ Called s4 t cur site 8 slot im))

/-- R366: `join` at a word whose count is 0 passes, as an acquire where the word lies in DRAM; at another count the endpoint is recorded
beside it and the thread parks. -/
def Joins : Prop :=
  ∀ (s s1 : State) (pa : Nat), Ready s [.s 30] [] → let jw := ((s.me.sreg 30).val.toNat + 2 ^ 64 - 8) % 2 ^ 64
    jw % 8 = 0 → Opens s jw 8 pa s1 →
    (s1.num pa 4 = 0 → (region pa ≠ .dram ∨ noFar s1 (stkOf s.cur)) → ∃ t, exec .join s = .next t ∧ t.me.pc = s.me.pc + 4
        ∧ MemorySame s1 t ∧ OnlyScalars s.me t.me ∧ OthersSame s t s.thr
        ∧ (region pa = .dram → t.myStack.acc.t = max s1.myStack.acc.t (s.timeAt s.cur)))
    ∧ (s1.num pa 4 ≠ 0 → s.cur < 2 ^ 32 → SMap.wf s1.mem = true → writable s1 pa → ∃ t, exec .join s = .next t ∧ t.me.pc = s.me.pc ∧ t.me.wait = .join
        ∧ t.num (pa + 4) 4 = s.cur ∧ BytesBut s1 t (pa + 4) 4 ∧ OthersSame s t s.thr)

/-- R404: the 64 bytes of a TCB, field by field. -/
def TcbLayout : Prop :=
  ∀ (i : TcbInit), i.phase < 16 → let b := i.bytes
    b.length = 64 ∧ holds b 0 2 i.imp ∧ holds b 2 1 i.prio ∧ holds b 3 1 i.status ∧ holds b 4 4 i.counter ∧ holds b 8 8 0
      ∧ (∀ k < 5, holds b (16 + 8 * k) 8 (i.regs.getD k 0)) ∧ holds b 56 2 i.ltag ∧ holds b 58 1 i.graph ∧ leAt b 59 1 % 16 = i.phase
      ∧ (leAt b 59 1).testBit 4 = i.responder ∧ (leAt b 59 1).testBit 5 = i.ranged ∧ leAt b 59 1 < 64 ∧ holds b 60 4 0

/-- R15, R406: what the system reads and writes in a dike's areas. A dike without a page table has them in its stack (log 97); else a read
takes the bytes of the device page in DRAM that the address translates to, and a write sets exactly those bytes. -/
def SystemAreas : Prop :=
  (∀ (s : State) (stk dike va n : Nat), (s.stack stk).rootless dike = true → plainVa va 1 →
    s.sysNum stk dike va n = (leNat (area s stk dike va n), s))
  ∧ (∀ (s : State) (stk dike va : Nat) (bs : List Byte), (s.stack stk).rootless dike = true → plainVa va 1 →
    SMap.wf (s.stack stk).areas = true → let t := s.sysPut stk dike va bs
    area t stk dike va bs.length = bs
      ∧ (∀ k, (k < areaKey dike va ∨ areaKey dike va + bs.length ≤ k) → (t.stack stk).areas.getD k 0 = (s.stack stk).areas.getD k 0)
      ∧ MemorySame s t ∧ ∀ k, t.thread k = s.thread k)
  ∧ (∀ (s s1 : State) (stk dike va n pa : Nat) (c m : Bool), (s.stack stk).rootless dike = false → plainVa va 1 → 0 < n →
    va % 4096 + n ≤ 4096 → s.xlateAgent stk dike none va false = (.ok (.dev pa c m), s1) → region pa = .dram → pa % 64 + n ≤ 64 →
    noFarLine s1 stk pa → (s1.homeLine? pa).isSome = true → wordsHeld s1 pa n → quiet s1 (stkOfPa pa) → clean s1 pa n →
    ∃ t, s.sysNum stk dike va n = (s1.num pa n, t) ∧ MemorySame s1 t ∧ ∀ k, t.thread k = s1.thread k)
  ∧ ∀ (s s1 : State) (stk dike va pa : Nat) (bs : List Byte) (c m : Bool), (s.stack stk).rootless dike = false → plainVa va 1 → bs ≠ [] →
    va % 4096 + bs.length ≤ 4096 → s.xlateAgent stk dike none va true = (.ok (.dev pa c m), s1) → region pa = .dram →
    pa % 64 + bs.length ≤ 64 → noFarLine s1 stk pa → hasRoom s1 pa → writable s1 pa → SMap.wf s1.mem = true →
    let t := s.sysPut stk dike va bs
    t.bytes pa bs.length = bs ∧ BytesBut s1 t pa bs.length ∧ ∀ k, t.thread k = s1.thread k

/-- R367, R404, R445: `tnew`, once the slot's older loads and stores are done, takes the lowest free TCB, writes it and its digest as R404
lays them out, counts the task in its launch, and answers the handle. With no TCB free it parks; a task created into a cancelled launch ends at once as a failed one of it (R217). -/
def NewTasks : Prop :=
  ∀ (s s1 s2 : State) (d a b : Nat) (bs : List Byte) (im : Image) (free : Option Nat),
    Ready s [.s a, .s b] [.s d] → s.loadsDone = true → s.storesDone = true → (s.sval b).toNat < 2 ^ 31 →
    (s.sval a).toNat % 64 = 0 → Reads s (s.sval a).toNat 64 bs s1 → s1.myImage = some im → leAt bs 0 2 < im.imports.length → s1.tcbFree (stkOf s.cur) (s.jobOf s.cur) = (free, s2) →
    let stk := stkOf s.cur
    let dike := s.jobOf s.cur
    let lid := s.myLaunch
    (free = none → exec (.tnew d a b) s = .next (s2.park .pool))
    ∧ ∀ (h ltag graph phase : Nat) (s3 : State), free = some h → s2.myLevels = ((ltag, graph, phase), s3) →
      let init : TcbInit :=
        { imp := leAt bs 0 2, prio := leAt bs 2 1 % 8, status := 1, counter := (s.sval b).toNat + 1,
          regs := (List.range 5).map fun i => leAt bs (16 + 8 * i) 8, ltag := ltag, graph := graph, phase := phase,
          responder := false, ranged := false, digest := im.import? (leAt bs 0 2) }
      let added := ((s3.sysPut stk dike h init.bytes).sysPut stk dike (s3.tcbDigest stk dike h) (leBytes 32 init.digest)).taskAdded dike lid h
      (¬anyCancelled s dike lid → SMap.wf s.members = true →
        ∃ t, exec (.tnew d a b) s = .next t ∧ t.me.pc = s.me.pc + 4 ∧ Comes t.me d (BitVec.ofNat 64 h) ∧ ScalarsBut s.me t.me [d]
          ∧ WorkSame stk (added.tcbLevels stk dike h).2 t
          ∧ t.launches.find? lid = (s.launches.find? lid).map (fun l => { l with live := l.live + 1 })
          ∧ (∀ l, s.launches.find? lid = some l → t.members.find? (memberKey dike h) = some lid) ∧ OthersSame s t s.thr)
      ∧ ∀ l, s.launches.find? lid = some l → l.cancelled = true → 0 < l.live → h ≠ 0 →
        ∃ t, exec (.tnew d a b) s = .next t ∧ t.me.pc = s.me.pc + 4 ∧ Comes t.me d (BitVec.ofNat 64 h) ∧ ScalarsBut s.me t.me [d]
          ∧ t.launches.find? lid = some { l with failed := l.failed + 1 } ∧ OthersSame s t s.thr

/-- R367, R405: `tdep` of two live handles adds the successor and one to its counter; a predecessor that has ended changes nothing, and with
no block for the list it parks. A successor whose counter is 0 and a handle that names no live TCB raise `ACCESS`. -/
def Dependences : Prop :=
  (∀ (s s1 s2 s3 : State) (a b st st2 n : Nat), Ready s [.s a, .s b] [] →
    let pred := (s.sval a).toNat
    let succ := (s.sval b).toNat
    let stk := stkOf s.cur
    let dike := s.jobOf s.cur
    LiveHandle s pred st s1 → LiveHandle s1 succ st2 s2 → allPerformed s → s2.sysNum stk dike (succ + 4) 4 = (n, s3) →
    (n = 0 → exec (.tdep a b) s = .next (s3.trapOpen 0x05))
    ∧ (n ≠ 0 → (st = 5 ∨ st = 7) → ∃ t, exec (.tdep a b) s = .next t ∧ t.me.pc = s.me.pc + 4 ∧ WorkSame stk s3 t ∧ OnlyScalars s.me t.me
        ∧ OthersSame s t s.thr)
    ∧ (n ≠ 0 → st ≠ 5 → st ≠ 7 → ∀ s4, (s3.addSuccessor stk dike pred succ = (true, s4) →
        ∃ t, exec (.tdep a b) s = .next t ∧ t.me.pc = s.me.pc + 4
          ∧ WorkSame stk (s4.sysPut stk dike (succ + 4) (leBytes 4 (n + 1))) t ∧ OnlyScalars s.me t.me ∧ OthersSame s t s.thr)
      ∧ (s3.addSuccessor stk dike pred succ = (false, s4) → exec (.tdep a b) s = .next (s4.park .pool))))
  ∧ (∀ (s s1 : State) (a b st : Nat), Ready s [.s a, .s b] [] → s.handleStatus (s.sval a).toNat = (st, s1) →
    ((st = 0 ∨ st = 8) → exec (.tdep a b) s = .next (s1.trap 0x05 (s.sval a).toNat))
    ∧ ∀ st2 s2, st ≠ 0 → st ≠ 8 → s1.handleStatus (s.sval b).toNat = (st2, s2) → (st2 = 0 ∨ st2 = 8) →
        exec (.tdep a b) s = .next (s2.trap 0x05 (s.sval b).toNat))

/-- R405: a successor goes to the first unused place of the predecessor's list, here in the list's first block. -/
def Successors : Prop :=
  ∀ (s s1 s2 : State) (stk dike pred succ head i : Nat) (ps : Nat → Nat), (s.stack stk).dike dike 56 4 ≠ 0 →
    s.sysNum stk dike (pred + 8) 8 = (head, s1) → head ≠ 0 → (s1.stack stk).rootless dike = true → plainVa (head + 8) 48 →
    (∀ j < 6, leNat (area s1 stk dike (head + 8 + 8 * j) 8) = ps j) → i < 6 → ps i = 0 → (∀ j < i, ps j ≠ 0) →
    s1.sysPut stk dike (head + 8 + 8 * i) (leBytes 8 succ) = s2 → s.addSuccessor stk dike pred succ = (true, s2)

/-- R367, R406: `trel` takes one from the counter of a live task; the task joins the ready queue when it was the last. A counter of 0 and a
handle that names no live TCB raise `ACCESS`. -/
def Releases : Prop :=
  (∀ (s s1 s2 : State) (a st n : Nat), Ready s [.s a] [] → LiveHandle s (s.sval a).toNat st s1 → allPerformed s →
    let h := (s.sval a).toNat
    let stk := stkOf s.cur
    let dike := s.jobOf s.cur
    s1.sysNum stk dike (h + 4) 4 = (n, s2) →
    (n = 0 → exec (.trel a) s = .next (s2.trapOpen 0x05))
    ∧ (n ≠ 0 → ∃ t, exec (.trel a) s = .next t ∧ t.me.pc = s.me.pc + 4 ∧ WorkSame stk (s2.releaseOne stk dike h (s.timeAt s.cur)) t
        ∧ OnlyScalars s.me t.me ∧ OthersSame s t s.thr)
    ∧ ((s.stack stk).rootless dike = true → plainVa h 64 → n ≠ 0 → SMap.wf (s.stack stk).areas = true →
        ∃ t, exec (.trel a) s = .next t ∧ leNat (area t stk dike (h + 4) 4) = n - 1
          ∧ (n ≠ 1 ∨ st ≠ 1 → t.myStack.ready = s.myStack.ready)
          ∧ (n = 1 → st = 1 → leNat (area t stk dike (h + 3) 1) = 2 ∧ ∃ e, t.myStack.ready = s.myStack.ready ++ [e] ∧ e.task = h ∧ e.dike = dike
              ∧ e.release = s.timeAt s.cur)))
  ∧ ∀ (s s1 : State) (a st : Nat), Ready s [.s a] [] → s.handleStatus (s.sval a).toNat = (st, s1) → (st = 0 ∨ st = 8) →
    exec (.trel a) s = .next (s1.trap 0x05 (s.sval a).toNat)

/-- R216, R368: `tdone` with no older store pending ends the task: the slot is free, its launch has one task less, and a launch whose
last task ends gives its completion to the queue's port. A task that has ended already leaves its launch as it is (the model's choice,
log 111). -/
def TasksEnd : Prop :=
  ∀ (s : State), s.storesDone = true → NoGang s → let task := s.me.task.toNat; let dike := s.jobOf s.cur; let lid := s.launchOf dike task
    ∃ t, exec .tdone s = .next t ∧ t.thread s.thr = Thread.none ∧ OthersSame s t s.thr
      ∧ (task = 0 ∨ s.ended.has (memberKey dike task) = true → t.launches = s.launches)
      ∧ (s.ended.has (memberKey dike task) = false → ∀ l, task ≠ 0 → s.launches.find? lid = some l → 1 < l.live →
          t.launches.find? lid = some { l with live := l.live - 1, run := l.run + 1 })
      ∧ (s.ended.has (memberKey dike task) = false → ∀ l, task ≠ 0 → s.launches.find? lid = some l → l.live = 1 →
          ∃ c, (t.stack l.stk).comps = (s.stack l.stk).comps ++ [c]
          ∧ c.ltag = l.ltag ∧ c.run = l.run + 1 ∧ c.failed = l.failed ∧ c.status = (if l.failed = 0 then 0 else 1)
          ∧ c.queue = l.queue ∧ c.time = s.podTime (l.stk / 4))

/-- R369: `range` claims the next chunk of a range object: half the rest for each strand and not less than the minimum; an exhausted
range answers its end twice. -/
def Ranges : Prop :=
  ∀ (s s1 : State) (d a pa : Nat), Ready s [.s a] [.s d, .s (d + 1)] → BanksOk s.me → d ≠ 28 → d ≠ 29 →
    (s.sval a).toNat % 32 = 0 → Opens s (s.sval a).toNat 32 pa s1 → SMap.wf s1.mem = true → writable s1 pa →
    let next := s1.num pa 8
    let fin := s1.num (pa + 8) 8
    let minc := s1.num (pa + 16) 4
    let p := s1.num (pa + 20) 4
    minc ≠ 0 → p ≠ 0 → s1.num (pa + 24) 8 = 0 →
    let hi := min fin (next + max minc ((fin - next + 2 * p - 1) / (2 * p)))
    (next < fin → ∃ t, exec (.range d a) s = .next t ∧ t.me.pc = s.me.pc + 4 ∧ (d ≠ 0 → t.me.sreg d = Cell.full (BitVec.ofNat 64 next))
        ∧ t.me.sreg (d + 1) = Cell.full (BitVec.ofNat 64 hi) ∧ t.num pa 8 = hi ∧ BytesBut s1 t pa 8
        ∧ ScalarsBut s.me t.me [d, d + 1] ∧ OthersSame s t s.thr)
    ∧ (fin ≤ next → ∃ t, exec (.range d a) s = .next t ∧ t.me.pc = s.me.pc + 4 ∧ (d ≠ 0 → t.me.sreg d = Cell.full (BitVec.ofNat 64 fin))
        ∧ t.me.sreg (d + 1) = Cell.full (BitVec.ofNat 64 fin) ∧ MemorySame s1 t ∧ ScalarsBut s.me t.me [d, d + 1]
        ∧ OthersSame s t s.thr)

/-- R368, R370: `yield` lets the slot drain for a swap at the next instruction; `tcancel` marks the level, and `tlev` answers whether it or a
level above it is marked. -/
def YieldAndCancel : Prop :=
  (∀ s : State, ∃ t, exec .yield s = .next t ∧ t.me.pc = s.me.pc + 4 ∧ t.me.swap = true ∧ t.me.s = s.me.s ∧ t.me.v = s.me.v
    ∧ OnlyThread s t s.thr)
  ∧ (∀ (s s1 : State) (lev : Level) (l g p : Nat), s.myLevels = ((l, g, p), s1) →
    (lev = .launch → s.launches.find? s.myLaunch ≠ none) →
    ∃ t, exec (.tcancel lev) s = .next t ∧ t.me.pc = s.me.pc + 4
      ∧ t.cancelledAt (s.jobOf s.cur) s.myLaunch g p (match lev with | .launch => 1 | .graph => 2 | .phase => 3 | .job => 4) = true
      ∧ (∀ k, k ≠ graphKey (s.jobOf s.cur) p g → k ≠ phaseKey (s.jobOf s.cur) p → k ≠ jobKey (s.jobOf s.cur) → t.level k = s.level k)
      ∧ OnlyScalars s.me t.me ∧ OthersSame s t s.thr)
  ∧ ∀ (s s1 : State) (d : Nat) (lev : Level) (l g p : Nat), Ready s [] [.s d] → s.myLevels = ((l, g, p), s1) →
    ∃ t, exec (.tlev d lev) s = .next t ∧ t.me.pc = s.me.pc + 4 ∧ ScalarsBut s.me t.me [d] ∧ OthersSame s t s.thr
      ∧ Comes t.me d (if s.cancelledAt (s.jobOf s.cur) s.myLaunch g p
          (match lev with | .launch => 1 | .graph => 2 | .phase => 3 | .job => 4) then 1 else 0)

end Sys2Proof.Claims

/-! ## Tasks (chapters 09 and 16) -/

/-- R364, R366: `spawn` and `join`: continuations that a thief may take, and the word that counts the children. -/
def Obligations.SpawnAndJoin : Prop := Spawns ∧ Joins

/-- R15, R367, R404 to R406: tasks are created, made dependent and released. -/
def Obligations.TasksAreCreatedAndReleased : Prop := TcbLayout ∧ SystemAreas ∧ NewTasks ∧ Dependences ∧ Successors ∧ Releases

/-- R216, R368, R369, R370: a task's end, its ranges, a yield, and the cancelling of its levels. -/
def Obligations.TasksRunAndEnd : Prop := TasksEnd ∧ Ranges ∧ YieldAndCancel

namespace Sys2Proof.Claims

/-- An entry of a directory is present: valid or moving out (R371). -/
def Present (e : KEnt) : Prop := e.state = 1 ∨ e.state = 2

/-- R374: `kput` fills the lowest free entry of the polder's directory with key, address, length and the open censuses as tested; `kdel`
frees the entry of that key and address; `kfind` answers the address of the lowest present entry with the key, or 0. -/
def Directory : Prop :=
  (∀ (s s1 : State) (a b len i : Nat) (ps : List Piece), Ready s [.s a, .s b] [] → (s.sval b).toNat % 8 = 0 →
    TranslatesRuns s false (cutPages (len / 2048 + 2) 0 (s.sval b).toNat len) ps s1 → tilePlace (s.sval b).toNat ps = true →
    (∀ j < i, (s.myPolder.kdir.find? j).isSome) → i < 256 → s.myPolder.kdir.find? i = none →
    (∀ e ∈ s.myPolder.kdir, Present e.2 → e.2.key = s.sval a → e.2.addr ≠ s.sval b) →
    ∃ t, exec (.kput a b len) s = .next t ∧ t.me.pc = s.me.pc + 8
      ∧ t.myPolder.kdir.find? i = some { key := s.sval a, addr := s.sval b, len := len, state := 1, tested := s.myPolder.openSet }
      ∧ (∀ j, j ≠ i → t.myPolder.kdir.find? j = s.myPolder.kdir.find? j) ∧ MemorySame s t ∧ OthersSame s t s.thr)
  ∧ (∀ (s : State) (a b : Nat) (e : Nat × KEnt) (before after : List (Nat × KEnt)), Ready s [.s a, .s b] [] →
    s.myPolder.kdir = before ++ e :: after → SMap.wf s.myPolder.kdir = true → e.2.state = 1 → e.2.key = s.sval a → e.2.addr = s.sval b →
    (∀ x ∈ before, Present x.2 → x.2.key = s.sval a → x.2.addr ≠ s.sval b) → s.myPolder.answering e.1 = false →
    ∃ t, exec (.kdel a b) s = .next t ∧ t.me.pc = s.me.pc + 8 ∧ t.myPolder.kdir = before ++ after ∧ MemorySame s t ∧ OthersSame s t s.thr)
  ∧ ∀ (s : State) (d a : Nat), Ready s [.s a] [.s d] →
    ∃ t x, exec (.kfind d a) s = .next t ∧ t.me.pc = s.me.pc + 8 ∧ Comes t.me d x ∧ MemorySame s t ∧ OthersSame s t s.thr
      ∧ ((∀ e ∈ s.myPolder.kdir, ¬(Present e.2 ∧ e.2.key = s.sval a)) → x = 0)
      ∧ ∀ before e after, s.myPolder.kdir = before ++ e :: after → Present e.2 → e.2.key = s.sval a →
          (∀ y ∈ before, ¬(Present y.2 ∧ y.2.key = s.sval a)) → x = e.2.addr

/-- R375: `sol` with no older store pending takes the lowest free census slot of the dike: key, argument, asker, scope, combine, entry
digest and registers are kept, one report is expected of every directory of the scope, and both registers are owed to it. With
none free it raises `CENSUS_FULL`. -/
def CensusesOpen : Prop :=
  ∀ (s : State) (d a b imp : Nat) (scope : Scope) (comb : Comb) (im : Image), s.myImage = some im → imp < im.imports.length →
    Ready s [.s a, .s b] [.s d, .s (d + 1)] → s.storesDone = true → let dike := s.jobOf s.cur
    (∀ c, c < 64 → s.census.find? (censusKey dike c) = none → (∀ k < c, s.census.find? (censusKey dike k) ≠ none) →
      ∃ t x, exec (.sol d a b imp scope comb) s = .next t ∧ t.census.find? (censusKey dike c) = some x ∧ x.state = 1
        ∧ x.key = s.sval a ∧ x.arg = s.sval b ∧ x.asker = s.cur ∧ x.scope = scope ∧ x.comb = comb ∧ x.digest = im.import? imp
        ∧ x.dst = d ∧ x.expected = (s.scopePolders dike s.cur scope).length ∧ x.pendDirs = s.scopePolders dike s.cur scope
        ∧ x.reported = 0 ∧ x.spawned = 0 ∧ x.done = 0 ∧ x.holds = 0 ∧ x.time = s.timeAt s.cur
        ∧ (∀ k, k ≠ censusKey dike c → t.census.find? k = s.census.find? k)
        ∧ (d ≠ 0 → t.me.stOf (.s d) = .owed .census) ∧ t.me.stOf (.s (d + 1)) = .owed .census
        ∧ ScalarsBut s.me t.me [d, d + 1] ∧ t.me.pc = s.me.pc + 8 ∧ OthersSame s t s.thr)
    ∧ ((∀ c < 64, s.census.find? (censusKey dike c) ≠ none) → exec (.sol d a b imp scope comb) s = .next (s.trap 0x0E 0))

/-- R376: `reply` of a responder ends its task, and its value leaves toward the asker with one responder done; in any other task it raises
`ILLEGAL`. -/
def Replies : Prop :=
  (∀ (s s1 s2 s4 s5 : State) (a h b h2 : Nat), Ready s [.s a] [] → s.isResponder = (true, s1) → s.storesDone = true → NoGang s →
    s.ended.has (memberKey (s.jobOf s.cur) s.me.task.toNat) = false →
    let dike := s.jobOf s.cur
    let task := s.me.task.toNat
    s1.sysNum (stkOf s.cur) dike (task + 48) 8 = (h, s2) →
    (s2.modMyStack fun k => { k with kept := k.kept.erase (keptKey dike task) }).sysNum (stkOf s.cur) dike (task + 59) 1 = (b, s4) →
    b.testBit 4 = true → s4.sysNum (stkOf s.cur) dike (task + 48) 8 = (h2, s5) →
    ∃ t p, exec (.reply a) s = .next t ∧ t.thread s.thr = Thread.none ∧ OthersSame s t s.thr
      ∧ (t.slice (sliceOf s.cur)).cin = (s.slice (sliceOf s.cur)).cin ++ [p] ∧ p.dike = dike ∧ p.slot = h2 % 64 ∧ p.asker = h2 / 2 ^ 32
      ∧ p.done = 1 ∧ p.spawned = 0 ∧ p.reported = 0
      ∧ (∀ x, s.census.find? (censusKey dike (h % 64)) = some x → (x.comb = .addF32 ∨ x.comb = .maxF32) →
          p.val = some (((s.sval a).setWidth 32).setWidth 64))
      ∧ ∀ x, s.census.find? (censusKey dike (h % 64)) = some x → (x.comb = .addI64 ∨ x.comb = .maxI64 ∨ x.comb = .minI64 ∨ x.comb = .orI64) →
          p.val = some (s.sval a))
  ∧ ∀ (s s1 : State) (a : Nat), Ready s [.s a] [] → s.isResponder = (false, s1) → exec (.reply a) s = .next (s1.trapOpen 0x01)

/-- R378: `kmove` of a valid entry to another polder of the dike with a free entry begins the move: the source entry is moving out, the
destination entry moving in, and the thread parks; to its own polder it goes on. The acknowledgement copies a scratchpad tile; the commit, once the move is acknowledged and no
responder of the entry is left, makes the destination valid, frees the source and lets the thread go on. -/
def Moves : Prop :=
  (∀ (s : State) (a b i j : Nat) (e : KEnt), Ready s [.s a, .s b] [] → s.me.prog ≠ .kmove → s.polderFault (s.sval b).toNat = none →
    s.myPolder.entries.find? (fun e => e.2.present && e.2.addr == s.sval a) = some (i, e) → e.state = 1 →
    let src := polOf s.cur
    let dst := polOf (s.sval b).toNat
    (dst = src → exec (.kmove a b) s = .next ((s.popIf [a, b]).advance 8))
    ∧ (dst ≠ src → (s.polder dst).freeEntry = some j →
      (∀ c x, s.census.find? (censusKey (s.jobOf s.cur) c) = some x → x.state ≠ 2) →
      ∃ t m, exec (.kmove a b) s = .next t ∧ (t.polder src).kdir.find? i = some { e with state := 2 }
        ∧ (t.polder dst).kdir.find? j = some { KEnt.free with state := 3 } ∧ (t.polder src).moves = s.myPolder.moves ++ [m]
        ∧ m.thr = s.thr ∧ m.src = i ∧ m.dst = dst ∧ m.dstEnt = j ∧ m.acked = false
        ∧ t.me.prog = .kmove ∧ t.me.pc = s.me.pc ∧ t.me.s = s.me.s ∧ MemorySame s t ∧ OthersSame s t s.thr))
  ∧ (∀ (s : State) (pol i : Nat) (m : Move), (s.polder pol).moves[i]? = some m → m.acked = false →
    let e := (s.polder pol).kdir.getD m.src KEnt.free
    ∃ t, exec (.kmoveHoldAck pol i) s = .next t ∧ (t.polder pol).moves[i]? = some { m with acked := true }
      ∧ ((∀ off, spadTile e.addr.toNat ≠ some off) → MemorySame s t)
      ∧ (∀ off, spadTile e.addr.toNat = some off → SMap.wf s.mem = true →
          t.bytes (spadPa m.dst off) e.len = s.bytes (spadPa pol off) e.len ∧ BytesBut s t (spadPa m.dst off) e.len)
      ∧ ∀ k, t.thread k = s.thread k)
  ∧ ∀ (s : State) (pol i : Nat) (m : Move), (s.polder pol).moves[i]? = some m → m.acked = true →
    (s.polder pol).answering m.src = false → m.dst ≠ pol →
    SMap.wf (s.polder pol).kdir = true → (s.thread m.thr).live = true → (s.thread m.thr).prog = .kmove →
    let e := (s.polder pol).kdir.getD m.src KEnt.free
    ∃ t x, exec (.kmoveCommit pol i) s = .next t ∧ (t.polder m.dst).kdir.find? m.dstEnt = some { e with state := 1, tested := x }
      ∧ ((s.polder m.dst).openSet = 0 → x = e.tested ∧ MemorySame s t) ∧ (t.polder pol).kdir.find? m.src = none ∧ (t.polder pol).moves = (s.polder pol).moves.eraseIdx i
      ∧ (t.thread m.thr).pc = (s.thread m.thr).pc + 8 ∧ (t.thread m.thr).prog = .none ∧ OthersSame s t m.thr

/-- The entries of a directory that a census finds: present, its bit clear, and its key theirs (R375). -/
def found (p : Polder) (c : Nat) (key : W64) : List (Nat × KEnt) :=
  p.kdir.filter fun e => (e.2.state == 1 || e.2.state == 2) && !e.2.tested.getLsbD c && e.2.key == key

/-- R375, R378: a directory of the scope meets an open census once: every present entry is tested, one whose bit is clear and whose key matches
is counted as a responder, which waits behind those that wait already; moves through the directory take holds. The packet that leaves
reports the directory with the count. -/
def DirectoriesReport : Prop :=
  ∀ (s : State) (pol c : Nat) (x : Census), s.census.find? (censusKey (s.polder pol).dike c) = some x → pol ∈ x.pendDirs → c < 64 →
    SMap.wf (s.polder pol).kdir = true →
    ∃ t p before h, exec (.censusDirectoryProcess pol c) s = .next t ∧ (t.slice (pol / 32)).cin = before ++ [p]
      ∧ p.dike = (s.polder pol).dike ∧ p.slot = c ∧ p.asker = x.asker ∧ p.spawned = (found (s.polder pol) c x.key).length ∧ p.reported = 1
      ∧ p.done = 0 ∧ p.val = none ∧ (t.polder pol).openSet.getLsbD c = true
      ∧ (∀ e ∈ (t.polder pol).kdir, Present e.2 → e.2.tested.getLsbD c = true)
      ∧ t.census.find? (censusKey (s.polder pol).dike c) = some { x with pendDirs := x.pendDirs.erase pol, holds := x.holds + Int.ofNat h }
      ∧ ((∀ q ∈ s.polders, q.2.moves = []) → h = 0)
      ∧ (found (s.polder pol) c x.key = [] → before = (s.slice (pol / 32)).cin ∧ MemorySame s t)
      ∧ ((s.polder pol).pendResp ≠ [] → (t.polder pol).pendResp
          = (s.polder pol).pendResp ++ (found (s.polder pol) c x.key).map fun e => x.responder c e.1 e.2)
      ∧ ∀ k, t.thread k = s.thread k

/-- A census packet has gone on from a node: to the asker's unit, to the next node of its route, or nowhere behind a failed port (R88, R100;
the nodes are the model's, log 59). -/
def WentOn (s t : State) (node : Nat) (p : CensusPkt) (cin : List CensusPkt) : Prop :=
  match s.censusNext node p.asker with
  | .unit => (t.stack (stkOf p.asker)).creports = (s.stack (stkOf p.asker)).creports ++ [p]
  | .node m => (t.slice m).cin = (if m = node then cin else (s.slice m).cin) ++ [p]
  | .lost => ∀ k, (t.stack k).creports = (s.stack k).creports

/-- Two packets belong to one census (R100). -/
def sameCensus (p q : CensusPkt) : Prop := q.dike = p.dike ∧ q.slot = p.slot ∧ q.asker = p.asker

/-- R100, R101: a packet at a node merges into the entry of its census, takes a free one of 16, or passes; an entry goes on toward the
asker. Values merge by the combine and counts add. -/
def PacketsCombine : Prop :=
  ∀ (s : State) (sl : Nat), let x := s.slice sl
    (∀ p rest, x.cin = p :: rest → ∃ t, exec (.censusPacketCombine sl) s = .next t ∧ MemorySame s t ∧ (∀ k, t.thread k = s.thread k)
      ∧ ((∀ q ∈ x.comb, ¬sameCensus p q) → x.comb.length < 16 → (t.slice sl).comb = x.comb ++ [p] ∧ (t.slice sl).cin = rest)
      ∧ ((∀ q ∈ x.comb, ¬sameCensus p q) → 16 ≤ x.comb.length → WentOn s t sl p rest ∧ (t.slice sl).comb = x.comb)
      ∧ ∀ (i : Nat) (q : CensusPkt), x.comb[i]? = some q → sameCensus p q → (t.slice sl).cin = rest ∧ (t.slice sl).comb.length = x.comb.length
          ∧ (∀ (j : Nat) (w : CensusPkt), x.comb[j]? = some w → ¬sameCensus p w → (t.slice sl).comb[j]? = some w)
          ∧ ∃ r, (t.slice sl).comb[i]? = some r ∧ sameCensus p r
          ∧ r.done = q.done + p.done ∧ r.spawned = q.spawned + p.spawned ∧ r.reported = q.reported + p.reported ∧ r.holds = q.holds + p.holds
          ∧ ∀ u w, q.val = some u → p.val = some w → r.val = some (match q.comb with
              | .addI64 => u + w
              | .orI64 => u ||| w
              | .maxI64 => if u.slt w then w else u
              | .minI64 => if w.slt u then w else u
              | .addF32 => (f32Add (u.setWidth 32) (w.setWidth 32)).setWidth 64
              | .maxF32 => (f32Max (u.setWidth 32) (w.setWidth 32)).setWidth 64
              | .count => 0))
    ∧ ∀ p rest, x.comb = p :: rest → ∃ t, exec (.combineEntryForward sl) s = .next t ∧ (t.slice sl).comb = rest
      ∧ WentOn s t sl p x.cin ∧ MemorySame s t ∧ ∀ k, t.thread k = s.thread k

/-- R377: a report adds to its census; when every directory has reported, every responder is done and nothing holds it, the census
completes: the registers of an asker that runs no handler are full with the merged value, or the combine's identity where nothing was
replied, and the count of responders. The broadcast clears the census's bit in a directory,
and its slot frees when every directory has acknowledged. -/
def CensusesComplete : Prop :=
  (∀ (s : State) (stk : Nat) (p : CensusPkt) (rest : List CensusPkt) (x : Census), (s.stack stk).creports = p :: rest →
    s.census.find? (censusKey p.dike p.slot) = some x → x.state = 1 → x.asker = p.asker →
    let r := s.thread (thrOf x.asker)
    let done := x.done + p.done
    ((x.reported + p.reported ≠ x.expected ∨ done ≠ x.spawned + p.spawned ∨ x.holds + p.holds ≠ 0) →
      ∃ t y, exec (.censusReport stk) s = .next t ∧ (t.stack stk).creports = rest ∧ t.census.find? (censusKey p.dike p.slot) = some y
        ∧ y.state = 1 ∧ y.reported = x.reported + p.reported ∧ y.done = done ∧ y.spawned = x.spawned + p.spawned
        ∧ y.holds = x.holds + p.holds ∧ ∀ k, t.thread k = s.thread k)
    ∧ (x.reported + p.reported = x.expected → done = x.spawned + p.spawned → x.holds + p.holds = 0 → r.live = true → r.escal = none →
      r.level = 0 → r.stOf (.s x.dst) = .owed .census → BanksOk r → x.dst ≠ 0 →
      ∃ t y, exec (.censusReport stk) s = .next t ∧ (t.stack stk).creports = rest ∧ t.census.find? (censusKey p.dike p.slot) = some y
        ∧ y.state = 2 ∧ (t.thread (thrOf x.asker)).sreg (x.dst + 1) = Cell.full (BitVec.ofNat 64 done)
        ∧ (t.thread (thrOf x.asker)).sreg x.dst = Cell.full ((combineOpt x.comb x.acc p.val).getD (match x.comb with
            | .addI64 => 0 | .orI64 => 0 | .addF32 => 0 | .count => 0
            | .maxI64 => 0x8000000000000000 | .minI64 => 0x7FFFFFFFFFFFFFFF | .maxF32 => 0xFF800000))
        ∧ MemorySame s t ∧ OthersSame s t (thrOf x.asker)))
  ∧ (∀ (s : State) (pol c : Nat) (x : Census), s.census.find? (censusKey (s.polder pol).dike c) = some x → x.state = 2 → pol ∈ x.pendAcks →
    ∃ t, exec (.censusCompletionBroadcast pol c) s = .next t
      ∧ t.census.find? (censusKey (s.polder pol).dike c) = some { x with pendAcks := x.pendAcks.erase pol }
      ∧ (t.polder pol).openSet.getLsbD c = false ∧ (∀ e ∈ (t.polder pol).kdir, e.2.tested.getLsbD c = false)
      ∧ ∀ k, t.thread k = s.thread k)
  ∧ ∀ (s : State) (dike c : Nat) (x : Census), s.census.find? (censusKey dike c) = some x → SMap.wf s.census = true →
    (x.state = 2 → x.pendAcks = [] → ∃ t, exec (.censusSlotFree dike c) s = .next t ∧ t.census.find? (censusKey dike c) = none
      ∧ ∀ k, t.thread k = s.thread k)
    ∧ ((x.state ≠ 2 ∨ x.pendAcks ≠ []) → exec (.censusSlotFree dike c) s = .next s)

/-- R414: a pending responder is created when a TCB is free: it joins the polder's queue of 16, or else the stack's ready queue held to the
polder; with no TCB free it stays. After 100 µs it may run on any core of the slice. -/
def RespondersAreCreated : Prop :=
  (∀ (s s1 s2 : State) (pol h : Nat) (r : Responder) (rest : List Responder) (lv : Nat × Nat × Nat), (s.polder pol).pendResp = r :: rest →
    let stk := stkOfPol pol
    let dike := (s.polder pol).dike
    s.tcbFree stk dike = (some h, s1) → (if r.task = 0 then ((0, 0, 0), s1) else s1.tcbLevels stk dike r.task) = (lv, s2) →
    SMap.wf s.members = true → ¬anyCancelled s dike (if r.task = 0 then 0 else s.launchOf dike r.task) →
    ∃ t e, exec (.pendingResponderCreate pol) s = .next t ∧ (t.polder pol).pendResp = rest
      ∧ (t.polder pol).responders = (s.polder pol).responders ++ [(h, r.ent)]
      ∧ (if (s.polder pol).respQ.length < 16 then (t.polder pol).respQ = (s.polder pol).respQ ++ [e]
         else (t.stack stk).ready = (s.stack stk).ready ++ [e])
      ∧ e.task = h ∧ e.prio = r.prio ∧ e.release = r.release ∧ e.polder = some pol ∧ ∀ k, t.thread k = s.thread k)
  ∧ (∀ (s s1 : State) (pol : Nat) (r : Responder) (rest : List Responder), (s.polder pol).pendResp = r :: rest →
    s.tcbFree (stkOfPol pol) (s.polder pol).dike = (none, s1) → exec (.pendingResponderCreate pol) s = .next s1)
  ∧ ∀ (s : State) (stk : Nat), ∃ t, exec (.responderWiden stk) s = .next t ∧ (∀ k, t.thread k = s.thread k)
    ∧ (t.stack stk).ready.length = (s.stack stk).ready.length
    ∧ ∀ (n : Nat) (e : ReadyEnt), (s.stack stk).ready[n]? = some e →
        (t.stack stk).ready[n]? = some { e with wide := e.wide || (e.polder.isSome && decide (e.since + 400000 ≤ s.podTime (stk / 4))) }

end Sys2Proof.Claims

/-! ## Keyed tiles and censuses (chapter 16) -/

/-- R374, R378: the keyed-tile directory and moves between directories. -/
def Obligations.TilesAreFiledAndMoved : Prop := Directory ∧ Moves

/-- R375, R376: a census opens and its responders answer. -/
def Obligations.CensusesAsk : Prop := CensusesOpen ∧ Replies

/-- R100, R101, R375, R377, R414: a census passes through directories and routers, its responders are created, and it completes. -/
def Obligations.CensusesAnswer : Prop := DirectoriesReport ∧ PacketsCombine ∧ CensusesComplete ∧ RespondersAreCreated

namespace Sys2Proof.Claims

/-- The checks of a barrier operand go through: none for `s0`. -/
abbrev BarChecked (s : State) (bar : Nat) (s1 : State) : Prop := ∀ k, s.withCopyBar bar k = k s1

/-- A tag has one more copy or put: its count, and its bit clear (R382). -/
structure TagTaken (a b : Core) (tag : Nat) : Prop where
  count : b.tagCount.getD tag 0 = a.tagCount.getD tag 0 + 1
  bit : b.tg.getLsbD tag = false
  bits : ∀ k < 64, k ≠ tag → b.tg.getLsbD k = a.tg.getLsbD k
  counts : ∀ k, k ≠ tag → b.tagCount.getD k 0 = a.tagCount.getD k 0
  stops : b.tagStop = a.tagStop

/-- The record of a copy that has just been issued (R381, R383). -/
structure CopyRecord (r : List Byte) (dst src n tag flags pc bar img ep : Nat) : Prop where
  size : r.length = 128
  dst : holds r 0 8 dst
  src : holds r 8 8 src
  len : holds r 16 4 n
  done : holds r 20 4 0
  tag : holds r 24 1 tag
  status : holds r 25 1 1
  flags : holds r 26 1 flags
  cause : holds r 27 1 0
  pc : holds r 28 4 pc
  bar : holds r 32 8 bar
  stop : holds r 40 8 0
  img : holds r 48 2 img
  ep : holds r 52 4 ep
  time : holds r 56 8 0
  bitmap : holds r 64 64 0

/-- A copy of the issuing slot runs from the record at an index. -/
def CopyRuns (s t : State) (i tag : Nat) : Prop :=
  ∃ r, t.myCore.copies = s.myCore.copies ++ [r] ∧ r.idx = i ∧ r.ep = s.cur ∧ r.after = s.seq + 1 ∧ r.stop = none ∧ r.killed = false
    ∧ TagTaken s.myCore t.myCore tag

/-- R383, R385: `cpy` of 1 to 16,384 bytes that do not overlap writes the lowest free record of the core and hands it to the engine on its
tag, and parks while no record is free; `cpyrep` hands the record of a stopped copy over again, with its tag, its flags and its
barrier. A length or an overlap that is not allowed, and an address that names no stopped copy, raise `ILLEGAL`. -/
def CopiesStart : Prop :=
  (∀ (s s1 s2 : State) (d a b bar tag : Nat) (trap : Bool) (l : List (Nat × CopyRec)), tag < 64 →
    Ready s [.s d, .s a, .s b, .s bar] [] →
    let n := (s.sval d).toNat
    let dst := (s.sval a).toNat
    let src := (s.sval b).toNat
    n ≠ 0 → dst % 32 + n ≤ 16384 → (src + n ≤ dst ∨ dst + n ≤ src) → s.me.roam = false → BarChecked s bar s1 →
    s1.copiesWith (coreOf s.cur) (fun r => r.status == 0) = (l, s2) → SMap.wf s.myCore.tagCount = true →
    (l = [] → exec (.cpy d a b bar tag trap) s = .next (s2.park .record))
    ∧ ∀ i old rest, l = (i, old) :: rest → ∃ t r, exec (.cpy d a b bar tag trap) s = .next t ∧ t.me.pc = s.me.pc + 8
      ∧ CopyRecord r dst src n tag ((if trap then 1 else 0) + (if bar = 0 then 0 else 2)) s.me.pc (if bar = 0 then 0 else (s.sval bar).toNat)
          s.me.img s.cur
      ∧ WorkSame (stkOf s.cur) (s2.copyPut (coreOf s.cur) i 0 r) t ∧ CopyRuns s t i tag ∧ OnlyScalars s.me t.me ∧ OthersSame s t s.thr)
  ∧ (∀ (s s1 : State) (a bar tag i : Nat) (trap : Bool) (r : CopyRec), tag < 64 → Ready s [.s a, .s bar] [] →
    s.recordAt (s.sval a).toNat = some i → s.copyRec (coreOf s.cur) i = (r, s1) →
    (r.status ≠ 2 → r.status ≠ 3 → exec (.cpyrep a bar tag trap) s = .next (s1.trap 0x01 (s.sval a).toNat))
    ∧ ∀ s2, (r.status = 2 ∨ r.status = 3) → s.me.roam = false → BarChecked s1 bar s2 → SMap.wf s.myCore.tagCount = true →
      let va := if bar = 0 then 0 else (s.sval bar).toNat
      let flags := (if trap then 1 else 0) + (if bar = 0 then 0 else 2)
      let put (off : Nat) (bs : List Byte) (s : State) : State := s.copyPut (coreOf s.cur) i off bs
      ∃ t, exec (.cpyrep a bar tag trap) s = .next t ∧ t.me.pc = s.me.pc + 8 ∧ CopyRuns s t i tag ∧ OnlyScalars s.me t.me
        ∧ WorkSame (stkOf s.cur) (put 56 (leBytes 8 0) (put 32 (leBytes 8 va ++ leBytes 8 0)
            (put 24 (leBytes 1 tag ++ leBytes 1 1 ++ leBytes 1 flags ++ leBytes 1 0) s2))) t
        ∧ OthersSame s t s.thr)
  ∧ (∀ (s : State) (a bar tag : Nat) (trap : Bool), Ready s [.s a, .s bar] [] → s.recordAt (s.sval a).toNat = none →
    exec (.cpyrep a bar tag trap) s = .next (s.trap 0x01 (s.sval a).toNat))
  ∧ ∀ (s : State) (d a b bar tag : Nat) (trap : Bool), Ready s [.s d, .s a, .s b, .s bar] [] →
    let n := (s.sval d).toNat
    let dst := (s.sval a).toNat
    let src := (s.sval b).toNat
    ((n = 0 ∨ 16384 < dst % 32 + n) → exec (.cpy d a b bar tag trap) s = .next (s.trap 0x01 n))
      ∧ (n ≠ 0 → dst % 32 + n ≤ 16384 → dst < src + n → src < dst + n → exec (.cpy d a b bar tag trap) s = .next (s.trap 0x01 dst))

/-- R385, R386: `cpystat` answers a tag's bit, its stop flag, its count up to 255 and the records that have stopped on it; `cpykill` names
what runs on the tag and parks, and then ends it: each record takes status 3, the tag's count loses the copies, its bit sets at 0, its
stop flag clears, and the thread goes on. -/
def CopiesAreWatched : Prop :=
  (∀ (s s1 : State) (d tag : Nat) (l : List (Nat × CopyRec)), Ready s [] [.s d] → tag < 64 →
    s.copiesWith (coreOf s.cur) (fun r => (r.status == 2 || r.status == 3) && r.tag == tag) = (l, s1) →
    ∃ x : W64, exec (.cpystat d tag) s = .next (result s1 [] d 8 x) ∧ x.getLsbD 25 = s.myCore.tg.getLsbD tag
      ∧ x.getLsbD 24 = s.myCore.tagStop.getLsbD tag ∧ x.toNat / 2 ^ 16 % 256 = min (s.myCore.tagCount.getD tag 0) 255
      ∧ (∀ k < 16, x.getLsbD k = l.any fun e => e.1 == k) ∧ x.toNat < 2 ^ 26)
  ∧ ∀ (s s1 : State) (tag : Nat) (runs : List CopyRun), s.runsOf (coreOf s.cur) tag = (runs, s1) → tag < 64 →
    let core := coreOf s.cur
    let dike := s.jobOf s.cur
    ((∃ r ∈ runs, r.killed = false) → ∃ t, exec (.cpykill tag) s = .next t ∧ t.me.pc = s.me.pc ∧ t.me.wait = .unit
      ∧ (∀ r ∈ runs, ∀ x ∈ t.myCore.copies, x.idx = r.idx → x.killed = true) ∧ MemorySame s1 t ∧ OthersSame s t s.thr)
    ∧ ((∀ r ∈ runs, r.killed = true) → SMap.wf s.myCore.tagCount = true → ∃ t, exec (.cpykill tag) s = .next t ∧ t.me.pc = s.me.pc + 8
      ∧ t.myCore.copies = s.myCore.copies.filter (fun x => runs.all fun r => r.idx != x.idx)
      ∧ t.myCore.tagCount.getD tag 0 = s.myCore.tagCount.getD tag 0 - runs.length
      ∧ (runs ≠ [] → s.myCore.tagCount.getD tag 0 ≤ runs.length → t.myCore.tg.getLsbD tag = true)
      ∧ t.myCore.tagStop.getLsbD tag = false
      ∧ (∀ k < 64, k ≠ tag → t.myCore.tagStop.getLsbD k = s.myCore.tagStop.getLsbD k) ∧ OthersSame s t s.thr
      ∧ (s.myStack.rootless dike = true → plainVa (s.copyBase core) 2048 → SMap.wf s.myStack.areas = true →
          (∀ r ∈ runs, r.idx < 16) → (runs.map (·.idx)).Nodup →
          ∀ r ∈ runs, area t (stkOf s.cur) dike (s.copyAddr core r.idx + 25) 1 = [3]))

/-- R66, R381: an engine's write puts its bytes at their places, here in a TCM or scratchpad, or in DRAM of the engine's stack; a word of a TCM
or scratchpad whose last byte it writes, and for which nothing waits, is full. -/
def EnginesWrite : Prop :=
  ∀ (s : State) (stk pa : Nat) (bs : List Byte) (c m : Bool), SMap.wf s.mem = true → s.empties.Pairwise (· < ·) →
    let t := s.engineWrite stk [{ lo := 0, len := bs.length, tgt := .dev pa c m }] bs
    ((∀ i < bs.length, region (pa + i) = .tcm ∨ region (pa + i) = .spad) → t.bytes pa bs.length = bs ∧ BytesBut s t pa bs.length
      ∧ ((∀ i < bs.length, s.waiters (pa + i) = []) → ∀ i < bs.length, (pa + i) % 4 = 3 → t.wordFull (pa + i) = true))
    ∧ (bs ≠ [] → region pa = .dram → stkOfPa pa = stk → pa % 64 + bs.length ≤ 64 → hasRoom s pa → writable s pa → noFarLine s stk pa →
        t.bytes pa bs.length = bs ∧ BytesBut s t pa bs.length)

/-- What stands before a sector of a copy: it is in flight, its bytes are translated and read, and nothing holds its write. -/
structure SectorReady (s s1 s2 s3 s4 s5 : State) (core i j : Nat) (r : CopyRun) (c : CopyRec) (sp dp : List Piece) (data : List Byte) (g : Got) :
    Prop where
  run : (s.core core).copies.find? (fun r => r.idx == i) = some r
  flight : s.copyWindow (core / 8) = ((s.copyWindow (core / 8)).1, s1) ∧ (core, i, j) ∈ (s.copyWindow (core / 8)).1
  record : s1.copyRec core i = (c, s2)
  source : s2.enginePieces (stkOfCore core) (s.polder (core / 8)).dike (some r.ep) false ((c.src + sectorLo c.dst j) % 2 ^ 64)
    (sectorLen c.dst c.len j) r.after = (.ok sp, s3)
  target : s3.enginePieces (stkOfCore core) (s.polder (core / 8)).dike (some r.ep) true ((c.dst + sectorLo c.dst j) % 2 ^ 64)
    (sectorLen c.dst c.len j) r.after = (.ok dp, s4)
  free : s4.enginePinned (stkOfCore core) dp = false ∧ s4.memoryHeld sp = false ∧ s4.cutOff (stkOfCore core) (sp ++ dp) = false
  noBar : c.flags.testBit 1 = false
  bytes : s4.readPieces (stkOfCore core) r.ep none sp false 3 (s4.hostFor (stkOfCore core) sp data) = (g, s5)

/-- A copy of `s` has ended beside what `u` holds: its record is free, its tag's count drops, and the tag's bit sets at 0. -/
def CopyEnds (u s t : State) (core i tag : Nat) : Prop :=
  (∀ k, t.thread k = u.thread k) ∧ WorkSame (stkOfCore core) u t ∧ (t.core core).copies = (s.core core).copies.filter (fun x => x.idx != i)
  ∧ (t.core core).tagCount.getD tag 0 = (s.core core).tagCount.getD tag 0 - 1
  ∧ ((s.core core).tagCount.getD tag 0 ≤ 1 → (t.core core).tg.getLsbD tag = true)

/-- R383: a sector that may perform and whose copy nothing has stopped writes its bytes at the destination, and the record counts them; the last
one ends the copy: its record is free, its tag's count drops, and the tag's bit sets at 0. A poisoned source byte stops the copy at
its sector; a sector that is not in flight does nothing, but for a copy of which no sector is left, which ends. -/
def SectorsPerform : Prop :=
  (∀ (s : State) (core i j : Nat) (late bad : Bool) (data : List Byte),
    ((s.core core).copies.find? (fun r => r.idx == i) = none → exec (.copySectorPerformed core i j late data bad) s = .next s)
    ∧ ∀ r, (s.core core).copies.find? (fun r => r.idx == i) = some r → r.stop = none → (core, i, j) ∉ (s.copyWindow (core / 8)).1 →
      let q := (s.copyWindow (core / 8)).2.copyRec core i
      (q.1.pending r ≠ [] ∨ r.killed = true → exec (.copySectorPerformed core i j late data bad) s = .next q.2)
      ∧ (q.1.pending r = [] → r.killed = false → SMap.wf (s.core core).tagCount = true → q.1.tag < 64 →
          ∃ t, exec (.copySectorPerformed core i j late data bad) s = .next t ∧ CopyEnds (q.2.copyPut core i 25 (leBytes 1 0)) s t core i q.1.tag))
  ∧ ∀ (s s1 s2 s3 s4 s5 : State) (core i j : Nat) (r : CopyRun) (c : CopyRec) (sp dp : List Piece) (data : List Byte) (g : Got),
    SectorReady s s1 s2 s3 s4 s5 core i j r c sp dp data g →
    let n := sectorLen c.dst c.len j
    let bitmap := c.bitmap + 2 ^ j
    let counted := ((s5.engineWrite (stkOfCore core) dp g.data).copyPut core i 20 (leBytes 4 (c.done + n))).copyPut core i (64 + j / 8)
      (leBytes 1 (bitmap / 2 ^ (8 * (j / 8)) % 256))
    (g.bad = [] → r.stop = none → bitmap ≠ 2 ^ sectorCount c.dst c.len - 1 ∨ r.killed = true → exec (.copySectorPerformed core i j false data false) s = .next counted)
    ∧ (g.bad = [] → r.stop = none → bitmap = 2 ^ sectorCount c.dst c.len - 1 → r.killed = false → SMap.wf (s.core core).tagCount = true →
        c.tag < 64 → ∃ t, exec (.copySectorPerformed core i j false data false) s = .next t
          ∧ CopyEnds (counted.copyPut core i 25 (leBytes 1 0)) s t core i c.tag)
    ∧ ∀ k, g.bad.min? = some k → exec (.copySectorPerformed core i j false data false) s
        = .next (s5.copyStop core i { port := stkOfCore core, sector := j, cause := 0x07, addr := ((c.src + sectorLo c.dst j) % 2 ^ 64 + k) % 2 ^ 64,
                                      ua := 0, flags := 0, prgi := 0 })

/-- R383, R387: a stop that no unfinished sector precedes ends the copy: its record takes the cause, the address and status 2, its tag's stop flag
is set, and its count drops; here in a dike whose records its stack holds. -/
def StopsEndCopies : Prop :=
  ∀ (s : State) (core i : Nat) (x : CopyStop) (r : CopyRun), (s.core core).copies.find? (fun r => r.idx == i) = some r → i < 16 →
    let stk := stkOfCore core
    let dike := (s.polder (core / 8)).dike
    let c := copyRecOf (area s stk dike (s.copyAddr core i) 128)
    (s.stack stk).rootless dike = true → plainVa (s.copyBase core) 2048 → SMap.wf (s.stack stk).areas = true →
    c.pending { r with stop := some x } = [] → c.flags.testBit 1 = false → SMap.wf (s.core core).tagCount = true →
    let t := s.copyStop core i x
    (t.core core).copies = (s.core core).copies.filter (fun y => y.idx != i) ∧ (t.core core).tagStop.getLsbD c.tag = true
      ∧ (t.core core).tagCount.getD c.tag 0 = (s.core core).tagCount.getD c.tag 0 - 1
      ∧ area t stk dike (s.copyAddr core i + 25) 1 = [2] ∧ leNat (area t stk dike (s.copyAddr core i + 27) 1) = x.cause % 256
      ∧ leNat (area t stk dike (s.copyAddr core i + 40) 8) = x.addr % 2 ^ 64

/-- R384, R390: the waits on tags. With no stop flag among the tags that it reports a wait completes: `waitany` answers the tags of its
mask that are set, once there is one; `waitall` goes on when all are; `ffr` answers the lowest set one, or all ones; `tagclr` clears the
stop flags of its tags that have nothing outstanding. -/
def TagWaits : Prop :=
  (∀ (s : State) (d a : Nat), Ready s [.s a] [.s d] → s.me.roam = false → let x := s.myCore.tg &&& s.sval a
    (x ≠ 0 → x &&& s.myCore.tagStop = 0 → exec (.waitany d a) s = .next (result s [a] d 4 x))
      ∧ (x = 0 → s.sval a ≠ 0 → exec (.waitany d a) s = .next (s.park .tag))
      ∧ (s.sval a = 0 → exec (.waitany d a) s = .next (s.trapOpen 0x01)))
  ∧ (∀ (s : State) (a : Nat), Ready s [.s a] [] → s.me.roam = false →
    ((∀ k < 64, (s.sval a).getLsbD k = true → s.myCore.tg.getLsbD k = true) → s.sval a &&& s.myCore.tagStop = 0 →
        exec (.waitall a) s = .next ((s.popIf [a]).advance 4))
      ∧ ((∃ k, k < 64 ∧ (s.sval a).getLsbD k = true ∧ s.myCore.tg.getLsbD k = false) → exec (.waitall a) s = .next (s.park .tag)))
  ∧ (∀ (s : State) (d a : Nat), Ready s [.s a] [.s d] → s.me.roam = false → ∃ x : W64, exec (.ffr d a) s = .next (result s [a] d 4 x)
    ∧ ((∀ k < 64, ¬((s.sval a).getLsbD k = true ∧ s.myCore.tg.getLsbD k = true)) → x = BitVec.allOnes 64)
    ∧ ∀ k < 64, (s.sval a).getLsbD k = true → s.myCore.tg.getLsbD k = true →
        (∀ j < k, ¬((s.sval a).getLsbD j = true ∧ s.myCore.tg.getLsbD j = true)) → x = BitVec.ofNat 64 k)
  ∧ ∀ (s : State) (a : Nat), Ready s [.s a] [] → s.me.roam = false → ∃ t, exec (.tagclr a) s = .next t ∧ t.me.pc = s.me.pc + 4
    ∧ t.me.s = s.me.s ∧ OthersSame s t s.thr ∧ t.myCore.tg = s.myCore.tg
    ∧ ∀ k < 64, t.myCore.tagStop.getLsbD k
        = (s.myCore.tagStop.getLsbD k && !((s.sval a).getLsbD k && s.myCore.tagCount.getD k 0 == 0))

/-- A descriptor (R388) that its instruction accepts: aligned, read, legal, on a valid channel of the dike, with its barrier, if it names
one, in order. -/
structure Described (s : State) (a : Nat) (isGet : Bool) (bs : List Byte) (s1 s2 : State) : Prop where
  home : s.me.roam = false
  aligned : (s.sval a).toNat % 64 = 0
  read : Reads s (s.sval a).toNat 64 bs s1
  flags : leAt bs 23 1 < 32
  zero : leAt bs 28 4 = 0 ∧ leAt bs 62 2 = 0
  size : leAt bs 16 4 ≤ 2 ^ 24 ∧ leAt bs 22 1 < 64
  work : leAt bs 16 4 ≠ 0 ∨ (leAt bs 23 1).testBit 1 = true
  final : (leAt bs 23 1).testBit 1 = true → leAt bs 40 8 % 8 = 0
  get : isGet = true → (leAt bs 23 1).testBit 1 = false
  channel : s1.chanValid (stkOf s.cur) (leAt bs 20 2) = true ∧ s1.chanNum (stkOf s.cur) (leAt bs 20 2) 0 2 = s.jobOf s.cur
  barrier : ((leAt bs 23 1).testBit 2 = false ∧ s2 = s1)
    ∨ ((leAt bs 23 1).testBit 2 = true ∧ ∀ k : State → State, s1.withBar (leAt bs 48 8) (fun _ _ s => k s) = k s2)

/-- The transfer of a descriptor, before its first packet. -/
structure TransferOf (x : Xfer) (s : State) (va : Nat) (isGet : Bool) (bs : List Byte) : Prop where
  ep : x.ep = s.cur
  dike : x.dike = s.jobOf s.cur
  desc : x.desc = va
  kind : x.isGet = isGet
  loc : x.loc = leAt bs 0 8
  remote : x.remote = leAt bs 8 8
  len : x.len = leAt bs 16 4
  chan : x.chan = leAt bs 20 2
  tag : x.tag = leAt bs 22 1
  key : x.key = leAt bs 24 4
  fresh : x.next = 0 ∧ x.done = 0 ∧ x.sent = [] ∧ x.stop = none

/-- R389: `put` and `get` of a legal descriptor enter the put engine on their tag; `wpost` leaves a request until its key arrives, or enters
at once for a key that has come early (whether a posted descriptor without a final write is a put's or a get's is open, log 37); `wkill` takes
a request back. -/
def TransfersStart : Prop :=
  (∀ (s s1 s2 : State) (a : Nat) (isGet : Bool) (bs : List Byte), Ready s [.s a] [] → Described s a isGet bs s1 s2 →
    s.myStack.xfers.length < 4096 → SMap.wf s.myCore.tagCount = true →
    ∃ t x, exec (if isGet then .get a else .put a) s = .next t ∧ t.me.pc = s.me.pc + 4 ∧ t.myStack.xfers = s.myStack.xfers ++ [x]
      ∧ TransferOf x s (s.sval a).toNat isGet bs ∧ TagTaken s.myCore t.myCore (leAt bs 22 1) ∧ MemorySame s2 t
      ∧ OnlyScalars s.me t.me ∧ OthersSame s t s.thr)
  ∧ (∀ (s s1 s2 : State) (a b : Nat) (bs : List Byte), Ready s [.s a, .s b] [] → Described s a false bs s1 s2 → (s.sval b).toNat < 2 ^ 32 →
    (∀ e ∈ s.myStack.earlyKeys, ¬(e.1 = s.jobOf s.cur ∧ e.2 = (s.sval b).toNat)) → s.myStack.wreqs.length < 1024 →
    ∃ t w g, exec (.wpost a b) s = .next t ∧ t.me.pc = s.me.pc + 4 ∧ t.myStack.wreqs = s.myStack.wreqs ++ [w]
      ∧ w.key = (s.sval b).toNat ∧ w.dike = s.jobOf s.cur ∧ TransferOf w.xfer s (s.sval a).toNat g bs
      ∧ ((leAt bs 23 1).testBit 1 = true → g = false)
      ∧ t.myStack.xfers = s.myStack.xfers ∧ MemorySame s2 t ∧ OnlyScalars s.me t.me ∧ OthersSame s t s.thr)
  ∧ (∀ (s s1 s2 : State) (a b : Nat) (bs : List Byte) (before after : List (Nat × Nat)), Ready s [.s a, .s b] [] → Described s a false bs s1 s2 →
    (s.sval b).toNat < 2 ^ 32 → s.myStack.earlyKeys = before ++ (s.jobOf s.cur, (s.sval b).toNat) :: after →
    (s.jobOf s.cur, (s.sval b).toNat) ∉ before →
    ∃ t x g, exec (.wpost a b) s = .next t ∧ t.me.pc = s.me.pc + 4 ∧ t.myStack.earlyKeys = before ++ after
      ∧ t.myStack.xfers = s.myStack.xfers ++ [x] ∧ TransferOf x s (s.sval a).toNat g bs ∧ ((leAt bs 23 1).testBit 1 = true → g = false)
      ∧ t.myStack.wreqs = s.myStack.wreqs ∧ OthersSame s t s.thr)
  ∧ ∀ (s : State) (a : Nat), Ready s [.s a] [] →
    let mine (w : WorkReq) : Prop := w.dike = s.jobOf s.cur ∧ w.xfer.desc = (s.sval a).toNat
    ∃ t, exec (.wkill a) s = .next t ∧ t.me.pc = s.me.pc + 4 ∧ t.me.s = s.me.s
    ∧ ((∀ w ∈ s.myStack.wreqs, ¬mine w) → t.myStack.wreqs = s.myStack.wreqs)
    ∧ (∀ before w after, s.myStack.wreqs = before ++ w :: after → mine w → (∀ x ∈ before, ¬mine x) → t.myStack.wreqs = before ++ after)
    ∧ t.myStack.xfers = s.myStack.xfers ∧ MemorySame s t ∧ OthersSame s t s.thr

end Sys2Proof.Claims

/-! ## Copies, tags, puts and gets (chapters 04 and 16) -/

/-- R66, R381, R383, R385 to R387: the copy engine's instructions, its sectors and its stops. -/
def Obligations.CopiesRun : Prop := CopiesStart ∧ CopiesAreWatched ∧ EnginesWrite ∧ SectorsPerform ∧ StopsEndCopies

/-- R384, R389, R390: waits on tags, and what enters the put engine. -/
def Obligations.TagsAndTransfers : Prop := TagWaits ∧ TransfersStart

namespace Sys2Proof.Claims

/-- The values of the control registers (R194, R201, R207, R240, R418). -/
def controlValue (s : State) (n : Nat) : Option W64 :=
  let bit (b : Bool) (k : Nat) : Nat := if b then 2 ^ k else 0
  match n with
  | 0x000 => some (s.me.bank1.cause.setWidth 64)
  | 0x001 => some s.me.bank1.addr
  | 0x002 => some (s.me.bank1.epc.setWidth 64)
  | 0x003 => some (s.me.bank1.efn.setWidth 64)
  | 0x004 => some (s.me.bank1.origin.setWidth 64)
  | 0x005 => some (BitVec.ofNat 64 (s.me.bank1.user.toNat * 2 ^ 8 + bit s.me.bank1.late 7 + bit s.me.twin 6 + bit s.me.esc 5 + bit s.me.ack 4
      + s.me.level))
  | 0x008 => some s.me.tvec
  | 0x010 => some (BitVec.ofNat 64 (s.myCore.hold2.toNat * 2 ^ 16 + s.myCore.hold1.toNat * 2 ^ 8 + s.myCore.depth.toNat))
  | 0x011 => some (s.myCore.mweight.setWidth 64)
  | 0x012 => some (s.myCore.xmask.setWidth 64)
  | 0x013 => some s.me.seed
  | 0x018 => some (BitVec.ofNat 64 (s.timeAt s.cur))
  | 0x019 => some (BitVec.ofNat 64 s.cur)
  | 0x01A => some s.me.task
  | 0x01B => some (BitVec.ofNat 64 (s.jobOf s.cur))
  | 0x020 => some (if coreNo s.cur < 4 then s.myPolder.bond0.setWidth 64 else s.myPolder.bond1.setWidth 64)
  | 0x021 => some (BitVec.ofNat 64 (((List.range 8).map fun i => bit (s.thread (coreOf s.cur * 8 + i)).long i).sum * 2 ^ 8
      + bit s.myCore.gang.leader 3 + bit s.myCore.gang.donor 2 + s.myCore.gang.width))
  | 0x100 => some (BitVec.ofNat 64 s.myPolder.cslim)
  | 0x101 => some s.myStack.injaddr
  | 0x102 => some s.myStack.injctl
  | _ => none

/-- The registers that `setc` may name in a slot (R240): `c.tvec` in slot 7. -/
def writableControl (slot n : Nat) : Prop :=
  n < 6 ∨ (n = 0x008 ∧ slot = 7) ∨ (0x010 ≤ n ∧ n ≤ 0x013) ∨ (0x100 ≤ n ∧ n ≤ 0x102)

/-- The values that a writable register takes (R182, R240). -/
def legalControl (s : State) (n : Nat) (x : W64) : Prop :=
  let v := x.toNat
  let ctl (x : W64) : W64 := x &&& ~~~(1#64 <<< 62)
  match n with
  | 0x000 => v < 2 ^ 8
  | 0x002 => v < 2 ^ 32
  | 0x003 => v < 2 ^ 4
  | 0x004 => v < 2 ^ 32
  | 0x005 => x &&& 0xFFFFFFFFFFFF00FF = s.me.status &&& 0xFFFFFFFFFFFF00FF
  | 0x008 => v < 2 ^ 52 ∧ v % 2 ^ 10 = 0
  | 0x010 => v < 2 ^ 24 ∧ v / 4 % 64 = 0 ∧ v % 4 ≠ 3
  | 0x011 => 1 ≤ v ∧ v ≤ 8
  | 0x012 => v < 2 ^ 8
  | 0x100 => 1 ≤ v ∧ v ≤ 16
  | 0x101 => v < 2 ^ 56 ∧ v % 32 = 0 ∧ stkOfPa v = stkOf s.cur ∧ s.myStack.injctl.getLsbD 63 = false
      ∧ injOk (stkOf s.cur) x (ctl s.myStack.injctl) = true
  | 0x102 => injOk (stkOf s.cur) s.myStack.injaddr (ctl x) = true
  | _ => True

/-- What a written register reads: the value, but for bit 62 of `c.injctl`, which a write of 1 clears (R182). -/
def readsBack (s : State) (n : Nat) (x : W64) : W64 :=
  if n = 0x102 then (x &&& ~~~(1#64 <<< 62)) ||| (if s.myStack.injctl.getLsbD 62 && !x.getLsbD 62 then 1#64 <<< 62 else 0) else x

/-- R240, R392: the control registers have the values of R240's table, and `getc` answers them; `setc` of a value within the register's limits
writes it and changes no other control register (a seed also starts its generator again, R271). A number outside the table, one that
is read-only in the slot, and a value beyond the limits raise `ILLEGAL`. -/
def ControlRegisters : Prop :=
  (∀ (s : State) (n : Nat), s.creg n = controlValue s n)
  ∧ (∀ (s : State) (d n : Nat) (x : W64), controlValue s n = some x → Ready s [] [.s d] → exec (.getc d n) s = .next (result s [] d 4 x))
  ∧ (∀ (s : State) (d n : Nat), controlValue s n = none → exec (.getc d n) s = .next (s.trap 0x01 (Instr.getc d n).wordVal))
  ∧ ∀ (s : State) (n a : Nat),
    (¬writableControl (slotNo s.cur) n → exec (.setc n a) s = .next (s.trap 0x01 (Instr.setc n a).wordVal))
    ∧ (writableControl (slotNo s.cur) n → Ready s [.s a] [] → ¬legalControl s n (s.sval a) →
        exec (.setc n a) s = .next (s.trap 0x01 (s.sval a).toNat))
    ∧ (writableControl (slotNo s.cur) n → Ready s [.s a] [] → legalControl s n (s.sval a) → (n = 0x005 → s.me.level < 16) →
        ∃ t, exec (.setc n a) s = .next t ∧ t.me.pc = s.me.pc + 4 ∧ controlValue t n = some (readsBack s n (s.sval a))
          ∧ (∀ k, k ≠ n → controlValue t k = controlValue s k) ∧ (n = 0x013 → t.me.gen = 0) ∧ t.me.s = s.me.s ∧ t.me.v = s.me.v
          ∧ MemorySame s t ∧ OthersSame s t s.thr)

/-- R393, R428: `sysc 2` answers the address of the core's copy records; `sysc 1` a doubleword of the image's pool, with `MISALIGNED` and `ACCESS`
for an offset that is no multiple of 8 or lies outside it; and `sysc` of 16 or more puts a request with its operand and a continuation
for `sD` in the polder's inbox, and `sD` is owed to it; a refused request parks. The other numbers raise `ILLEGAL`. -/
def Services : Prop :=
  (∀ (s : State) (d : Nat), Ready s [] [.s d] → exec (.sysc d 0 2) s = .next (result s [] d 4 (BitVec.ofNat 64 (s.copyBase (coreOf s.cur)))))
  ∧ (∀ (s : State) (d a : Nat) (im : Image), Ready s [.s a] [.s d] → s.myImage = some im → let off := (s.sval a).toNat
    (off % 8 = 0 → off < im.pool.length → ∃ t, exec (.sysc d a 1) s = .next t ∧ t.me.pc = s.me.pc + 4
        ∧ Comes t.me d (BitVec.ofNat 64 (leAt im.pool off 8)) ∧ ScalarsBut s.me t.me [d] ∧ OnlyThread s t s.thr)
    ∧ (off % 8 ≠ 0 → exec (.sysc d a 1) s = .next (s.trap 0x03 off))
    ∧ (off % 8 = 0 → im.pool.length ≤ off → exec (.sysc d a 1) s = .next (s.trap 0x05 off)))
  ∧ (∀ (s : State) (d a n : Nat), (n < 16 ∧ n ≠ 1 ∧ n ≠ 2) ∨ (n = 2 ∧ a ≠ 0) →
    exec (.sysc d a n) s = .next (s.trap 0x01 (Instr.sysc d a n).wordVal))
  ∧ ∀ (s : State) (d a n : Nat), 16 ≤ n → Ready s [.s a] [.s d] →
    let e := mkEnt 3 (s.sval a).toNat (d * 2 ^ 32 + s.cur) s.cur n (s.timeAt s.cur)
    (∀ s1, s.inboxPush (polOf s.cur) e = (false, s1) → exec (.sysc d a n) s = .next (s1.park .inbox))
    ∧ (∀ s1, s.inboxPush (polOf s.cur) e = (true, s1) → ∃ t, exec (.sysc d a n) s = .next t ∧ t.me.pc = s.me.pc + 4
        ∧ (d ≠ 0 → t.me.stOf (.s d) = .owed .cont) ∧ ScalarsBut s.me t.me [d] ∧ MemorySame s t ∧ t.myPolder.inbox = s1.myPolder.inbox
        ∧ t.myStack.ovf = s1.myStack.ovf ∧ OthersSame s1 t s.thr)
    ∧ (s.myPolder.pend = [] → s.inRing (polOf s.cur) = false → s.myPolder.inbox.length < 16 →
        ∃ s1, s.inboxPush (polOf s.cur) e = (true, s1) ∧ s1.myPolder.inbox = s.myPolder.inbox ++ [e])

/-- R195, R395, R423: `park` holds a live thread; `wake` lets it and its core go, and an escalated one enters its handler again with `esc` set;
`halt` halts the slot while its polder's inbox is empty. A register that names no endpoint raises `ACCESS`. -/
def Holds : Prop :=
  (∀ (s : State) (a : Nat), Ready s [.s a] [] → let ep := (s.sval a).toNat; s.epWf ep = true → thrOf ep ≠ s.thr →
    ∃ t, exec (.park a) s = .next t ∧ t.me.pc = s.me.pc + 4 ∧ OnlyScalars s.me t.me ∧ MemorySame s t
      ∧ ((s.thread (thrOf ep)).live = true → t.thread (thrOf ep) = { s.thread (thrOf ep) with held := true })
      ∧ ((s.thread (thrOf ep)).live = false → t.thread (thrOf ep) = s.thread (thrOf ep))
      ∧ ∀ k, k ≠ s.thr → k ≠ thrOf ep → t.thread k = s.thread k)
  ∧ (∀ (s : State) (a : Nat), Ready s [.s a] [] → s.epWf (s.sval a).toNat = true → thrOf (s.sval a).toNat = s.thr → s.me.live = true →
    ∃ t u, exec (.park a) s = .next t ∧ t.me.held = true ∧ t.me.pc = s.me.pc + 4 ∧ t.me.s = s.me.s
      ∧ (s.me.escal = none → exec (.wake a) s = .next u ∧ u.me.held = false ∧ u.me.pc = s.me.pc + 4 ∧ u.me.s = s.me.s))
  ∧ (∀ (s : State) (a : Nat), Ready s [.s a] [] → let ep := (s.sval a).toNat; let r := s.thread (thrOf ep)
    s.epWf ep = true → thrOf ep ≠ s.thr →
    ∃ t, exec (.wake a) s = .next t ∧ t.me.pc = s.me.pc + 4 ∧ OnlyScalars s.me t.me ∧ MemorySame s t
      ∧ (t.core (coreOf ep)).gated = none
      ∧ (r.live = false → t.thread (thrOf ep) = r)
      ∧ (r.live = true → r.escal = none → t.thread (thrOf ep) = { r with held := false, halted := r.halted && slotNo ep != 7 })
      ∧ (∀ e, r.live = true → r.escal = some e → t.thread (thrOf ep) = { r with
          held := false, halted := r.halted && slotNo ep != 7, escal := none, esc := true, entry := some { written := false, abandon := e.record } })
      ∧ ∀ k, k ≠ s.thr → k ≠ thrOf ep → t.thread k = s.thread k)
  ∧ (∀ s : State, ∃ t, exec .halt s = .next t ∧ t.me.pc = s.me.pc + 4 ∧ OnlyThread s t s.thr ∧ t.me.s = s.me.s
    ∧ (t.me.halted = true ↔ s.myPolder.inbox = [] ∧ s.myPolder.pend = [] ∧ ∀ e ∈ s.myStack.ovf, e.1 ≠ polOf s.cur))
  ∧ ∀ (s : State) (a : Nat), Ready s [.s a] [] → s.epWf (s.sval a).toNat = false →
    exec (.park a) s = .next (s.trap 0x05 (s.sval a).toNat) ∧ exec (.wake a) s = .next (s.trap 0x05 (s.sval a).toNat)

/-- R396: `cinst` writes its status to byte 48 of the descriptor and nothing else in memory: 10 for a descriptor that is not well formed, the
reason of a check that fails, 0 with the image in the code store, 9 where four images are pinned already; without a place it waits, and
after the wait it gives 9. `cdrop` empties a slot of the code store that has no user. -/
def CodeIsInstalledAndDropped : Prop :=
  (∀ (s : State) (a : Nat), Ready s [.s a] [] → let pa := (s.sval a).toNat; pa % 64 = 0 → region pa = .dram → allPerformed s →
    s.addrHeld pa = false → (∀ j < 64, s.poisoned (pa + j) = false) → SMap.wf s.mem = true → writable s (pa + 48) →
    let d := installDesc (s.bytes pa 64)
    let ends (status : Nat) (code : SMap Image → Prop) : Prop := ∃ t, exec (.cinst a) s = .next t ∧ t.me.pc = s.me.pc + 4
      ∧ t.num (pa + 48) 8 = status ∧ BytesBut s t (pa + 48) 8 ∧ code t.myPolder.code ∧ OnlyScalars s.me t.me ∧ OthersSame s t s.thr
    (d.ok = false → ends 10 fun c => c = s.myPolder.code)
    ∧ (∀ r, d.ok = true → s.checkImage d (s.bytes d.addr d.len) = .error r → r < 2 ^ 64 → ends r fun c => c = s.myPolder.code)
    ∧ ∀ im, d.ok = true → s.checkImage d (s.bytes d.addr d.len) = .ok im →
        (∀ slot old, s.myPolder.imageOf d.digest = some (slot, old) →
          (d.pinned = false ∨ old.pinned = true → ends 0 fun c => c = s.myPolder.code)
          ∧ (d.pinned = true → old.pinned = false → 4 ≤ s.myPolder.pinned → ends 9 fun c => c = s.myPolder.code)
          ∧ (d.pinned = true → old.pinned = false → s.myPolder.pinned < 4 →
              ends 0 fun c => c = (s.modImage (polOf s.cur) slot fun im => { im with pinned := true }).myPolder.code))
        ∧ (s.myPolder.imageOf d.digest = none → d.pinned = true → 4 ≤ s.myPolder.pinned → ends 9 fun c => c = s.myPolder.code)
        ∧ (s.myPolder.imageOf d.digest = none → (d.pinned = true → s.myPolder.pinned < 4) → ∀ s1,
            (s.install (polOf s.cur) { im with pinned := d.pinned } = (true, s1) → ends 0 fun c => c = s1.myPolder.code)
            ∧ (s.install (polOf s.cur) { im with pinned := d.pinned } = (false, s1) →
                (∀ since, s.me.prog = .cinst since true → ends 9 fun c => c = s1.myPolder.code)
                ∧ ((∀ since, s.me.prog ≠ .cinst since true) → ∃ t, exec (.cinst a) s = .next t ∧ t.me.pc = s.me.pc ∧ t.me.wait = .pool
                    ∧ t.myPolder.code = s1.myPolder.code ∧ MemorySame s t ∧ OthersSame s t s.thr))))
  ∧ ∀ (s : State) (a : Nat), Ready s [.s a] [] → let n := (s.sval a).toNat
    (16 ≤ n → exec (.cdrop a) s = .next (s.trapOpen 0x01))
    ∧ (n < 16 → s.myPolder.code.find? n = none → exec (.cdrop a) s = .next ((s.popIf [a]).advance 4))
    ∧ (∀ im, n < 16 → s.myPolder.code.find? n = some im → im.users = 0 → SMap.wf s.myPolder.code = true →
        ∃ t, exec (.cdrop a) s = .next t ∧ t.me.pc = s.me.pc + 4 ∧ t.myPolder.code.find? n = none
          ∧ (∀ k, k ≠ n → t.myPolder.code.find? k = s.myPolder.code.find? k) ∧ OnlyThread s t s.thr)
    ∧ (∀ im, n < 16 → s.myPolder.code.find? n = some im → im.users ≠ 0 → exec (.cdrop a) s = .next (s.park .pool))

/-- R30, R397: `tlbi` sends its range, or every address, to every polder and stack of the dike and parks until each has reported; then it goes on.
An empty range, and one beyond the address space, raise `ILLEGAL`. -/
def InvalidationsAreSent : Prop :=
  (∀ (s : State) (a b lo n : Nat) (whole : Bool), (∀ id, s.me.prog ≠ .tlbi id) →
    (whole = true ∧ a = 0 ∧ b = 0 ∧ lo = 0 ∧ n = 2 ^ 52
      ∨ whole = false ∧ Ready s [.s a, .s b] [] ∧ lo = (s.sval a).toNat % 2 ^ 52 ∧ n = (s.sval b).toNat ∧ n ≠ 0 ∧ n ≤ 2 ^ 52) →
    ∃ t, exec (.tlbi a b whole) s = .next t ∧ t.me.pc = s.me.pc ∧ t.me.wait = .unit ∧ t.me.prog = .tlbi (s.seq + 1)
      ∧ t.myStack.tlbis.find? (s.seq + 1) = some (s.dikePolders (s.jobOf s.cur))
      ∧ (∀ p, (s.dikePolders (s.jobOf s.cur)).Nodup → p ∈ s.dikePolders (s.jobOf s.cur) → ∃ i, (t.polder p).invs = (s.polder p).invs ++ [i] ∧ i.id = s.seq + 1
          ∧ i.lo = lo ∧ i.hi = n ∧ i.started = false)
      ∧ MemorySame s t ∧ OthersSame s t s.thr)
  ∧ (∀ (s : State) (a b id : Nat) (whole : Bool), s.me.prog = .tlbi id →
    (s.myStack.tlbis.getD id [] = [] → ∃ t, exec (.tlbi a b whole) s = .next t ∧ t.me.pc = s.me.pc + 4 ∧ t.me.prog = .none
      ∧ t.me.s = s.me.s ∧ MemorySame s t ∧ OthersSame s t s.thr)
    ∧ (s.myStack.tlbis.getD id [] ≠ [] → exec (.tlbi a b whole) s = .next (s.park .unit)))
  ∧ ∀ (s : State) (a b : Nat), (∀ id, s.me.prog ≠ .tlbi id) → Ready s [.s a, .s b] [] → ((s.sval b).toNat = 0 ∨ 2 ^ 52 < (s.sval b).toNat) →
    exec (.tlbi a b false) s = .next (s.trapOpen 0x01)

/-- R174, R175: `scrub` reads sectors of the stack's DRAM and writes them back: no byte changes and no poison goes; where nothing holds the
pattern, is armed or waits, nothing else changes either; a sector that an uncorrectable error has struck takes the pattern. Sectors that
are not whole, too many or elsewhere raise `ILLEGAL`. -/
def SectorsAreScrubbed : Prop :=
  ∀ (s : State) (a b : Nat), Ready s [.s a, .s b] [] → let pa := (s.sval a).toNat; let n := (s.sval b).toNat
    let fits := pa % 32 = 0 ∧ n % 32 = 0 ∧ 32 ≤ n ∧ n ≤ 2 ^ 30 ∧ stkOfPa pa = stkOf s.cur ∧ region pa = .dram ∧ region (pa + n - 1) = .dram
    (¬fits → exec (.scrub a b) s = .next (s.trapOpen 0x01))
    ∧ (fits → s.addrHeld pa = false →
        (∃ t, exec (.scrub a b) s = .next t ∧ t.me.pc = s.me.pc + 4 ∧ OnlyScalars s.me t.me ∧ (∀ x, t.byte x = s.byte x)
          ∧ (∀ x, s.poison.has x = true → t.poison.has x = true) ∧ OthersSame s t s.thr)
        ∧ ((∀ g ∈ s.poison, g < pa ∨ pa + n ≤ g) → s.myStack.injctl.getLsbD 63 = false →
            (∀ u ∈ s.myStack.upsets, u.kind.array = true → u.addr < pa ∨ pa + n ≤ u.addr) →
            exec (.scrub a b) s = .next ((s.popIf [a, b]).advance 4))
        ∧ (∀ u, s.myStack.upsets = [u] → u.kind = .symbols → pa ≤ u.addr → u.addr < pa + n → s.myStack.injctl.getLsbD 63 = false →
            s.poison = [] → stkOfPa (u.addr / 32 * 32) = stkOf s.cur →
            (s.slice (proxyDev (stkOf s.cur) (u.addr / 32 * 32))).chan.failed = false →
            ∃ t, exec (.scrub a b) s = .next t ∧ t.poison.has (u.addr / 32 * 32) = true))

end Sys2Proof.Claims

/-! ## System instructions (chapter 16) -/

/-- R240, R392, R393: control registers and services. -/
def Obligations.ControlRegistersAndServices : Prop := ControlRegisters ∧ Services

/-- R30, R174, R395, R396, R397: threads are held, halted and woken, code is installed and dropped, translations invalidated and memory
scrubbed. -/
def Obligations.SystemInstructionsAct : Prop := Holds ∧ CodeIsInstalledAndDropped ∧ InvalidationsAreSent ∧ SectorsAreScrubbed

namespace Sys2Proof.Claims

/-- Every thread is as before. -/
def ThreadsSame (s t : State) : Prop := ∀ k, t.thread k = s.thread k

/-- An ATC entry is one that an invalidation of a range names. -/
def inRange (pasid ua size : Nat) (e : AtcEnt) : Prop := e.pasid = pasid ∧ e.ua < ua + size ∧ ua < e.ua + e.size

/-- The live threads that joined a request end in `HOST_PAGE`. -/
def EndsInHostPage (s t : State) (h : HostReq) : Prop :=
  ∀ x ∈ h.thrs, (s.thread x.1).live = true → ∃ key va, (t.thread x.1).xfault = some (key, { cause := 0x12, addr := va })

/-- An ATC gained an entry of 4 KiB to 2 MiB that covers a request's page, with the permissions of its completion: nothing else entered,
entries of other sets that it does not overlap stay, and a set of at most 8 has not grown beyond 8. -/
def AtcGained (a b : List AtcEnt) (h : HostReq) (r w n u : Bool) : Prop :=
  ∃ e, b.head? = some e ∧ e.pasid = h.pasid ∧ e.ua ≤ h.ua ∧ h.ua < e.ua + e.size ∧ 4096 ≤ e.size ∧ e.size ≤ 2 ^ 21
    ∧ e.r = r ∧ e.w = w ∧ e.n = n ∧ e.u = u ∧ (∀ x ∈ b, x = e ∨ x ∈ a)
    ∧ (∀ x ∈ a, ¬inRange e.pasid e.ua e.size x → x.set ≠ e.set → x ∈ b)
    ∧ ∀ m, (a.filter fun x => x.set == m).length ≤ 8 → (b.filter fun x => x.set == m).length ≤ 8

/-- R35, R36, R44: a Translation Completion ends its request. One that an invalidation has overtaken is asked again, whatever it says; an
error ends every joined access of a live thread in `HOST_PAGE`; one with the permission asked for fills the ATC. For a page that is
not present a page request waits, or, with PRI stopped or after four rounds, the accesses end in `HOST_PAGE`; where only reading is
granted and a write joined, the ATC gains the entry and the writes alone wait. -/
def TranslationsComplete : Prop :=
  ∀ (s : State) (stk i status ta size : Nat) (r w n u : Bool) (h : HostReq), (s.stack stk).hreqs[i]? = some h →
    let rest := (s.stack stk).hreqs.eraseIdx i
    let writers : HostReq := if r then { h with thrs := h.thrs.filter fun x => x.2.2 } else h
    (h.stale = true → ∃ t, exec (.translationCompletion stk i status ta size r w n u) s = .next t
      ∧ (t.stack stk).hreqs[i]? = some { h with stale := false } ∧ t.out = s.out ++ [.translationRequest h.pasid h.ua (!h.write)]
      ∧ (t.stack stk).atc = (s.stack stk).atc ∧ MemorySame s t ∧ ThreadsSame s t)
    ∧ (h.stale = false → status ≠ 0 → ∃ t, exec (.translationCompletion stk i status ta size r w n u) s = .next t
      ∧ (t.stack stk).hreqs = rest ∧ EndsInHostPage s t h ∧ ∀ k, k ∉ h.thrs.map (·.1) → t.thread k = s.thread k)
    ∧ (h.stale = false → status = 0 → (if h.write then w else r) = true →
      ∃ t, exec (.translationCompletion stk i status ta size r w n u) s = .next t ∧ AtcGained (s.stack stk).atc (t.stack stk).atc h r w n u
        ∧ (t.stack stk).hreqs = rest ∧ MemorySame s t ∧ ThreadsSame s t)
    ∧ (h.stale = false → status = 0 → (if h.write then w else r) = false → ((s.stack stk).hwaitq.filter fun h => !h.sent).length < 1024 →
      (s.stack stk).priStopped = false → h.rounds < 4 →
      ∃ t x, exec (.translationCompletion stk i status ta size r w n u) s = .next t ∧ (t.stack stk).hreqs = rest
        ∧ x ∈ (t.stack stk).hwaitq ∧ x.pasid = h.pasid ∧ x.ua = h.ua ∧ x.write = h.write ∧ x.thrs = writers.thrs
        ∧ (t.stack stk).hwaitq.length = (s.stack stk).hwaitq.length + 1
        ∧ (r = true → AtcGained (s.stack stk).atc (t.stack stk).atc h r w n u) ∧ MemorySame s t ∧ ThreadsSame s t)
    ∧ (h.stale = false → status = 0 → (if h.write then w else r) = false → ((s.stack stk).hwaitq.filter fun h => !h.sent).length < 1024 →
      ((s.stack stk).priStopped = true ∨ 4 ≤ h.rounds) →
      ∃ t, exec (.translationCompletion stk i status ta size r w n u) s = .next t ∧ (t.stack stk).hreqs = rest
        ∧ EndsInHostPage s t writers ∧ (r = true → AtcGained (s.stack stk).atc (t.stack stk).atc h r w n u)
        ∧ ∀ k, k ∉ writers.thrs.map (·.1) → t.thread k = s.thread k)

/-- R39: a page response of Success asks for the translation again; one of Response Failure stops page requests and ends every waiting one;
any other ends its own request, as one second without a response does. A response whose request has timed out is discarded, and so is one
without a request. A response waits while an engine that its request stops is still running. PRI_STOPPED_CLEAR lets page requests go on. -/
def PageResponses : Prop :=
  ∀ (s : State) (stk prgi : Nat),
    ((s.stack stk).pageOf prgi = none → exec (.prgResponseTimeout stk prgi) s = .next s ∧ ∀ code,
      ((s.stack stk).latePrgi.has prgi = false → exec (.prgResponse stk prgi code) s = .next s)
      ∧ ((s.stack stk).latePrgi.has prgi = true → List.Pairwise (· < ·) (s.stack stk).latePrgi →
        ∃ t, exec (.prgResponse stk prgi code) s = .next t ∧ (t.stack stk).latePrgi.has prgi = false
          ∧ (t.stack stk).hwaitq.length = (s.stack stk).hwaitq.length ∧ MemorySame s t ∧ ThreadsSame s t))
    ∧ (∀ (h : HostReq) (i : Nat), (s.stack stk).pageOf prgi = some (h, i) →
      ((s.stack stk).stopping prgi = true → exec (.prgResponseTimeout stk prgi) s = .next s ∧ ∀ code, exec (.prgResponse stk prgi code) s = .next s)
      ∧ (s.podTime (stk / 4) < h.asked + 4000000000 → exec (.prgResponseTimeout stk prgi) s = .next s)
      ∧ ((s.stack stk).stopping prgi = false →
        ((s.stack stk).hreqs.length < 256 → ∃ t x, exec (.prgResponse stk prgi 0) s = .next t ∧ (t.stack stk).hreqs = (s.stack stk).hreqs ++ [x]
          ∧ x.ua = h.ua ∧ x.pasid = h.pasid ∧ x.thrs = h.thrs ∧ x.paging = false ∧ x.rounds = h.rounds + 1 ∧ ThreadsSame s t)
        ∧ (256 ≤ (s.stack stk).hreqs.length → exec (.prgResponse stk prgi 0) s = .next s)
        ∧ (∃ t, exec (.prgResponse stk prgi 0xF) s = .next t ∧ (t.stack stk).hwaitq = [] ∧ (t.stack stk).priStopped = true
          ∧ ∀ g ∈ (s.stack stk).hwaitq, EndsInHostPage s t g)
        ∧ (∀ code, code ≠ 0 → code ≠ 0xF → ∃ t, exec (.prgResponse stk prgi code) s = .next t
          ∧ (t.stack stk).hwaitq.length + 1 = (s.stack stk).hwaitq.length ∧ EndsInHostPage s t h)
        ∧ (h.asked + 4000000000 ≤ s.podTime (stk / 4) → List.Pairwise (· < ·) (s.stack stk).latePrgi →
          ∃ t, exec (.prgResponseTimeout stk prgi) s = .next t ∧ (t.stack stk).hwaitq.length + 1 = (s.stack stk).hwaitq.length
            ∧ (t.stack stk).latePrgi.has prgi = true ∧ EndsInHostPage s t h)))
    ∧ ∃ t, exec (.priStoppedClear stk) s = .next t ∧ t.stack stk = { s.stack stk with priStopped := false } ∧ MemorySame s t ∧ ThreadsSame s t

/-- R41: an answer of the host ends its read, and the port logs an error. It reaches the instruction that waits for it; or its load: the
old value of an AtomicOp, a piece, or a whole line, with which the load goes on once nothing is missing; or the line that a store waits
for. An answer that nothing waits for ends. -/
def HostReadsComplete : Prop :=
  ∀ (s : State) (stk i : Nat) (data : List Byte) (bad : Bool) (h : HostRd), (s.stack stk).hreads[i]? = some h →
    let log := (s.stack stk).portLog ++ (if bad then [(s.podTime (stk / 4), h.tag)] else [])
    let rest := (s.stack stk).hreads.eraseIdx i
    let more : Prop := ∃ x ∈ rest, x.thr = h.thr ∧ x.seq = h.seq
    (∃ t, exec (.hostReadCompletion stk i data bad) s = .next t ∧ (t.stack stk).portLog = log ∧ (t.stack stk).hreads = rest
      ∧ OthersSame s t h.thr)
    ∧ (h.thr ≠ noThread → h.seq = 0 → ∃ t, exec (.hostReadCompletion stk i data bad) s = .next t
      ∧ (t.thread h.thr).hgot = (s.thread h.thr).hgot ++ [(h.piece, bad, data)] ∧ OnlyScalars (s.thread h.thr) (t.thread h.thr) ∧ MemorySame s t)
    ∧ (∀ e, h.thr ≠ noThread → h.seq ≠ 0 → (s.thread h.thr).loadq.find? (fun x => x.seq == h.seq) = some e →
      (∀ fn wide x y, e.kind = .amo fn wide x y → ∃ t x, exec (.hostReadCompletion stk i data bad) s = .next t ∧ x ∈ (t.thread h.thr).loadq
          ∧ x.seq = h.seq ∧ x.phase = .bound ∧ x.data = data ∧ MemorySame s t)
      ∧ ((∀ fn wide x y, e.kind ≠ .amo fn wide x y) → e.phase = .host → ∃ t x, exec (.hostReadCompletion stk i data bad) s = .next t
          ∧ x ∈ (t.thread h.thr).loadq ∧ x.seq = h.seq ∧ (¬more → x.phase = .queued) ∧ (more → x.phase = .host)
          ∧ x.got = e.got ++ (if h.piece < 2 ^ 60 then [(h.piece, bad, data)] else []) ∧ (h.piece < 2 ^ 60 → MemorySame s t)))
    ∧ ∀ e, h.thr ≠ noThread → h.seq ≠ 0 → (s.thread h.thr).loadq.find? (fun x => x.seq == h.seq) = none →
      e ∈ (s.core (h.thr / 8)).sb → e.seq = h.seq → e.phase = .filling →
      ∃ t x, exec (.hostReadCompletion stk i data bad) s = .next t ∧ x ∈ (t.core (h.thr / 8)).sb ∧ x.seq = h.seq
        ∧ (¬more → x = { e with phase := .sent }) ∧ (more → x = e)

/-- The ITags of waiting invalidations, oldest first. -/
def tagsOf (l : List HostInv) : List Nat := l.map (·.itag)

/-- A far line of a host address that the spans of an invalidation reach is pinned. -/
def spanPinned (s : State) (stk : Nat) (spans : List (Nat × Nat)) : Bool := s.farPinned stk fun l _ => (s.linesIn stk spans).contains l

/-- R43, R44, R76: an invalidation of the host takes its entries out of the ATC, asks what it covers again, and waits behind the others; its
completion leaves when nothing under the old epoch is left. Each first waits for a pinned line that it drops, and a 33rd or a second of
one ITag waits. No thread sees it. -/
def HostInvalidations : Prop :=
  (∀ (s : State) (stk itag pasid ua size : Nat), (32 ≤ (s.stack stk).hinvs.length ∨ ∃ h ∈ (s.stack stk).hinvs, h.itag = itag) →
    exec (.atsInvalidateRequest stk itag pasid ua size) s = .next s)
  ∧ (∀ (s : State) (stk itag pasid ua size : Nat), (s.stack stk).hinvs.length < 32 → (∀ h ∈ (s.stack stk).hinvs, h.itag ≠ itag) →
    let spans := ((s.stack stk).atc.filter fun e => e.pasid == pasid && decide (e.ua < ua + size) && decide (ua < e.ua + e.size)).map AtcEnt.span
    (spanPinned s stk spans = true → exec (.atsInvalidateRequest stk itag pasid ua size) s = .next s)
    ∧ (spanPinned s stk spans = false → ∃ t, exec (.atsInvalidateRequest stk itag pasid ua size) s = .next t
      ∧ (∀ e ∈ (t.stack stk).atc, e ∈ (s.stack stk).atc ∧ ¬inRange pasid ua size e)
      ∧ (∀ e ∈ (s.stack stk).atc, ¬inRange pasid ua size e → e ∈ (t.stack stk).atc)
      ∧ tagsOf (t.stack stk).hinvs = tagsOf (s.stack stk).hinvs ++ [itag]
      ∧ (∀ (n : Nat) (h : HostReq), (s.stack stk).hreqs[n]? = some h → h.pasid = pasid → h.ua < ua + size → ua < h.ua + 4096 →
          (t.stack stk).hreqs[n]? = some { h with stale := true })
      ∧ ThreadsSame s t))
  ∧ ∀ (s : State) (stk : Nat) (h : HostInv) (rest : List HostInv), (s.stack stk).hinvs = h :: rest →
    ((s.hostBusy stk h.old = true ∨ spanPinned s stk h.spans = true) → exec (.invalidateCompletion stk) s = .next s)
    ∧ (s.hostBusy stk h.old = false → spanPinned s stk h.spans = false → ∃ t, exec (.invalidateCompletion stk) s = .next t
      ∧ t.out.getLast? = some (.invalidateCompletion h.itag) ∧ tagsOf (t.stack stk).hinvs = tagsOf rest ∧ ThreadsSame s t)

/-- R27, R31: a free walker takes the oldest waiting miss; a walk that ends serves every joined thread, with the leaf in the TLBs or with its
fault; one that an invalidation has overtaken runs again; one whose table lies in memory that nobody may read yet waits (R172, R184). -/
def Walks : Prop :=
  (∀ (s : State) (stk : Nat) (w : Walk) (rest : List Walk), (s.stack stk).walkq = w :: rest →
    ((s.stack stk).walks.length < 64 → ∃ t, exec (.walkerStart stk) s = .next t ∧ (t.stack stk).walkq = rest
      ∧ (t.stack stk).walks = (s.stack stk).walks ++ [{ w with started := true }] ∧ MemorySame s t ∧ ThreadsSame s t)
    ∧ (64 ≤ (s.stack stk).walks.length → exec (.walkerStart stk) s = .next s))
  ∧ ∀ (s s1 : State) (stk i : Nat) (w : Walk), (s.stack stk).walks[i]? = some w →
    (s.walkHeld stk w.dike (w.vpn * 2 ^ 16) = true → exec (.walkComplete stk i) s = .next s)
    ∧ (s.walkHeld stk w.dike (w.vpn * 2 ^ 16) = false →
      (w.redo = true → ∃ t, exec (.walkComplete stk i) s = .next t ∧ (t.stack stk).walks[i]? = some { w with redo := false } ∧ ThreadsSame s t)
      ∧ (∀ lf pte, w.redo = false → s.walkNow stk w.dike (w.vpn * 2 ^ 16) = (.leaf lf pte, s1) →
        ∃ t, exec (.walkComplete stk i) s = .next t ∧ (t.stack stk).walks = (s.stack stk).walks.eraseIdx i
          ∧ (∀ k ∈ w.thrs, (t.thread k).xfault = some (w.vpn, { cause := 0, addr := 0 })) ∧ (∀ k, k ∉ w.thrs → t.thread k = s.thread k)
          ∧ (∀ p ∈ w.polders, (s.polder p).dike = w.dike → ∃ e, e ∈ (t.polder p).tlb ∧ e.dike = w.dike ∧ e.leaf = lf) ∧ MemorySame s1 t)
      ∧ (∀ c err, w.redo = false → s.walkNow stk w.dike (w.vpn * 2 ^ 16) = (.fault c err, s1) →
        ∃ t, exec (.walkComplete stk i) s = .next t ∧ (t.stack stk).walks = (s.stack stk).walks.eraseIdx i
          ∧ (∀ k ∈ w.thrs, (t.thread k).xfault = some (w.vpn, { cause := c, addr := 0 })) ∧ (∀ k, k ∉ w.thrs → t.thread k = s.thread k)
          ∧ MemorySame s1 t))

/-- R30: an invalidation at a polder drops what it covers and flips the epoch; once no access of the old epoch is left the polder reports. -/
def PolderInvalidations : Prop :=
  ∀ (s : State) (pol : Nat) (v : PolderInv) (rest : List PolderInv), (s.polder pol).invs = v :: rest →
    (v.started = false → ∃ t, exec (.polderInvalidation pol) s = .next t ∧ (t.polder pol).epoch = !(s.polder pol).epoch
      ∧ (t.polder pol).invs = { v with started := true, old := (s.polder pol).epoch } :: rest
      ∧ (∀ e ∈ (t.polder pol).tlb, e ∈ (s.polder pol).tlb ∧ ¬(e.dike = v.dike ∧ e.vpn * 2 ^ e.leaf.size < v.lo + v.hi
          ∧ v.lo < (e.vpn + 1) * 2 ^ e.leaf.size)) ∧ MemorySame s t ∧ ThreadsSame s t)
    ∧ (v.started = true → s.polderBusy pol v.old = true → exec (.epochDrained pol) s = .next s)
    ∧ (v.started = true → s.polderBusy pol v.old = false → ∃ t, exec (.epochDrained pol) s = .next t ∧ (t.polder pol).invs = rest
      ∧ (∀ stk l, (s.stack stk).tlbis.find? v.id = some l → (t.stack stk).tlbis.find? v.id = some (l.erase pol))
      ∧ MemorySame s t ∧ ThreadsSame s t)

end Sys2Proof.Claims

/-! ## Host translation, walks and invalidations (chapters 01 and 02) -/

/-- R35, R36, R39, R41, R43, R44: what the host's messages do at a stack's port. -/
def Obligations.HostMessagesAreServed : Prop := TranslationsComplete ∧ PageResponses ∧ HostReadsComplete ∧ HostInvalidations

/-- R27, R30, R31: walks and the invalidations of polders. -/
def Obligations.WalksAndInvalidationsEnd : Prop := Walks ∧ PolderInvalidations

namespace Sys2Proof.Claims

/-- Memory of a stack that a wipe has reached: zero, without poison of its own, and full. -/
def Wiped (t : State) (pa : Nat) : Prop := t.byte pa = 0 ∧ t.poison.has (granule pa) = false ∧ t.wordFull pa = true

/-- R184, R186: a cold reset empties a stack's slots and begins the wipe, which clears the memories in two stages: the smaller ones, with
stage-one service, and then DRAM; training then gives full service, with the channels that failed it failed. Each stage follows the one
before it and no other. -/
def ResetAndWipe : Prop :=
  (∀ (s : State) (stk : Nat), ∃ t, exec (.coldReset stk) s = .next t ∧ (∀ k, k / 2 ^ 19 = stk → t.thread k = Thread.none)
    ∧ (∀ k, stkOfCore k = stk → t.core k = Core.reset) ∧ (∀ k, stkOfSlice k = stk → t.slice k = Slice.reset)
    ∧ (t.stack stk).wiping = 1 ∧ (t.stack stk).service = 0 ∧ (t.stack stk).life = (s.stack stk).life
    ∧ (t.stack stk).trust = (s.stack stk).trust ∧ (∀ k, k ≠ stk → t.stack k = s.stack k) ∧ (∀ a, t.byte a = s.byte a)
    ∧ (SMap.wf s.threads = true → ∀ k, k / 2 ^ 19 ≠ stk → t.thread k = s.thread k))
  ∧ (∀ (s : State) (stk : Nat),
    ((s.stack stk).wiping = 1 → ∃ t, exec (.sramWipeDone stk) s = .next t ∧ (t.stack stk).wiping = 2 ∧ (t.stack stk).service = 1
      ∧ (∀ pa, stkOfPa pa = stk → region pa ≠ .dram → Wiped t pa)
      ∧ (SMap.wf s.mem = true → ∀ pa, (stkOfPa pa ≠ stk ∨ region pa = .dram) → t.byte pa = s.byte pa) ∧ ThreadsSame s t)
    ∧ ((s.stack stk).wiping = 2 → ∃ t, exec (.dramWipeDone stk) s = .next t ∧ (t.stack stk).wiping = 0
      ∧ (t.stack stk).service = (s.stack stk).service ∧ (∀ pa, stkOfPa pa = stk → region pa = .dram → Wiped t pa)
      ∧ (SMap.wf s.mem = true → ∀ pa, (stkOfPa pa ≠ stk ∨ region pa ≠ .dram) → t.byte pa = s.byte pa) ∧ ThreadsSame s t)
    ∧ ((s.stack stk).wiping ≠ 1 → exec (.sramWipeDone stk) s = .next s) ∧ ((s.stack stk).wiping ≠ 2 → exec (.dramWipeDone stk) s = .next s))
  ∧ ∀ (s : State) (stk : Nat) (failed : List Nat),
    ((s.stack stk).service = 1 → (s.stack stk).wiping = 0 → ∃ t, exec (.trainingComplete stk failed) s = .next t ∧ (t.stack stk).service = 2
      ∧ (∀ n ∈ failed, n < 160 → (t.slice (stk * 256 + n)).chan.failed = true)
      ∧ (∀ n, n ∉ failed → (t.slice (stk * 256 + n)).chan.failed = (s.slice (stk * 256 + n)).chan.failed)
      ∧ (∀ a, t.byte a = s.byte a) ∧ ThreadsSame s t)
    ∧ (((s.stack stk).service ≠ 1 ∨ (s.stack stk).wiping ≠ 0) → exec (.trainingComplete stk failed) s = .next s)

/-- R185, R89, R102: a signed life-cycle command that R185 allows sets the state, destroys the keys of the stack's links and of the Ethernet
ports at its sluices, has a new attestation key and begins a wipe; any other is refused and noted, and changes nothing else. -/
def LifeCycle : Prop :=
  ∀ (s : State) (stk dst : Nat) (signed service : Bool), let src := (s.stack stk).life
    let allowed : Prop := signed = true ∧ ((src = 0 ∧ dst = 1) ∨ (src = 1 ∧ dst = 2) ∨ (src = 2 ∧ dst = 1) ∨ (src = 1 ∧ dst = 3) ∨ (src = 2 ∧ dst = 3)
      ∨ (src = 3 ∧ dst = 0 ∧ service = true))
    (allowed → ∃ t, exec (.lifeCycleCommand stk dst signed service) s = .next t ∧ (t.stack stk).life = dst ∧ (t.stack stk).wiping = 1
      ∧ (t.stack stk).service = 0 ∧ (t.stack stk).attestKey = Config.attestation stk dst ∧ (∀ k, k / 2 ^ 19 = stk → t.thread k = Thread.none)
      ∧ (∀ i ∈ portsOfStack stk, ∀ q, (t.package (stk / 4)).ports.find? i = some q → q.txKeys = [] ∧ q.rxKeys = [])
      ∧ ∀ port e, e < 4 → sluiceTo stk e = .ethernet (port / 2 * 2) → (t.package (stk / 4)).ether.find? port = none)
    ∧ (¬allowed → ∃ t, exec (.lifeCycleCommand stk dst signed service) s = .next t
      ∧ t.stack stk = { s.stack stk with lifeLog := (s.stack stk).lifeLog ++ [dst] } ∧ MemorySame s t ∧ ThreadsSame s t)

/-- R4, R14, R15, R32, R33, R38, R47, R102, R175, R216, R430: the governor's sample changes its shares alone; management writes reach the records
that they name, and the tail of a fault queue is not written; flags [0] of a dike record written with 1 lets dispatch go on, and written with
0 where no polder is the dike's it leaves no suspended copy of the dike (which write that is, is the model's choice, log 112); an allocation
of page requests lets waiting ones go, as far as it reaches; a phase opens in its job. -/
def Management : Prop :=
  (∀ (s : State) (stk : Nat), ∃ t g, exec (.powerGovernorSample stk) s = .next t ∧ t.stack stk = { s.stack stk with gov := g }
    ∧ MemorySame s t ∧ ThreadsSame s t ∧ ∀ k, t.core k = s.core k)
  ∧ (∀ (s : State) (stk q o : Nat) (b : Byte), q < 1024 → o < 32 → ∃ t, exec (.managementRegisterWrite stk (.bar0 (0x100000 + 32 * q + o) [b])) s = .next t
      ∧ (SMap.wf (s.stack stk).wq = true → (t.stack stk).queue q o 1 = b.toNat))
  ∧ (∀ (s : State) (stk d o : Nat) (b : Byte), d < 65536 → o < 256 → SMap.wf (s.stack stk).drec = true →
      List.Pairwise (· < ·) (s.stack stk).dikeStopped →
      ∃ t, exec (.managementRegisterWrite stk (.control (0xF4000000000 + 256 * d + o) [b])) s = .next t ∧ ThreadsSame s t
        ∧ ((o = 2 → b.getLsbD 0 = true ∨ ∃ p ∈ s.dikePolders d, stkOfPol p = stk) → MemorySame s t)
        ∧ (o = 2 → b.getLsbD 0 = false → (∀ p ∈ s.dikePolders d, stkOfPol p ≠ stk) →
            ∀ core, core < 2 ^ 40 → stkOfCore core = stk → SMap.wf s.jobs = true → t.jobs.find? (savedCoreKey d core) = none)
        ∧ (o ≠ 42 → o ≠ 43 → o ≠ 47 → (t.stack stk).dike d o 1 = b.toNat)
        ∧ ((o = 42 ∨ o = 43) → (t.stack stk).dike d o 1 = (s.stack stk).dike d o 1)
        ∧ (o = 2 → b.getLsbD 0 = true → d ∉ (t.stack stk).dikeStopped))
  ∧ (∀ (s : State) (stk n chan hours port key d ph : Nat) (on : Bool), chan < 160 → 1 ≤ hours → hours ≤ 168 → port < 4 → d < 65536 → ph < 16 →
      (∃ t, exec (.managementRegisterWrite stk (.priAllocation n)) s = .next t ∧ (t.stack stk).priAlloc = min n 512
        ∧ (t.stack stk).pagesOut ≤ max (s.stack stk).pagesOut (min n 512)
        ∧ (min n 512 ≤ (t.stack stk).pagesOut ∨ (∀ h ∈ (t.stack stk).hwaitq, h.sent = true) ∨ (t.stack stk).freePrgi = none)
        ∧ MemorySame s t ∧ ThreadsSame s t)
      ∧ (∃ t, exec (.managementRegisterWrite stk (.timeRoot on)) s = .next t ∧ t.package (stk / 4) = { s.package (stk / 4) with root := on })
      ∧ (∃ t, exec (.managementRegisterWrite stk (.scrub chan hours on)) s = .next t
        ∧ (t.slice (stk * 256 + chan)).chan = { (s.slice (stk * 256 + chan)).chan with scrubHours := hours, scrubOn := on })
      ∧ (∃ t, exec (.managementRegisterWrite stk (.macsec port key)) s = .next t
        ∧ (t.package (stk / 4)).ether.find? port = some (key % 2 ^ 256))
      ∧ (s.levels.find? (phaseKey d ph) = none → ∃ t, exec (.managementRegisterWrite stk (.phase d ph false)) s = .next t
        ∧ t.level (phaseKey d ph) = LevelSt.none ∧ (t.level (jobKey d)).live = (s.level (jobKey d)).live + 1))
  ∧ ∀ (s : State) (stk d : Nat), SMap.wf (s.stack stk).drec = true → List.Pairwise (· < ·) (s.stack stk).dikeStopped →
      ∃ t, exec (.dikeRecordRevalidate stk d) s = .next t ∧ (t.stack stk).dike d 2 1 % 2 = 1 ∧ d ∉ (t.stack stk).dikeStopped
        ∧ (∀ k, k ≠ d → (k ∈ (t.stack stk).dikeStopped ↔ k ∈ (s.stack stk).dikeStopped)) ∧ MemorySame s t ∧ ThreadsSame s t

/-- R172 to R175: an attempt that passes clears the counts; three failing attempts in a row on one lane put the lowest spare lane in its place
and hold the channel until the swap is done; a fourth failing attempt poisons every sector of what a read brought, in the home line where it
is held and for the read that meets it otherwise, and stores the pattern in the sector of a write. The patrol scrubber takes the sectors
of its channel in order, begins again at the end, and changes no memory where nothing is wrong. -/
def Channels : Prop :=
  (∀ (s : State) (pa agent ep lane : Nat) (write : Bool), let sl := proxyDev (stkOfPa pa) pa; let c := (s.slice sl).chan
    region pa = .dram → c.failed = false → c.fails = [] → c.swaps = [] →
    (∃ t, exec (.vbusParityFailure ⟨pa, agent, ep, write⟩ [some lane, some lane]) s = .next t ∧ (t.slice sl).chan.fails = []
      ∧ (t.slice sl).chan.swaps = [] ∧ (t.slice sl).chan.holding = c.holding ∧ MemorySame s t ∧ ThreadsSame s t)
    ∧ (∃ t, exec (.vbusParityFailure ⟨pa, agent, ep, write⟩ [some lane, some lane, some lane]) s = .next t
      ∧ (t.slice sl).chan.swaps = [(lane, 136)] ∧ (t.slice sl).chan.holding = true ∧ MemorySame s t ∧ ThreadsSame s t)
    ∧ ∃ t, exec (.vbusParityFailure ⟨pa, agent, ep, write⟩ [none, none, none, none]) s = .next t ∧ (∀ a, t.byte a = s.byte a) ∧ ThreadsSame s t
      ∧ (write = true → t.poison.has (granule pa) = true)
      ∧ (write = false → ∀ j < 2,
          ((s.homeLine? pa).isSome = true → ∃ l, t.homeLine? pa = some l ∧ l.bad (32 * j) = true)
          ∧ (s.homeLine? pa = none →
              ({ kind := .lost, addr := pa / 64 * 64 + 32 * j, sel := 0, injected := false } : Upset) ∈ (t.stack (stkOfPa pa)).upsets)))
  ∧ (∀ (s : State) (sl : Nat), ∃ t, exec (.laneSwapDone sl) s = .next t ∧ (t.slice sl).chan = { (s.slice sl).chan with holding := false }
    ∧ MemorySame s t ∧ ThreadsSame s t)
  ∧ ∀ (s : State) (sl : Nat), let c := (s.slice sl).chan; let pa := sectorAddr sl c.scrubAt
    ((c.scrubOn = false ∨ c.failed = true ∨ c.holding = true ∨ (s.stack (stkOfSlice sl)).wiping ≠ 0) → exec (.patrolScrub sl) s = .next s)
    ∧ (c.scrubOn = true → c.failed = false → c.holding = false → (s.stack (stkOfSlice sl)).wiping = 0 →
      (region pa ≠ .dram → ∃ t, exec (.patrolScrub sl) s = .next t ∧ (t.slice sl).chan = { c with scrubAt := 0 } ∧ MemorySame s t ∧ ThreadsSame s t)
      ∧ (region pa = .dram → proxyDev (stkOfPa pa) pa = sl → s.poison.has pa = false → (s.stack (stkOfPa pa)).upsets = [] →
        (s.stack (stkOfPa pa)).injctl.getLsbD 63 = false →
        ∃ t, exec (.patrolScrub sl) s = .next t ∧ (t.slice sl).chan = { c with scrubAt := c.scrubAt + 1, fails := [] } ∧ MemorySame s t
          ∧ ThreadsSame s t))

/-- R193, R194, R434: a core whose slots are all parked or empty stops its clock, and the timer takes it no deeper than `c.sleep` allows; a wake
starts it; a twin pair that disagrees is killed, and one that agrees goes on. -/
def SleepAndTwins : Prop :=
  (∀ (s : State) (core : Nat),
    ((s.core core).gated = none → (∀ i < 8, (s.thread (core * 8 + i)).idles = true) →
      ∃ t, exec (.sleepDepthTimer core) s = .next t ∧ (t.core core).gated = some 0 ∧ ThreadsSame s t)
    ∧ (∀ i < 8, (s.core core).gated = none → (s.thread (core * 8 + i)).idles = false → exec (.sleepDepthTimer core) s = .next s)
    ∧ (∀ d, (s.core core).gated = some d → (d < (s.core core).depth.toNat → ∃ t, exec (.sleepDepthTimer core) s = .next t
          ∧ (t.core core).gated = some (d + 1) ∧ ThreadsSame s t)
        ∧ ((s.core core).depth.toNat ≤ d → exec (.sleepDepthTimer core) s = .next s))
    ∧ ∃ t, exec (.coreWake core) s = .next t ∧ t.core core = { s.core core with gated := none } ∧ MemorySame s t ∧ ThreadsSame s t)
  ∧ ∀ (s : State) (ep : Nat) (mismatch : Bool), let r := s.thread (thrOf ep)
    (r.live = true → r.twin = true → mismatch = true → ∃ t, exec (.twinSignatureCheck ep mismatch) s = .next t
      ∧ t.thread (thrOf ep) = Thread.none)
    ∧ ((r.live = false ∨ r.twin = false ∨ mismatch = false) → exec (.twinSignatureCheck ep mismatch) s = .next s)

/-- R188, R193, R195 to R199, R177, R432: the turns that the agenda gives to a pair, a register bank, a memory and the stack controller. The
leading copy of a pair waits where its effects or a trap stand at the comparator, and where it would put a seventeenth value into the
queue; otherwise what it issues stands ahead of the trailing copy. The trailing copy issues what the leading one has, and, level with it,
what waits at the comparator, once for both; a pair whose copies differ is killed, and so is a thread whose bank has failed. A
system thread goes into an empty slot 7; an error waits for the read that meets it. (The turns are the model's, logs 1, 48 and 107.) -/
def TurnsOfUnits : Prop :=
  ∀ (s : State) (ep : Nat) (rest : List Turn), let thr := thrOf ep; let r := s.thread thr; let s0 : State := { s with agenda := rest }
    (r.live = true → r.twin = true → ∀ t i, issue s0 ep = (i, .next t) → let ahead := t.thread thr
      (s.agenda = .issue ep :: rest →
        (compared i s0 t ep = true → step s = .next s0.tick)
        ∧ (compared i s0 t ep = false → queued i s0 t ep = true → r.lvq.sum = 16 → step s = .next s0.tick)
        ∧ (compared i s0 t ep = false → (queued i s0 t ep = false ∨ r.lvq.sum ≠ 16) → ∃ u, step s = .next u ∧ OthersSame t u thr ∧ MemorySame t u
          ∧ u.thread thr = if i.isSome = true ∧ (ahead.pc ≠ r.pc ∨ ahead.wait = .no) then
              { ahead with lvq := ahead.lvq ++ [if queued i s0 t ep then 1 else 0] } else ahead))
      ∧ ∀ differs, s.agenda = .trail ep differs :: rest →
        (∀ x l, r.lvq = x :: l → ∃ u, step s = .next u ∧ u.thread thr = { r with lvq := l } ∧ OthersSame s u thr ∧ MemorySame s u)
        ∧ (r.lvq = [] → compared i s0 t ep = true → differs = false → step s = .next t.tick)
        ∧ (r.lvq = [] → compared i s0 t ep = true → differs = true → ∃ u, step s = .next u ∧ u.thread thr = Thread.none)
        ∧ (r.lvq = [] → compared i s0 t ep = false → step s = .next s0.tick))
    ∧ (s.agenda = .bank ep :: rest → (r.live = true → ∃ u, step s = .next u ∧ u.thread thr = Thread.none)
      ∧ (r.live = false → step s = .next s0.tick))
    ∧ (∀ digest, s.agenda = .system ep digest :: rest →
      (slotNo ep = 7 → r.live = false → s.epWf ep = true → ∃ u, step s = .next u
        ∧ u.thread thr = { Thread.none with live := true, digest := digest, prog := .start } ∧ (u.core (coreOf ep)).gated = none
        ∧ OthersSame s u thr ∧ MemorySame s u)
      ∧ ((slotNo ep ≠ 7 ∨ r.live = true ∨ s.epWf ep = false) → step s = .next s0.tick))
    ∧ ∀ stk u, s.agenda = .upset stk u :: rest → ∃ t, step s = .next t ∧ t.stack stk = { s.stack stk with upsets := (s.stack stk).upsets ++ [u] }
      ∧ ThreadsSame s t ∧ MemorySame s t

/-- R431: a sample in which no set is deadlocked resets every count; one set that is deadlocked counts one more below 64. -/
def DeadlockSamples : Prop :=
  ∀ (s : State) (pol m : Nat),
    ((∀ x ∈ s.cycles pol, s.deadSet pol x = false) → ∃ t, exec (.channelDeadlockSample pol) s = .next t ∧ (t.polder pol).dead = []
      ∧ MemorySame s t ∧ ThreadsSame s t)
    ∧ (s.cycles pol = [m] → s.deadSet pol m = true → (s.polder pol).dead.getD m 0 < 63 → ∃ t, exec (.channelDeadlockSample pol) s = .next t
      ∧ (t.polder pol).dead.find? m = some ((s.polder pol).dead.getD m 0 + 1) ∧ MemorySame s t ∧ ThreadsSame s t)

/-- R423, R427: the control block kills or pre-empts the live thread that a write names, in slots 0 to 6 of its own polder, and nothing
otherwise; a context of the cache goes into a slot that takes work, its own where it is held to it, with every register it had, the
dike's `c.tvec`, and in another polder than its own without its image. -/
def ControlBlock : Prop :=
  (∀ (s : State) (pol ep cause : Nat),
    (s.named pol ep = true → (∃ t, exec (.polderKillWrite pol ep cause) s = .next t ∧ t.thread (thrOf ep) = Thread.none)
      ∧ ∃ t, exec (.polderSwapWrite pol ep) s = .next t ∧ t.thread (thrOf ep) = { s.thread (thrOf ep) with swap := true }
        ∧ MemorySame s t ∧ OthersSame s t (thrOf ep))
    ∧ (s.named pol ep = false → exec (.polderKillWrite pol ep cause) s = .next s ∧ exec (.polderSwapWrite pol ep) s = .next s))
  ∧ (∀ (s : State) (pol ep idx : Nat), (s.polder pol).tcache[idx]? = none → exec (.polderResumeWrite pol ep idx) s = .next s)
  ∧ ∀ (s : State) (pol ep idx : Nat) (x : Saved), (s.polder pol).tcache[idx]? = some x →
    let place : Prop := polOf ep = pol ∧ ep % 2 = 0 ∧ s.takesWork ep = true ∧ (if s.tied x = true then x.ep = ep else slotNo ep < 6)
    (¬place → exec (.polderResumeWrite pol ep idx) s = .next s)
    ∧ (place → x.thr.withdrawn = none → ∃ t, exec (.polderResumeWrite pol ep idx) s = .next t
      ∧ (t.polder pol).tcache = (s.polder pol).tcache.erase x ∧ OthersSame s t (thrOf ep)
      ∧ let base := { x.thr with tvec := BitVec.ofNat 64 ((s.stack (stkOf ep)).dike x.dike 16 8) }
        t.thread (thrOf ep) = if polOf ep = polOf x.ep then base
          else { base with img := 16, was := x.thr.efnSlot, runs := x.thr.runs.map fun r => (r.1, 16) })

/-- R428, R429: an entry that arrives takes one of the inbox's 16 places or one of the ring's; a pop takes the oldest, of the ring when the
inbox is empty, and a fill that it carries reaches a register owed to it, at the end of a handler run where one is under way, or is
counted; pending entries enter when there is room. -/
def Inboxes : Prop :=
  (∀ (s : State) (pol : Nat) (e : InboxEnt) (rest : List InboxEnt), (s.polder pol).arriving = e :: rest → (s.polder pol).pend = [] →
    let ovf := (s.stack (stkOfPol pol)).ovf
    (s.inRing pol = false → (s.polder pol).inbox.length < 16 → ∃ t, exec (.inboxEntryArrival pol) s = .next t
      ∧ (t.polder pol).arriving = rest ∧ (t.polder pol).inbox = (s.polder pol).inbox ++ [e] ∧ MemorySame s t)
    ∧ ((s.inRing pol = true ∨ 16 ≤ (s.polder pol).inbox.length) → ovf.length < 4096 → ∃ t, exec (.inboxEntryArrival pol) s = .next t
      ∧ (t.polder pol).arriving = rest ∧ (t.stack (stkOfPol pol)).ovf = ovf ++ [(pol, e)] ∧ MemorySame s t))
  ∧ (∀ (s : State) (pol : Nat) (e : InboxEnt) (rest : List InboxEnt), (s.polder pol).inbox = e :: rest → (s.polder pol).pend = [] →
    (e.kind ≠ 1 → e.kind ≠ 2 → ∃ t, exec (.inboxPop pol) s = .next t ∧ (t.polder pol).inbox = rest ∧ MemorySame s t ∧ ThreadsSame s t)
    ∧ ((e.kind = 1 ∨ e.kind = 2) → s.popPinned pol e = true → exec (.inboxPop pol) s = .next s)
    ∧ ((e.kind = 1 ∨ e.kind = 2) → s.popPinned pol e = false → let r := s.thread (thrOf e.ep)
      ∃ t, exec (.inboxPop pol) s = .next t ∧ (polOf e.ep = pol → (t.polder pol).inbox = rest) ∧ OthersSame s t (thrOf e.ep)
        ∧ (e.cross = false → MemorySame s t)
        ∧ (r.live = true → r.awaits e.fill = true →
            (r.level = 0 → r.escal = none → t.thread (thrOf e.ep) = r.fill e.fill)
            ∧ ((r.level ≠ 0 ∨ r.escal.isSome = true) → t.thread (thrOf e.ep) = { r with deferred := r.deferred ++ [e.fill] }))
        ∧ ((r.live = false ∨ r.awaits e.fill = false) → polOf e.ep = pol → (s.polder pol).tcache = [] → (s.stack (stkOf e.ep)).saved = [] →
            (s.polder pol).undeliverable < 2 ^ 64 - 1 → (t.polder pol).undeliverable = (s.polder pol).undeliverable + 1)
        ∧ (r.live = true → e.kind = 1 → 0 < e.desig → e.desig < 32 → e.load = false → r.stOf (.s e.desig) = .owed .cont → r.level = 0 →
            r.escal = none → SMap.wf r.s = true →
            (t.thread (thrOf e.ep)).sreg e.desig = { st := .full, val := e.val, mark := e.mark })))
  ∧ (∀ (s : State) (pol : Nat) (x : Nat × InboxEnt), (s.polder pol).inbox = [] → (s.polder pol).pend = [] →
    (s.stack (stkOfPol pol)).ovf.find? (fun y => y.1 == pol) = some x → x.2.kind ≠ 1 → x.2.kind ≠ 2 → ∃ t, exec (.inboxPop pol) s = .next t
      ∧ (t.stack (stkOfPol pol)).ovf = (s.stack (stkOfPol pol)).ovf.erase x ∧ MemorySame s t ∧ ThreadsSame s t)
  ∧ ∀ (s : State) (pol : Nat) (e : InboxEnt), (s.polder pol).pend = [e] → s.inRing pol = false → (s.polder pol).inbox.length < 16 →
    ∃ t, exec (.pendingInboxWrite pol) s = .next t ∧ (t.polder pol).pend = [] ∧ (t.polder pol).inbox = (s.polder pol).inbox ++ [e]

/-- R33, R399, R400: an append of 64 bytes to an enabled queue with room is stored at the tail and completes with success; to a full queue it
asks for a retry, to a disabled one it is aborted, and any other write to BAR2 is unsupported. -/
def Appends : Prop :=
  (∀ (s : State) (stk q size : Nat) (data : List Byte), q < 1024 → data.length = 64 → (s.stack stk).launchRing q = some size →
    let k := s.stack stk
    let tail := k.queue q 14 2
    let pa := k.queue q 0 8 + 64 * tail
    ((tail + 1) % size ≠ k.queue q 12 2 → SMap.wf s.mem = true → SMap.wf k.wq = true → noFar s stk →
      (∀ j < 64, stkOfPa (pa + j) = stk ∧ writable s (pa + j)) →
      ∃ t, exec (.hostAppend stk q 0 data) s = .next t ∧ t.out.getLast? = some (.completion 0) ∧ t.bytes pa 64 = data ∧ BytesBut s t pa 64
        ∧ (t.stack stk).queue q 14 2 = (tail + 1) % size ∧ ThreadsSame s t)
    ∧ ((tail + 1) % size = k.queue q 12 2 → exec (.hostAppend stk q 0 data) s = .next (s.emit (.completion 2))))
  ∧ (∀ (s : State) (stk q off : Nat) (data : List Byte),
    ((off ≠ 0 ∨ data.length ≠ 64 ∨ 1024 ≤ q) → exec (.hostAppend stk q off data) s = .next (s.emit (.completion 1)))
    ∧ (off = 0 → data.length = 64 → q < 1024 → (s.stack stk).launchRing q = none → exec (.hostAppend stk q off data) s = .next (s.emit (.completion 4))))
  ∧ ∀ (s : State) (stk : Nat), ∃ t, exec (.bar2PlainWrite stk) s = .next t ∧ t.out = s.out ++ [.completion 1] ∧ MemorySame s t ∧ ThreadsSame s t

/-- R401, R402, R412, R186: a well-formed record of a queue whose stack and dike serve becomes a launch with its root task in the ready
queue, and the head moves on; it stays at the head while no TCB, or no range object that it needs, is free. A malformed one is refused
with a completion of status 2. In stage-one service a dike without a page table serves. -/
def LaunchesBegin : Prop :=
  ∀ (s s1 : State) (stk q size : Nat) (g : Got), let k := s.stack stk; let dike := k.queue q 10 2; let head := k.queue q 12 2
    k.launchRing q = some size → head ≠ k.queue q 14 2 → k.service ≠ 0 → k.dikeValid dike = true → k.dikeStopped.has dike = false →
    s.readRun stk none (k.queue q 0 8 + 64 * head) 64 true true 3 0 = (g, s1) → SMap.wf k.wq = true → let r := launchRec g.data
    (r.ok = false → ∃ t c, exec (.launchRecordRead stk q) s = .next t ∧ (t.stack stk).comps = (s1.stack stk).comps ++ [c]
      ∧ c.status = 2 ∧ c.queue = q ∧ c.ltag = r.ltag ∧ (t.stack stk).queue q 12 2 = (head + 1) % size
      ∧ (t.stack stk).queue q 9 1 / 2 % 2 = 1 ∧ t.launches = s.launches ∧ ThreadsSame s t)
    ∧ (r.ok = true → (k.service = 2 ∨ k.dike dike 8 8 = 0) →
      (∀ s2, s1.tcbFree stk dike = (none, s2) → exec (.launchRecordRead stk q) s = .next s1)
      ∧ ∀ h s2, s1.tcbFree stk dike = (some h, s2) →
        (r.count ≠ 0 → s2.freeRangeObj stk dike = none → exec (.launchRecordRead stk q) s = .next s1)
        ∧ ((r.count = 0 ∨ (s2.freeRangeObj stk dike).isSome = true) → s2.cancelledAt dike 0 r.graph r.phase 2 = false →
          ∃ t l, exec (.launchRecordRead stk q) s = .next t ∧ t.launches.find? (s2.seq + 1) = some l
            ∧ t.members.find? (memberKey dike h) = some (s2.seq + 1) ∧ l.stk = stk ∧ l.dike = dike ∧ l.queue = q ∧ l.live = 1
            ∧ l.cancelled = false ∧ l.ltag = r.ltag ∧ (∃ e ∈ (t.stack stk).ready, e.dike = dike ∧ e.task = h)
            ∧ (t.stack stk).queue q 12 2 = (head + 1) % size ∧ ThreadsSame s t))

/-- R403: the oldest completion of a queue is written at the tail of its completion ring and its vector is signalled; a full ring or a
disabled one holds it back. -/
def CompletionsAreWritten : Prop :=
  ∀ (s : State) (stk q : Nat) (c : Comp), let k := s.stack stk
    k.comps.find? (fun c => c.queue == q) = some c →
    (∀ size, c.record = true → 6 ≤ k.queue q 24 1 → k.queue q 24 1 ≤ 16 → size = 2 ^ k.queue q 24 1 →
      let tail := k.queue q 28 2
      let pa := k.queue q 16 8 + 32 * tail
      ((tail + 1) % size = k.queue q 30 2 → exec (.completionRecordWrite stk q) s = .next s)
      ∧ ((tail + 1) % size ≠ k.queue q 30 2 → SMap.wf s.mem = true → SMap.wf k.wq = true → noFar s stk →
        (∀ j < 32, stkOfPa (pa + j) = stk ∧ writable s (pa + j)) →
        ∃ t, exec (.completionRecordWrite stk q) s = .next t ∧ BytesBut s t pa 32 ∧ (t.stack stk).queue q 28 2 = (tail + 1) % size
          ∧ t.num pa 8 = c.time % 2 ^ 64 ∧ t.num (pa + 8) 2 = c.ltag % 2 ^ 16 ∧ t.num (pa + 10) 1 = c.status % 2 ^ 8
          ∧ t.num (pa + 11) 1 = c.fault % 2 ^ 8 ∧ t.num (pa + 12) 4 = c.failed % 2 ^ 32 ∧ t.num (pa + 16) 4 = c.run % 2 ^ 32
          ∧ (t.stack stk).comps = k.comps.erase c ∧ (c.signal = true → t.out.getLast? = some (.msix stk c.vector)) ∧ ThreadsSame s t))
    ∧ (c.record = true → (k.queue q 24 1 < 6 ∨ 16 < k.queue q 24 1) → exec (.completionRecordWrite stk q) s = .next s)
    ∧ (c.record = false → ∃ t, exec (.completionRecordWrite stk q) s = .next t ∧ (t.stack stk).comps = k.comps.erase c
      ∧ t.out = s.out ++ (if c.signal then [.msix stk c.vector] else []) ∧ MemorySame s t ∧ ThreadsSame s t)

end Sys2Proof.Claims

/-! ## Device events (chapters 00, 01, 07, 08, 17 and 18) -/

/-- R184, R185, R186: reset, wipe, training and life cycle. -/
def Obligations.StacksAreWipedAndTrained : Prop := ResetAndWipe ∧ LifeCycle

/-- R4, R14, R15, R33, R47, R172 to R175, R193, R194, R434: management, channels, sleep and twins. -/
def Obligations.StacksAreManaged : Prop := Management ∧ Channels ∧ SleepAndTwins ∧ TurnsOfUnits

/-- R423, R427, R428, R429, R431: what system software sees of a polder. -/
def Obligations.PoldersAreControlled : Prop := ControlBlock ∧ Inboxes ∧ DeadlockSamples

/-- R400 to R403: work arrives from the host and completions go back. -/
def Obligations.WorkArrivesAndCompletes : Prop := Appends ∧ LaunchesBegin ∧ CompletionsAreWritten
namespace Sys2Proof.Claims

/-- The newest record of a stack's code log names a source and a reason (R154). -/
def Logged (t : State) (stk source reason : Nat) : Prop :=
  ∃ r, (t.stack stk).codeLog.getLast? = some r ∧ leAt r 40 1 = source % 256 ∧ leAt r 41 1 = reason % 256

/-- A fetch that is being offered images, and not checking or installing one. -/
def Asking (s : State) (pol digest : Nat) (f : Fetch) : Prop :=
  s.fetchOf pol digest = some f ∧ f.checking = none ∧ f.install = none

/-- What the source of a fetch offers, and the state after the caches that were asked have counted the use (R155, R156, R158, R186). -/
def Offered (s : State) (pol : Nat) (f : Fetch) (s1 : State) (offers : List Offer) : Prop :=
  if f.source ≤ 3 then
    (f.source = 1 ∨ (s.stack (stkOfPol pol)).service = 2) ∧ s.stackOffers (s.sourceStacks pol f.source) f = offers
      ∧ s.cachesUsed (s.sourceStacks pol f.source) f = s1
  else f.queued = true ∧ f.reply = some offers ∧ s1 = s

/-- The threads of a fetch have been told that nothing was found, and the fetch is gone (R159). -/
def Unresolved (s t : State) (pol digest : Nat) (f : Fetch) : Prop :=
  t.fetchOf pol digest = none ∧ (∀ k ∈ f.thrs, (s.thread k).live = true → (t.thread k).prog = .unresolved)
    ∧ ∀ k, k ∉ f.thrs → t.thread k = s.thread k

/-- No thread of a fetch is a stolen continuation, and no task of the ready queue wants it. -/
def PlainFetch (s : State) (f : Fetch) : Prop :=
  f.wanted = false ∧ ∀ k ∈ f.thrs, ∀ r a b c, (s.thread k).prog ≠ .stolen r a b c

/-- An image has entered a polder's code store, and the fetch has ended (R162, R163). -/
def Placed (s t : State) (pol digest : Nat) (im : Image) : Prop :=
  t.fetchOf pol digest = none ∧ (∃ slot, slot < 16 ∧ (t.polder pol).imageOf digest = some (slot, { im with lastUse := s.podTime (pol / 2 ^ 15) }))
    ∧ MemorySame s t ∧ ThreadsSame s t

/-- An image finds no place: the fetch waits with it, and what was evicted for it stays evicted (R163). -/
def Waits (s t : State) (pol digest : Nat) (f : Fetch) (im : Image) : Prop :=
  (∃ g, t.fetchOf pol digest = some g ∧ g.install = some im ∧ g.thrs = f.thrs)
    ∧ (t.polder pol).code = ((s.install pol im).2.polder pol).code ∧ MemorySame s t ∧ ThreadsSame s t

/-- No source is left after this one: it is the last, or the stack gives stage-one service (R155, R186). -/
def lastSource (s : State) (pol : Nat) (f : Fetch) : Prop := 4 ≤ f.source ∨ (s.stack (stkOfPol pol)).service ≠ 2

/-- A fetch has gone on to its next source, which passes over source 3 where there is no package to ask (R155, R438). -/
def AsksNext (s t : State) (pol digest : Nat) (f : Fetch) : Prop :=
  (∃ g, t.fetchOf pol digest = some g ∧ g.source = (if f.source = 2 ∧ s.sourceStacks pol 3 = [] then 4 else f.source + 1)
    ∧ g.thrs = f.thrs ∧ g.checking = none ∧ g.install = none) ∧ (t.polder pol).code = (s.polder pol).code ∧ MemorySame s t ∧ ThreadsSame s t

/-- R145, R153, R155, R156, R163: a source's portable image that is whole enters the polder's code store, or waits for room; one that fails a
check is refused with a record, and the next source is asked, but one that breaks R145 ends the fetch. A translation that passes the cheap
checks goes to the signature unit. A source with nothing to offer is followed by the next, the last by the end of the fetch. -/
def SourcesAnswer : Prop :=
  ∀ (s s1 : State) (pol digest : Nat) (f : Fetch), Asking s pol digest f →
    (Offered s pol f s1 [] → (¬lastSource s pol f → ∃ t, exec (.loaderSourceAnswer pol digest) s = .next t ∧ AsksNext s t pol digest f)
      ∧ (lastSource s pol f → PlainFetch s f → ∃ t, exec (.loaderSourceAnswer pol digest) s = .next t ∧ Unresolved s t pol digest f
        ∧ MemorySame s t))
    ∧ ∀ (bs : List Byte) (k : Nat) (tr : Bool), Offered s pol f s1 [(bs, tr, k)] →
      let own := s1.stack (stkOfPol pol)
      let refused (r : Nat) : Prop := (tr = false ∧ (f.tag = none ∨ f.tag = some 0) ∧ checkPortable digest bs = .error r)
        ∨ (tr = true ∧ checkNative own digest bs = .error r)
      (∀ im, tr = false → (f.tag = none ∨ f.tag = some 0) → checkPortable digest bs = .ok im → f.thrs ≠ [] → (s.polder pol).imageOf digest = none →
        ∃ t, exec (.loaderSourceAnswer pol digest) s = .next t ∧ ((s.install pol im).1 = true → Placed s t pol digest im)
          ∧ ((s.install pol im).1 = false → Waits s t pol digest f im))
      ∧ (∀ r, refused r → (tr = true ∨ r ≠ 8) → ¬lastSource s pol f → ∃ t, exec (.loaderSourceAnswer pol digest) s = .next t
        ∧ Logged t (stkOfPol pol) f.source r ∧ AsksNext s t pol digest f)
      ∧ (∀ r, refused r → ((tr = false ∧ r = 8) ∨ lastSource s pol f) → PlainFetch s f → ∃ t, exec (.loaderSourceAnswer pol digest) s = .next t
        ∧ Logged t (stkOfPol pol) f.source r ∧ Unresolved s t pol digest f ∧ MemorySame s t)
      ∧ (∀ im, tr = true → (f.tag = none ∨ f.tag = some im.tag) → checkNative own digest bs = .ok im →
        ∃ t g, exec (.loaderSourceAnswer pol digest) s = .next t ∧ t.fetchOf pol digest = some g ∧ g.checking = some (im, bs, k)
          ∧ g.thrs = f.thrs ∧ (t.polder pol).code = (s.polder pol).code ∧ MemorySame s t ∧ ThreadsSame s t)

/-- R157, R158: source 4 is asked by an entry of the dike's code queue and a signal, once the entry is free; the doorbell consumes what the
runtime has done, for the fetch that asked and no other; an offer of a length or a kind that R157 does not have leaves a reason-7 record. -/
def RuntimeIsAsked : Prop :=
  (∀ (s : State) (pol digest size : Nat) (f : Fetch), let stk := stkOfPol pol; let dike := (s.polder pol).dike; let k := s.stack stk
    let tail := k.dike dike 140 2 % size
    let pa := k.dike dike 128 8 + 128 * tail
    Asking s pol digest f → f.source = 4 → f.queued = false → k.codeRing dike = some size →
    ((∀ r ∈ k.codeReqs, r.dike = dike → r.entry ≠ tail) → noFar s stk → (∀ j < 128, stkOfPa (pa + j) = stk ∧ writable s (pa + j)) →
      SMap.wf s.mem = true →
      ∃ t g r, exec (.loaderSourceAnswer pol digest) s = .next t ∧ t.fetchOf pol digest = some g ∧ g.queued = true ∧ g.thrs = f.thrs
        ∧ (t.stack stk).codeReqs = k.codeReqs ++ [r] ∧ r.ask = g.ask ∧ r.dike = dike ∧ r.entry = tail ∧ r.pol = pol ∧ r.digest = f.digest
        ∧ t.num (pa + 8) 32 = f.digest % 2 ^ 256 ∧ t.num (pa + 40) 4 = k.model.toNat ∧ BytesBut s t pa 128
        ∧ t.out.getLast? = some (.msix stk (k.dike dike 138 2 % 2 ^ 11)) ∧ ThreadsSame s t)
    ∧ ((∃ r ∈ k.codeReqs, r.dike = dike ∧ r.entry = tail) → exec (.loaderSourceAnswer pol digest) s = .next s))
  ∧ ∀ (s s1 : State) (stk dike : Nat) (r : CodeReq) (f : Fetch) (g : Got), let k := s.stack stk
    k.codeReqs.filter (fun r => r.dike == dike) = [r] → s.fetchOf r.pol r.digest = some f →
    s.readRun stk none (k.dike dike 128 8 + 128 * r.entry) 128 true true 3 0 = (g, s1) →
    let len := leAt g.data 64 4
    let kind := leAt g.data 68 1
    let asked : Prop := f.source = 4 ∧ f.queued = true ∧ f.ask = r.ask ∧ f.reply = none
    (leAt g.data 71 1 < 128 → ∃ t, exec (.codeQueueDoorbell stk dike) s = .next t ∧ (t.stack stk).codeReqs = k.codeReqs
      ∧ t.fetchOf r.pol r.digest = some f ∧ ThreadsSame s t)
    ∧ (128 ≤ leAt g.data 71 1 →
      (¬asked → ∃ t, exec (.codeQueueDoorbell stk dike) s = .next t ∧ (t.stack stk).codeReqs = k.codeReqs.erase r
        ∧ t.fetchOf r.pol r.digest = some f ∧ ThreadsSame s t)
      ∧ (asked → kind = 0 → ∃ t, exec (.codeQueueDoorbell stk dike) s = .next t ∧ (t.stack stk).codeReqs = k.codeReqs.erase r
        ∧ t.fetchOf r.pol r.digest = some { f with reply := some [] } ∧ ThreadsSame s t)
      ∧ (asked → kind ≠ 0 → (len = 0 ∨ 32768 < len ∨ 2 < kind) → ∃ t, exec (.codeQueueDoorbell stk dike) s = .next t
        ∧ (t.stack stk).codeReqs = k.codeReqs.erase r ∧ t.fetchOf r.pol r.digest = some { f with reply := some [] }
        ∧ Logged t (stkOfPol r.pol) 4 7 ∧ ThreadsSame s t)
      ∧ (∀ b s2, asked → (kind = 1 ∨ kind = 2) → 0 < len → len ≤ 32768 →
        (s1.modStack stk fun k => { k with codeReqs := k.codeReqs.erase r }).readRun stk none (k.dike dike 144 8 + 32768 * r.entry) len true true 3 0
          = (b, s2) →
        ∃ t, exec (.codeQueueDoorbell stk dike) s = .next t ∧ (t.stack stk).codeReqs = k.codeReqs.erase r
          ∧ t.fetchOf r.pol r.digest = some { f with reply := some [(b.data, kind == 2, stk)] } ∧ ThreadsSame s t))

/-- R155, R186, R438: a source that does not answer in its time leaves a reason-10 record and the next one is asked; after the last the fetch
fails. -/
def SourcesTimeOut : Prop :=
  ∀ (s : State) (pol digest w : Nat) (f : Fetch), Asking s pol digest f → f.reply = none → sourceWait f.source = some w →
    (s.polTime pol < f.since + w → exec (.sourceWaitTimeout pol digest) s = .next s)
    ∧ (f.since + w ≤ s.polTime pol →
      (¬lastSource s pol f → ∃ t, exec (.sourceWaitTimeout pol digest) s = .next t ∧ Logged t (stkOfPol pol) f.source 10
        ∧ AsksNext s t pol digest f)
      ∧ (lastSource s pol f → PlainFetch s f → ∃ t, exec (.sourceWaitTimeout pol digest) s = .next t ∧ Logged t (stkOfPol pol) f.source 10
        ∧ Unresolved s t pol digest f ∧ MemorySame s t))

/-- R153, R154, R156: a translation whose signature verifies is accepted into the cache, and into the store or to wait for room; one whose
signature fails is logged with reason 4 and leaves nothing behind. -/
def SignaturesAreVerified : Prop :=
  ∀ (s : State) (pol digest k : Nat) (f : Fetch) (im : Image) (bs : List Byte), s.fetchOf pol digest = some f →
    f.checking = some (im, bs, k) →
    (checkSig (s.stack (stkOfPol pol)) bs = true → im.digest = digest → ∃ t, exec (.signatureVerified pol digest) s = .next t
      ∧ (f.thrs = [] → t.fetchOf pol digest = none)
      ∧ (f.thrs ≠ [] → (s.polder pol).imageOf digest = none →
          ((s.install pol im).1 = true → Placed s t pol digest im) ∧ ((s.install pol im).1 = false → Waits s t pol digest f im))
      ∧ (bs.length ≤ 7 * 2 ^ 20 → (∀ c ∈ (s.stack (stkOfPol pol)).ccache, c.bytes.length ≤ 7 * 2 ^ 20) →
          ∃ c ∈ (t.stack (stkOfPol pol)).ccache, c.digest = digest ∧ c.tag = im.tag))
    ∧ (checkSig (s.stack (stkOfPol pol)) bs = false → f.rest = [] →
      (¬lastSource s pol f → ∃ t, exec (.signatureVerified pol digest) s = .next t ∧ Logged t (stkOfPol pol) f.source 4
        ∧ (f.install = none → AsksNext s t pol digest f) ∧ (t.stack (stkOfPol pol)).ccache = (s.stack (stkOfPol pol)).ccache)
      ∧ (lastSource s pol f → PlainFetch s f → ∃ t, exec (.signatureVerified pol digest) s = .next t ∧ Logged t (stkOfPol pol) f.source 4
        ∧ Unresolved s t pol digest f ∧ (t.polder pol).code = (s.polder pol).code))

/-- R163, R167, R396: an install that waits is tried again: it enters when it fits, ends when the image is there, and waits while an entry under
another tag has users. After 1 ms it ends with a reason-9 record, whether it waits for room or for an entry under another tag, and a
`cinst` that waits for room is told to trap. -/
def InstallsWait : Prop :=
  (∀ (s : State) (pol digest : Nat) (f : Fetch) (im : Image), s.fetchOf pol digest = some f → f.install = some im →
    ((s.polder pol).imageOf digest = none → im.digest = digest → ∃ t, exec (.installRetry pol digest) s = .next t
      ∧ ((s.install pol im).1 = true → Placed s t pol digest im) ∧ ((s.install pol im).1 = false → Waits s t pol digest f im))
    ∧ (∀ slot old, (s.polder pol).imageOf digest = some (slot, old) → ∃ t, exec (.installRetry pol digest) s = .next t
      ∧ ((f.tag = none ∨ old.tag = im.tag) → t.fetchOf pol digest = none ∧ MemorySame s t ∧ ThreadsSame s t)
      ∧ (f.tag ≠ none → old.tag ≠ im.tag → old.pinned = false → old.users ≠ 0 → t.fetchOf pol digest = some f
          ∧ (t.polder pol).code = (s.polder pol).code ∧ MemorySame s t ∧ ThreadsSame s t))
    ∧ (s.polTime pol < f.since + 4000000 → exec (.installWaitTimeout pol (.loader digest)) s = .next s
      ∧ exec (.tagReplaceTimeout pol digest) s = .next s)
    ∧ (f.since + 4000000 ≤ s.polTime pol → PlainFetch s f → ∃ t,
      exec (if s.otherTag pol f = true then .tagReplaceTimeout pol digest else .installWaitTimeout pol (.loader digest)) s = .next t
        ∧ Logged t (stkOfPol pol) f.source 9 ∧ Unresolved s t pol digest f ∧ MemorySame s t))
  ∧ ∀ (s : State) (thr since : Nat), (s.thread thr).prog = .cinst since false →
    (s.polTime (thr / 64) < since + 4000000 → exec (.installWaitTimeout (thr / 64) (.system thr)) s = .next s)
    ∧ (since + 4000000 ≤ s.polTime (thr / 64) → ∃ t, exec (.installWaitTimeout (thr / 64) (.system thr)) s = .next t
      ∧ t.thread thr = { s.thread thr with prog := .cinst since true } ∧ MemorySame s t ∧ OthersSame s t thr)

end Sys2Proof.Claims

/-! ## The loader (chapter 06) -/

/-- R145, R153 to R159, R163, R167: sources answer or time out, and images are checked and installed. -/
def Obligations.ImagesAreLoaded : Prop :=
  SourcesAnswer ∧ RuntimeIsAsked ∧ SourcesTimeOut ∧ SignaturesAreVerified ∧ InstallsWait
namespace Sys2Proof.Claims

/-- Nothing but one port of one package, and what leaves by it, differs. -/
structure OnlyPort (s t : State) (pkg i : Nat) : Prop where
  memory : MemorySame s t
  threads : ThreadsSame s t
  stackRecs : ∀ k, t.stack k = s.stack k
  ports : ∀ k j, (k ≠ pkg ∨ j ≠ i) → t.port k j = s.port k j

/-- A port has no full flit, no run to end and no key to go over to: it sends nothing of its own accord. -/
def Quiet (p : Port) : Prop := p.pending = none ∧ p.pos < 16 ∧ p.queue.length < 112

/-- Flits leave by a port, in order. -/
def Sent (s t : State) (pkg i : Nat) (fs : List Flit) : Prop := t.out = s.out ++ fs.map fun f => .flit pkg i f.bytes

/-- What one place of a ring buffer costs: a packet is on its way to the buffer of the port at the far end of a link (R83). -/
def PlaceGiven (s t : State) (pkg i cls : Nat) : Prop :=
  let n := torusNext pkg i
  let j := facing i
  t.port n j = { s.port n j with due := (s.port n j).due.put 0 cls ((s.port n j).due.getD cls 0 + 1) }

/-- R80 to R83, R88: a sluice takes the packet that its router has for it, writes the pod time into it, discards and counts a malformed one,
gives one for another stack of the package to that stack's mesh when the router's input is ready, and one for another package to the port
of its route when the next ring buffer has two free places; a failed port discards it. A packet that a link has released goes into
the ring buffer of its port and class, one of six; what must wait stays where it is. -/
def PacketsAreCarried : Prop :=
  (∀ (s : State) (stk edge input cls : Nat) (raw : List Byte) (rest : List (List Byte)), let now := s.podTime (stk / 4)
    let slice := stk * 256 + sluiceSlice edge
    let bs := raw.take 2 ++ leBytes 2 now ++ raw.drop 4
    let went (t : State) : Prop := t.inputQ slice input cls = rest
    edge < 4 → s.inputQ slice input cls = raw :: rest → nextHop slice raw = .sluice edge → SMap.wf (s.slice slice).inq = true →
    (packetOk bs = false → ∃ t, exec (.sluicePacketReceive stk (.mesh edge input cls)) s = .next t ∧ went t
      ∧ t.stack stk = { s.stack stk with linkErrors := (s.stack stk).linkErrors + 1 } ∧ MemorySame s t ∧ ThreadsSame s t ∧ t.out = s.out)
    ∧ (packetOk bs = true → torusPort (stk / 4) (packetStk bs / 4) = none → packetStk bs ≠ stk →
      let e := meshEntry (packetStk bs) stk
      (s.inputReady e.1 e.2 (packetClass bs) = true → SMap.wf (s.slice e.1).inq = true →
        ∃ t, exec (.sluicePacketReceive stk (.mesh edge input cls)) s = .next t ∧ went t
          ∧ t.inputQ e.1 e.2 (packetClass bs) = s.inputQ e.1 e.2 (packetClass bs) ++ [bs] ∧ MemorySame s t ∧ ThreadsSame s t)
      ∧ (s.inputReady e.1 e.2 (packetClass bs) = false → exec (.sluicePacketReceive stk (.mesh edge input cls)) s = .next s))
    ∧ ∀ i, packetOk bs = true → torusPort (stk / 4) (packetStk bs / 4) = some i → let p := s.port (stk / 4) i
      (p.state = .failed → ∃ t, exec (.sluicePacketReceive stk (.mesh edge input cls)) s = .next t ∧ went t
        ∧ (∀ k j, t.port k j = s.port k j) ∧ MemorySame s t ∧ ThreadsSame s t)
      ∧ (p.state ≠ .failed → s.mayEnter (stk / 4) i (packetClass bs) false = false →
        exec (.sluicePacketReceive stk (.mesh edge input cls)) s = .next s)
      ∧ (p.state ≠ .failed → s.mayEnter (stk / 4) i (packetClass bs) false = true → p.pending = none → p.txKeys.find? p.kidx = none →
        ∃ t, exec (.sluicePacketReceive stk (.mesh edge input cls)) s = .next t ∧ went t
          ∧ t.port (stk / 4) i = { p with queue := p.queue ++ packetBytes bs, fed := now } ∧ PlaceGiven s t (stk / 4) i (packetClass bs)
          ∧ MemorySame s t ∧ ThreadsSame s t))
  ∧ ∀ (s : State) (stk i : Nat) (ok : Bool) (bs : List Byte) (rest : List (Bool × Byte)), i ∈ portsOfStack stk →
    nextPacket (s.port (stk / 4) i).rxBytes = some (ok, bs, rest) → let cls := packetClass bs; let q := s.ringOf (stk / 4) i cls
    ((bs = retireNotice 0 ∨ bs = retireNotice 1 ∨ 6 ≤ q.length) → exec (.sluicePacketReceive stk (.link i)) s = .next s)
    ∧ (bs ≠ retireNotice 0 → bs ≠ retireNotice 1 → q.length < 6 →
      (ok = true → packetOk bs = true → ∃ t, exec (.sluicePacketReceive stk (.link i)) s = .next t
        ∧ (t.port (stk / 4) i).rxBytes = rest ∧ t.ringOf (stk / 4) i cls = q ++ [bs]
        ∧ (SMap.wf (s.port (stk / 4) i).due = true →
            (t.port (stk / 4) i).due.getD cls 0 = (s.port (stk / 4) i).due.getD cls 0 - 1) ∧ OnlyPort s t (stk / 4) i)
      ∧ ((ok = false ∨ packetOk bs = false) → ∃ t, exec (.sluicePacketReceive stk (.link i)) s = .next t
        ∧ t.port (stk / 4) i = { s.port (stk / 4) i with rxBytes := rest }
        ∧ t.stack stk = { s.stack stk with linkErrors := (s.stack stk).linkErrors + 1 } ∧ MemorySame s t ∧ ThreadsSame s t))

/-- R84, R85, R88: a flit that fails its checks is asked for again, and 16 within a microsecond take the link down; the next data flit in
sequence joins the run; a later one is answered by one nak, an earlier one by what has been verified; a nak has the held flits sent again. -/
def FlitsAreReceived : Prop :=
  ∀ (s : State) (pkg i : Nat) (bs : List Byte), i < 6 → let p := s.port pkg i; let h := flitHead (leNat (bs.take 8)); let now := s.podTime pkg
    let f : Flit := { header := leNat (bs.take 8), payload := (bs.drop 8).take 112 }
    let q := if h.av then p.ackTo now h.aseq else p
    Quiet p →
    (p.state ≠ .up → ∃ t, exec (.enrikFlitReceive pkg i bs) s = .next t ∧ t.port pkg i = p ∧ Sent s t pkg i [] ∧ OnlyPort s t pkg i)
    ∧ (p.state = .up → flitOk bs = false →
      ((p.crcAt.filter fun x => decide (now ≤ x + 4000)).length < 15 → ∃ t, exec (.enrikFlitReceive pkg i bs) s = .next t
        ∧ (t.port pkg i).state = .up ∧ (t.port pkg i).rxRun = p.rxRun ∧ (t.port pkg i).expect = p.expect
        ∧ Sent s t pkg i [controlFlit 5 p.expect] ∧ OnlyPort s t pkg i)
      ∧ (15 ≤ (p.crcAt.filter fun x => decide (now ≤ x + 4000)).length → ∃ t, exec (.enrikFlitReceive pkg i bs) s = .next t
        ∧ (t.port pkg i).state = .retraining ∧ (t.port pkg i).log = p.log ++ [now] ∧ (t.port pkg i).replay = p.replay
        ∧ Sent s t pkg i [] ∧ OnlyPort s t pkg i))
    ∧ (p.state = .up → flitOk bs = true →
      ((h.kind = 1 ∨ h.kind = 2) → h.seq = p.expect → p.rxRun.length < 16 → ∃ t, exec (.enrikFlitReceive pkg i bs) s = .next t
        ∧ t.port pkg i = { q with expect := (p.expect + 1) % 4096, naked := false, rxRun := p.rxRun ++ [f] } ∧ Sent s t pkg i []
        ∧ OnlyPort s t pkg i)
      ∧ ((h.kind = 1 ∨ h.kind = 2 ∨ h.kind = 3) → h.seq ≠ p.expect → seqBefore h.seq p.expect = false → ∃ t,
        exec (.enrikFlitReceive pkg i bs) s = .next t ∧ t.port pkg i = { q with naked := true }
        ∧ Sent s t pkg i (if p.naked then [] else [controlFlit 5 p.expect]) ∧ OnlyPort s t pkg i)
      ∧ ((h.kind = 1 ∨ h.kind = 2 ∨ h.kind = 3) → h.seq ≠ p.expect → seqBefore h.seq p.expect = true → ∃ t,
        exec (.enrikFlitReceive pkg i bs) s = .next t ∧ t.port pkg i = q ∧ Sent s t pkg i [controlFlit 4 p.verified] ∧ OnlyPort s t pkg i)
      ∧ ((h.kind = 0 ∨ h.kind = 4) → ∃ t, exec (.enrikFlitReceive pkg i bs) s = .next t ∧ t.port pkg i = q ∧ Sent s t pkg i [] ∧ OnlyPort s t pkg i)
      ∧ (h.kind = 5 → ∃ t, exec (.enrikFlitReceive pkg i bs) s = .next t ∧ t.port pkg i = q
        ∧ Sent s t pkg i (q.replay.dropWhile fun f => seqBefore f.seq h.aseq) ∧ OnlyPort s t pkg i))

/-- R86, R87: a run's bytes are released only when its tag passes, decrypted and with where a packet begins; a run that fails is discarded and
asked for again from its first flit, and the third failure in a row takes the link down. -/
def RunsAreVerified : Prop :=
  ∀ (s : State) (pkg i key : Nat) (bs : List Byte), i < 6 → let p := s.port pkg i; let h := flitHead (leNat (bs.take 8))
    let peer := linkId (torusNext pkg i) (facing i)
    let count := leNat ((bs.drop 24).take 8)
    let ct := p.rxRun.flatMap fun f => toNats f.payload
    let heads := p.rxRun.map fun f => flitHead f.header
    let pt := ofNats (gcmStream (runKey key) (runIv peer count) 2 ct)
    let bytes := heads.zipIdx.flatMap fun e => if e.1.kind = 1 then marked e.1 ((pt.drop (112 * e.2)).take 112) else []
    let good : Prop := ofNats (gcmTag (runKey key) (runIv peer count) (runAad p.rxRun) ct) = (bs.drop 8).take 16
    Quiet p → p.state = .up → flitOk bs = true → h.kind = 3 → h.av = false → h.seq = p.expect → p.rxKeys.find? h.kidx = some key →
    heads.map (·.pos) = List.range 16 → (∀ x ∈ heads, x.kidx = h.kidx) →
    (good → ∃ t, exec (.enrikFlitReceive pkg i bs) s = .next t
      ∧ t.port pkg i = { p with expect := (p.expect + 1) % 4096, naked := false, rxRun := [], runFails := 0, verified := (p.expect + 1) % 4096, rxBytes := p.rxBytes ++ bytes }
      ∧ Sent s t pkg i [controlFlit 4 ((p.expect + 1) % 4096)] ∧ OnlyPort s t pkg i)
    ∧ (∀ x, ¬good → heads.head? = some x →
      (p.runFails < 2 → ∃ t, exec (.enrikFlitReceive pkg i bs) s = .next t ∧ (t.port pkg i).rxRun = [] ∧ (t.port pkg i).expect = x.seq
        ∧ (t.port pkg i).runFails = p.runFails + 1 ∧ (t.port pkg i).rxBytes = p.rxBytes ∧ Sent s t pkg i [controlFlit 5 x.seq] ∧ OnlyPort s t pkg i)
      ∧ (2 ≤ p.runFails → ∃ t, exec (.enrikFlitReceive pkg i bs) s = .next t ∧ (t.port pkg i).state = .retraining
        ∧ (t.port pkg i).rxBytes = p.rxBytes ∧ Sent s t pkg i [] ∧ OnlyPort s t pkg i))

/-- R85, R86, R88: a nak or a silence of 2 us has the held flits sent again, go-back-N; pad flits end a run that has waited 64 cycles; a link
that comes up again goes on from its oldest held flit, and one that stays down for 10 ms fails, discards what it held and gives back the
places of the ring buffer at its far end. -/
def PortsSend : Prop :=
  ∀ (s : State) (pkg i : Nat), i < 6 → let p := s.port pkg i; let now := s.podTime pkg
    (∀ seq, seq < 4096 → p.state = .up → ∃ t, exec (.enrikNakReceive pkg i seq) s = .next t
      ∧ (t.port pkg i).replay = (p.replay.dropWhile fun f => seqBefore f.seq seq)
      ∧ Sent s t pkg i (p.replay.dropWhile fun f => seqBefore f.seq seq) ∧ OnlyPort s t pkg i)
    ∧ (p.state = .up → p.replay ≠ [] →
      (p.progress + 8000 ≤ now → ∃ t, exec (.enrikAckTimeout pkg i) s = .next t ∧ t.port pkg i = { p with progress := now }
        ∧ Sent s t pkg i p.replay ∧ OnlyPort s t pkg i)
      ∧ (now < p.progress + 8000 → exec (.enrikAckTimeout pkg i) s = .next s))
    ∧ (now < p.fed + 95 → exec (.runPadTimeout pkg i) s = .next s)
    ∧ (∀ key, p.fed + 95 ≤ now → p.state = .up → p.pending = none → p.txKeys.find? p.kidx = some key → p.runCount < 2 ^ 40 →
      p.replay.length + 17 ≤ 512 → p.pos ≤ 16 → (p.pos ≠ 0 ∨ p.queue ≠ []) → p.queue.length ≤ 112 * (16 - p.pos) →
      ∃ t, exec (.runPadTimeout pkg i) s = .next t ∧ (t.port pkg i).pos = 0 ∧ (t.port pkg i).queue = [] ∧ (t.port pkg i).runCount = p.runCount + 1
        ∧ (∃ fs, (t.port pkg i).replay = p.replay ++ fs ∧ fs.length = 17 - p.pos ∧ Sent s t pkg i fs) ∧ OnlyPort s t pkg i)
    ∧ (p.state = .retraining → (Quiet p → ∃ t, exec (.retrainComplete pkg i) s = .next t ∧ (t.port pkg i).state = .up
        ∧ (t.port pkg i).replay = p.replay ∧ Sent s t pkg i p.replay ∧ OnlyPort s t pkg i)
      ∧ (p.downAt + 40000000 ≤ now → ∃ t, exec (.retrainTimeout pkg i) s = .next t
        ∧ (t.port pkg i).state = .failed ∧ (t.port pkg i).queue = [] ∧ (t.port pkg i).replay = [] ∧ Sent s t pkg i []
        ∧ (t.port (torusNext pkg i) (facing i)).due = [] ∧ MemorySame s t ∧ ThreadsSame s t)
      ∧ (now < p.downAt + 40000000 → exec (.retrainTimeout pkg i) s = .next s))

/-- R89: a key goes into a free index, and the sender goes over at its next run boundary; the old index is retired by a notice once everything
under it is acknowledged, and erased at both ends; a port whose counter is used up stops with an error. -/
def LinkKeys : Prop :=
  ∀ (s : State) (pkg i : Nat), i < 6 → let p := s.port pkg i; let now := s.podTime pkg
    (∀ index key, index < 2 →
      (p.txKeys.find? index = none → p.pos < 16 → p.queue.length < 112 →
        ∃ t, exec (.linkKeyInstall pkg i index key true) s = .next t ∧ (t.port pkg i).txKeys.find? index = some (key % 2 ^ 256)
          ∧ (p.pos = 0 → (t.port pkg i).kidx = index ∧ (t.port pkg i).runCount = 0 ∧ (t.port pkg i).pending = none)
          ∧ (p.pos ≠ 0 → (t.port pkg i).kidx = p.kidx ∧ (t.port pkg i).pending = some index) ∧ OnlyPort s t pkg i)
      ∧ (p.rxKeys.find? index = none → ∃ t, exec (.linkKeyInstall pkg i index key false) s = .next t
        ∧ t.port pkg i = { p with rxKeys := p.rxKeys.insert index (key % 2 ^ 256) } ∧ OnlyPort s t pkg i)
      ∧ ((p.txKeys.find? index).isSome = true → exec (.linkKeyInstall pkg i index key true) s = .next s))
    ∧ (p.state = .up → p.retiring = false → Quiet p → p.queue.length + 32 < 112 → p.kidx < 2 →
      ((p.txKeys.find? (1 - p.kidx)).isSome = true → (∀ f ∈ p.replay ++ p.txRun, (flitHead f.header).kidx = p.kidx) →
        ∃ t, exec (.keyRetireSend pkg i) s = .next t
          ∧ t.port pkg i = { p with queue := p.queue ++ packetBytes (retireNotice (1 - p.kidx)), fed := now, retiring := true } ∧ OnlyPort s t pkg i)
      ∧ ((∃ f ∈ p.replay, (flitHead f.header).kidx = 1 - p.kidx) → exec (.keyRetireSend pkg i) s = .next s))
    ∧ (∀ index rest, index < 2 → nextPacket p.rxBytes = some (true, retireNotice index, rest) → SMap.wf p.rxKeys = true →
      ∃ t, exec (.keyRetireReceive pkg i) s = .next t ∧ (t.port pkg i).rxBytes = rest ∧ (t.port pkg i).rxKeys.find? index = none
        ∧ (let q := s.port (torusNext pkg i) (facing i)
          q.retiring = true → SMap.wf q.txKeys = true → (t.port (torusNext pkg i) (facing i)).retiring = false
            ∧ (t.port (torusNext pkg i) (facing i)).txKeys.find? index = none)
        ∧ MemorySame s t ∧ ThreadsSame s t)
    ∧ (p.pos = 0 → p.pending = none → p.stuck = false → (2 ^ 40 ≤ p.runCount → ∃ t, exec (.runCounterExhausted pkg i) s = .next t
        ∧ t.port pkg i = { p with stuck := true, log := p.log ++ [now] } ∧ OnlyPort s t pkg i)
      ∧ (p.runCount < 2 ^ 40 → exec (.runCounterExhausted pkg i) s = .next s))

/-- R90: the root sends its time every 10 us on every port; a package steers toward the beacon's time plus the delay of the link and never back,
and is at fault when it stays more than 2 ns off; a link's delay is what a round trip measured. -/
def PodTime : Prop :=
  (∀ (s : State) (pkg : Nat), let now := s.podTime pkg
    ((s.package pkg).root = true → (s.package pkg).beaconAt + 40000 ≤ now → ∃ t, exec (.timeBeaconSend pkg) s = .next t
      ∧ t.package pkg = { s.package pkg with beaconAt := now } ∧ t.out = s.out ++ (List.range 6).map fun i => .beacon pkg i now)
    ∧ (((s.package pkg).root = false ∨ now < (s.package pkg).beaconAt + 40000) → exec (.timeBeaconSend pkg) s = .next s))
  ∧ ∀ (s : State) (pkg i time : Nat), i < 6 → let now := s.podTime pkg; let goal := time + (s.port pkg i).delay
    ((s.package pkg).root = false → ∃ t g, exec (.timeBeaconReceive pkg i time) s = .next t ∧ g ≤ goal - now
      ∧ (t.package pkg).skew = (s.package pkg).skew + Int.ofNat g ∧ (t.package pkg).slow ≤ now - goal
      ∧ ((now + g + 8 < goal ∨ goal + 8 < now) → (∀ n < 4, (t.stack (pkg * 4 + n)).tfault = true)
          ∧ (t.package pkg).timeLog = (s.package pkg).timeLog ++ [now + g])
      ∧ (¬(now + g + 8 < goal ∨ goal + 8 < now) → ∀ k, t.stack k = s.stack k) ∧ MemorySame s t ∧ ThreadsSame s t)
    ∧ ((s.package pkg).root = true → exec (.timeBeaconReceive pkg i time) s = .next s)
    ∧ ∀ delay, ∃ t, exec (.linkDelayMeasure pkg i delay) s = .next t ∧ t.port pkg i = { s.port pkg i with delay := delay } ∧ OnlyPort s t pkg i

/-- R77, R81 to R83, R102: a turn of the network takes the oldest packet of an input and class one hop, along the row and then along the
column, when the next input is ready; at its slice a context goes to the guest slots and a remote-access packet to the put engine. The oldest
packet of a ring buffer goes on into the next ring buffer of its route, which has one free place where it stays in its ring and two
where it enters one, or into the mesh of its stack. A frame that a port's MACsec key opens goes to the put engine. (Turns: log 1.) -/
def NetworkMoves : Prop :=
  ∀ (s : State) (rest : List Turn), let s0 : State := { s with agenda := rest }
    let kept (t : State) : Prop := MemorySame s t ∧ ThreadsSame s t ∧ t.agenda = rest
    (∀ (slice input cls : Nat) (bs : List Byte) (q : List (List Byte)), s.agenda = .net (.hop slice input cls) :: rest →
      s.inputQ slice input cls = bs :: q → packetClass bs = cls → SMap.wf (s.slice slice).inq = true →
      (∀ n i, nextHop slice bs = .router n i → SMap.wf (s.slice n).inq = true →
        (s.inputReady n i cls = true → ∃ t, step s = .next t ∧ t.inputQ slice input cls = q ∧ t.inputQ n i cls = s.inputQ n i cls ++ [bs] ∧ kept t)
        ∧ (s.inputReady n i cls = false → step s = .next s0.tick))
      ∧ (nextHop slice bs = .here → ∃ t, step s = .next t ∧ t.inputQ slice input cls = q ∧ kept t
        ∧ (forAgent bs = true → cls = 3 → (t.slice slice).ctxs = (s.slice slice).ctxs ++ [bs])
        ∧ ∀ p, forAgent bs = true → cls ≠ 3 → pktOf (leAt bs 12 4 / 2 ^ 20) false (unpadUnits (bs.drop 16)) = some p →
          (t.stack (slice / 256)).arrived = (s.stack (slice / 256)).arrived ++ [p])
      ∧ ∀ e, nextHop slice bs = .sluice e → step s = .next s0.tick)
    ∧ (∀ (pkg port cls : Nat) (bs : List Byte) (q : List (List Byte)), s.agenda = .net (.ring pkg port cls) :: rest → port < 6 →
      s.ringOf pkg port cls = bs :: q → packetClass bs = cls → SMap.wf (s.port pkg port).ring = true →
      (torusPort pkg (packetStk bs / 4) = none →
        let e := if packetStk bs % 4 = (portSluice port).1 then (packetStk bs * 256 + sluiceSlice (portSluice port).2, (portSluice port).2)
          else meshEntry (packetStk bs) (pkg * 4 + (portSluice port).1)
        SMap.wf (s.slice e.1).inq = true →
        (s.inputReady e.1 e.2 cls = true → ∃ t, step s = .next t ∧ t.ringOf pkg port cls = q
          ∧ t.inputQ e.1 e.2 cls = s.inputQ e.1 e.2 cls ++ [bs] ∧ kept t)
        ∧ (s.inputReady e.1 e.2 cls = false → step s = .next s0.tick))
      ∧ ∀ i, torusPort pkg (packetStk bs / 4) = some i → let along : Bool := facing port == i
        let free := 6 - ((s.ringOf (torusNext pkg i) (facing i) cls).length + (s.port (torusNext pkg i) (facing i)).due.getD cls 0)
        ((s.port pkg i).state ≠ .failed → free < (if along then 1 else 2) → step s = .next s0.tick)
        ∧ ((s.port pkg i).state ≠ .failed → (if along then 1 else 2) ≤ free → (s.port pkg i).pending = none →
          (s.port pkg i).txKeys.find? (s.port pkg i).kidx = none → ∃ t, step s = .next t ∧ t.ringOf pkg port cls = q
            ∧ (t.port pkg i).queue = (s.port pkg i).queue ++ packetBytes bs ∧ kept t)
        ∧ ((s.port pkg i).state = .failed → ∃ t, step s = .next t ∧ t.ringOf pkg port cls = q ∧ kept t))
    ∧ ∀ (pkg port key : Nat) (bs : List Byte), s.agenda = .frame pkg port key bs :: rest → packetOk bs = true → forAgent bs = true →
      packetClass bs ≤ 1 → packetPkg bs = pkg →
      ((s.package pkg).ether.find? port = some key → ∀ p, pktOf (leAt bs 12 4 / 2 ^ 20) true (unpadUnits (bs.drop 16)) = some p →
        ∃ t, step s = .next t ∧ (t.stack (packetStk bs)).arrived = (s.stack (packetStk bs)).arrived ++ [p] ∧ kept t)
      ∧ ((s.package pkg).ether.find? port ≠ some key → step s = .next s0.tick)

end Sys2Proof.Claims

/-! ## Links and pod time (chapter 03) -/

/-- R77, R80 to R88: routers, packets, ring buffers, flits and runs. -/
def Obligations.LinksCarryPackets : Prop := PacketsAreCarried ∧ NetworkMoves ∧ FlitsAreReceived ∧ RunsAreVerified ∧ PortsSend

/-- R89, R90: link keys and pod time. -/
def Obligations.LinkKeysAndPodTime : Prop := LinkKeys ∧ PodTime
namespace Sys2Proof.Claims

/-- The events that take an arrived packet, by its kind (R103). -/
def Takes (ev : Instr) (stk i kind : Nat) : Prop :=
  match kind with
  | 1 => ev = .putDataPacket stk i
  | 2 => ev = .putFinalWrite stk i
  | 3 => ∃ data bad, ev = .getRequestPacket stk i data bad
  | 4 => ∃ late, ev = .getDataPacket stk ⟨i, late⟩
  | 5 => ev = .remoteAck stk i
  | 6 => ev = .notReadyReply stk i
  | _ => False

/-- Packet `i` of those that have arrived at a stack is of a kind, its channel is valid and names the sender's stack and pod, and its record is
cached (R104, R105). -/
def Arrived (s : State) (stk i kind : Nat) (p : RPkt) : Prop :=
  s.arrivedOf stk i kind = some p ∧ s.chanKnows stk p = true ∧ p.chan ∈ (s.stack stk).chans

/-- A channel's record and bitmap lie in memory of their own stack that takes writes, apart from each other, and a write there displaces no far
line. -/
def ChannelHome (s : State) (stk c : Nat) : Prop :=
  (∀ j < 64, stkOfPa (s.chanRec stk c + j) = stk ∧ writable s (s.chanRec stk c + j))
    ∧ (∀ j < 8192, stkOfPa (s.chanMap stk c + j) = stk ∧ writable s (s.chanMap stk c + j))
    ∧ (s.chanRec stk c + 64 ≤ s.chanMap stk c ∨ s.chanMap stk c + 8192 ≤ s.chanRec stk c) ∧ SMap.wf s.mem = true ∧ noFar s stk

/-- A byte outside a channel's record. -/
def OffRecord (s : State) (stk c a : Nat) : Prop := a < s.chanRec stk c ∨ s.chanRec stk c + 64 ≤ a

/-- A byte outside a channel's record and bitmap. -/
def OffChannel (s : State) (stk c a : Nat) : Prop := OffRecord s stk c a ∧ (a < s.chanMap stk c ∨ s.chanMap stk c + 8192 ≤ a)

/-- A packet has left a stack on a channel: it is the last at its slice's router, or it has gone out as a frame of the record's Ethernet port,
under that port's key, where it has one (R78, R102, R105). -/
def Left (s t : State) (stk c : Nat) (a : RPkt) : Prop :=
  let bs := remotePacket (s.chanPeer stk c) stk a
  let cls := if a.kind ≤ 3 then 0 else 1
  let port := s.chanNum stk c 3 1
  if s.chanEther stk c = true then
    ∀ key, (s.package (stk / 4)).ether.find? port = some key → .frame (stk / 4) port (s.chanNum stk c 8 6) key bs ∈ t.out
  else t.inputQ (stk * 256) 4 cls = s.inputQ (stk * 256) 4 cls ++ [bs]

/-- An answer of a kind to a packet has left on its channel. -/
def Answered (s t : State) (stk : Nat) (p : RPkt) (kind : Nat) (data : List Byte) : Prop :=
  ∃ a, a.kind = kind ∧ a.seq = p.seq ∧ a.chan = s.chanNum stk p.chan 14 2 ∧ a.data = data ∧ a.src = stk ∧ Left s t stk p.chan a

/-- The arrived packet is gone. -/
def Gone (s t : State) (stk i : Nat) : Prop := (t.stack stk).arrived = (s.stack stk).arrived.eraseIdx i

/-- It is gone and counted as discarded. -/
def Discarded (s t : State) (stk i : Nat) : Prop :=
  Gone s t stk i ∧ (t.stack stk).discarded = (s.stack stk).discarded + 1 ∧ MemorySame s t ∧ ThreadsSame s t

/-- It stays, and nothing has happened but that its channel was used last. -/
def PktStays (s t : State) (stk i : Nat) : Prop :=
  (t.stack stk).arrived = (s.stack stk).arrived ∧ i < (s.stack stk).arrived.length ∧ MemorySame s t ∧ ThreadsSame s t

/-- R104, R105: a packet of an unknown channel is discarded and counted; one whose channel's record is not cached waits in the pool of 64, and
when the pool is full a put's packet or a get request is turned away, as soon as the router takes the answer, and an answer waits; a
refill sends the pooled packets on in their order. -/
def ChannelsGate : Prop :=
  (∀ (s : State) (ev : Instr) (stk i kind : Nat) (p : RPkt), Takes ev stk i kind → s.arrivedOf stk i kind = some p →
    let k := s.stack stk
    (s.chanKnows stk p = false → ∃ t, exec ev s = .next t ∧ Discarded s t stk i)
    ∧ (s.chanKnows stk p = true → p.chan ∉ k.chans → k.pool.length < 64 → ∃ t, exec ev s = .next t ∧ Gone s t stk i
      ∧ (t.stack stk).pool = k.pool ++ [p] ∧ MemorySame s t ∧ ThreadsSame s t)
    ∧ (s.chanKnows stk p = true → p.chan ∉ k.chans → 64 ≤ k.pool.length → kind ≤ 3 → s.sendReady stk p.chan 6 = true →
      ∃ t, exec ev s = .next t ∧ Gone s t stk i ∧ Answered s t stk p 6 [] ∧ MemorySame s t ∧ ThreadsSame s t)
    ∧ (s.chanKnows stk p = true → p.chan ∉ k.chans → 64 ≤ k.pool.length → (3 < kind ∨ s.sendReady stk p.chan 6 = false) →
      exec ev s = .next s))
  ∧ ∀ (s : State) (stk c : Nat), let mine := (s.stack stk).pool.filter fun p => p.chan == c
    (mine ≠ [] → ∃ t, exec (.channelRecordRefill stk c) s = .next t ∧ (t.stack stk).arrived = mine ++ (s.stack stk).arrived
      ∧ (t.stack stk).pool = ((s.stack stk).pool.filter fun p => p.chan != c) ∧ (t.stack stk).chans.head? = some c ∧ MemorySame s t ∧ ThreadsSame s t)
    ∧ (mine = [] → exec (.channelRecordRefill stk c) s = .next s)

/-- R104, R106, R108: what arrives on a cached channel is discarded when it is too old, acknowledged again when it has performed, turned away
beyond the window, kept while it is not in order, and otherwise written where the target's translation says, a final write after every
dirty far line where its scope asks for it, with its bit set and an acknowledgement; a fault at the target stops the transfer at its
sender in this pod. It waits while the router does not take the answer. -/
def PutPacketsPerform : Prop :=
  ∀ (s : State) (ev : Instr) (stk i kind : Nat) (p : RPkt), Takes ev stk i kind → kind < 3 → Arrived s stk i kind p →
    let s1 := s.useChan stk p.chan
    (s.sendReady stk p.chan 5 = false → ∃ t, exec ev s = .next t ∧ PktStays s t stk i)
    ∧ (s.sendReady stk p.chan 5 = true →
      (s1.checkPkt stk p = .old → ∃ t, exec ev s = .next t ∧ Discarded s t stk i)
      ∧ (s1.checkPkt stk p = .dup → ∃ t, exec ev s = .next t ∧ Gone s t stk i ∧ Answered s t stk p 5 [] ∧ MemorySame s t ∧ ThreadsSame s t)
      ∧ (s1.checkPkt stk p = .far → ∃ t, exec ev s = .next t ∧ Gone s t stk i ∧ Answered s t stk p 6 [] ∧ MemorySame s t ∧ ThreadsSame s t)
      ∧ (s1.checkPkt stk p = .later → ∃ t, exec ev s = .next t ∧ PktStays s t stk i)
      ∧ (∀ ps s2, s1.checkPkt stk p = .perform → s1.enginePieces stk (s.chanNum stk p.chan 0 2) none true p.dst p.data.length 0 = (.ok ps, s2) →
        (s2.enginePinned stk ps || s2.cutOff stk ps) = false →
        let wrote := (if kind = 2 ∧ wideScope ps = true then s2.writebackFar stk else s2).engineWrite stk ps p.data
        (∀ a, ¬OffChannel s stk p.chan a → wrote.byte a = s.byte a) → ChannelHome wrote stk p.chan →
        ∃ t, exec ev s = .next t ∧ Gone s t stk i ∧ Answered s t stk p 5 [] ∧ t.seqDone stk p.chan p.seq = true
          ∧ ∀ a, OffChannel s stk p.chan a → t.byte a = wrote.byte a)
      ∧ (∀ c a ua f g s2, s1.checkPkt stk p = .perform →
        s1.enginePieces stk (s.chanNum stk p.chan 0 2) none true p.dst p.data.length 0 = (.stop c a ua f g, s2) →
        (p.ether = true → ∃ t, exec ev s = .next t ∧ Gone s t stk i)
        ∧ ∀ j x y z, p.ether = false → (s2.dropArrived stk i).xferOf p.src (s2.chanNum stk p.chan 14 2) p.seq = some (j, x, y) → x.stop = none →
          z ∈ x.sent → z.pkt.seq ≠ p.seq →
          ∃ t w st, exec ev s = .next t ∧ Gone s t stk i ∧ (t.stack p.src).xfers[j]? = some w ∧ w.stop = some st ∧ st.cause = c ∧ st.addr = a
            ∧ w.done = x.done))

/-- R102, R106, R180, R389: a get request is answered with the bytes that the translation names, again where it comes again, and counts as
performed once; their packet goes to local memory at its place and counts as done; one that answers nothing is dropped. -/
def GetsReadAndFill : Prop :=
  (∀ (s : State) (stk i : Nat) (data : List Byte) (bad : Bool) (p : RPkt), Arrived s stk i 3 p → let s1 := s.useChan stk p.chan
    (s.sendReady stk p.chan 4 = false → ∃ t, exec (.getRequestPacket stk i data bad) s = .next t ∧ PktStays s t stk i)
    ∧ (s.sendReady stk p.chan 4 = true →
      (s1.checkPkt stk p = .old → ∃ t, exec (.getRequestPacket stk i data bad) s = .next t ∧ Discarded s t stk i)
      ∧ (s1.checkPkt stk p = .far → ∃ t, exec (.getRequestPacket stk i data bad) s = .next t ∧ Gone s t stk i ∧ Answered s t stk p 6 []
        ∧ MemorySame s t ∧ ThreadsSame s t)
      ∧ ∀ (s2 s3 : State) (ps : List Piece) (g : Got), s1.checkPkt stk p ≠ .old → s1.checkPkt stk p ≠ .far →
        s1.enginePieces stk (s.chanNum stk p.chan 0 2) none false p.dst p.need 0 = (.ok ps, s2) →
        (s2.memoryHeld ps || s2.cutOff stk ps) = false → s2.readPieces stk 0 none ps false 3 (s2.hostFor stk ps data) = (g, s3) →
        g.bad = [] → g.data.length ≤ 256 → bad = false → (∀ a, s3.byte a = s.byte a) → ChannelHome s3 stk p.chan →
        ∃ t, exec (.getRequestPacket stk i data bad) s = .next t ∧ Gone s t stk i ∧ Answered s t stk p 4 g.data
          ∧ (s1.checkPkt stk p = .dup → MemorySame s3 t ∧ ThreadsSame s3 t)
          ∧ (s1.checkPkt stk p ≠ .dup → t.seqDone stk p.chan p.seq = true ∧ ∀ a, OffChannel s stk p.chan a → t.byte a = s.byte a)))
  ∧ ∀ (s : State) (stk i : Nat) (late : Bool) (p : RPkt), Arrived s stk i 4 p → let s1 := s.useChan stk p.chan
    (s.xferOf stk p.chan p.seq = none → ∃ t, exec (.getDataPacket stk ⟨i, late⟩) s = .next t ∧ Gone s t stk i ∧ MemorySame s t ∧ ThreadsSame s t)
    ∧ ∀ j x y, s.xferOf stk p.chan p.seq = some (j, x, y) →
      ((x.isGet = false ∨ y.len ≠ p.data.length) → ∃ t, exec (.getDataPacket stk ⟨i, late⟩) s = .next t ∧ Gone s t stk i ∧ MemorySame s t
        ∧ ThreadsSame s t)
      ∧ ∀ ps s2 z, x.isGet = true → y.len = p.data.length → x.flags.testBit 2 = false →
        s1.enginePieces stk x.dike (some x.ep) true ((x.loc + y.off) % 2 ^ 64) p.data.length x.after = (.ok ps, s2) →
        (late && farAccess stk ps) = false → (s2.enginePinned stk ps || s2.cutOff stk ps) = false → z ∈ x.sent → z.pkt.seq ≠ p.seq →
        let wrote := (s2.dropArrived stk i).engineWrite stk ps p.data
        ChannelHome wrote stk x.chan → y.pkt.seq = p.seq →
        ∃ t, exec (.getDataPacket stk ⟨i, late⟩) s = .next t ∧ Gone s t stk i
          ∧ (t.stack stk).xfers[j]? = some { x with sent := (x.sent.filter fun z => z.pkt.seq != p.seq), done := x.done + y.len }
          ∧ ∀ a, OffRecord s stk x.chan a → t.byte a = wrote.byte a

/-- A transfer has ended, or has nothing in flight and waits for its descriptor alone. -/
def EndsOrWaits (s t : State) (stk j : Nat) (p : Xfer → Prop) : Prop :=
  (t.stack stk).xfers = (s.stack stk).xfers.eraseIdx j ∨ ∃ w, (t.stack stk).xfers[j]? = some w ∧ w.sent = [] ∧ p w

/-- R104, R105, R107: an acknowledgement ends its packet and sets the backoff back; a not-ready reply starts a backoff, after which the same packet
goes again, no sooner, and not once it is 4 ms old; at 5 ms the transfer stops. -/
def PacketsAreAnswered : Prop :=
  (∀ (s : State) (ev : Instr) (stk i kind : Nat) (p : RPkt), Takes ev stk i kind → (kind = 5 ∨ kind = 6) → Arrived s stk i kind p →
    let now := s.podTime (stk / 4)
    (s.xferOf stk p.chan p.seq = none → ∃ t, exec ev s = .next t ∧ Gone s t stk i ∧ MemorySame s t ∧ ThreadsSame s t)
    ∧ ∀ j x y, s.xferOf stk p.chan p.seq = some (j, x, y) →
      (kind = 6 → ∃ t, exec ev s = .next t ∧ Gone s t stk i ∧ MemorySame s t ∧ ThreadsSame s t
        ∧ (t.stack stk).xfers[j]? = some { x with sent := x.sent.map fun z => if z.pkt.seq = p.seq then { z with last := now } else z })
      ∧ (kind = 5 → x.isGet = true → ∃ t, exec ev s = .next t ∧ Gone s t stk i ∧ MemorySame s t ∧ ThreadsSame s t)
      ∧ (kind = 5 → x.isGet = false → (s.useChan stk p.chan).xferBarWaits stk x = true → ∃ t, exec ev s = .next t ∧ PktStays s t stk i)
      ∧ (∀ z, kind = 5 → x.isGet = false → x.flags.testBit 2 = false → ChannelHome s stk x.chan → z ∈ x.sent → z.pkt.seq ≠ p.seq →
        ∃ t, exec ev s = .next t ∧ Gone s t stk i
          ∧ (t.stack stk).xfers[j]? = some { x with sent := (x.sent.map fun z => { z with backoff := 8000 }).filter (fun z => z.pkt.seq != p.seq),
                                                    done := x.done + y.len }
          ∧ ThreadsSame s t ∧ ∀ a, OffRecord s stk x.chan a → t.byte a = s.byte a)
      ∧ (kind = 5 → x.isGet = false → x.flags.testBit 2 = false → (∀ z ∈ x.sent, z.pkt.seq = p.seq) → x.next = x.len →
        x.flags.testBit 1 = false → x.stop = none →
        ∃ t, exec ev s = .next t ∧ Gone s t stk i ∧ EndsOrWaits s t stk j fun w => w.done = x.done + y.len))
  ∧ (∀ (s : State) (stk j k : Nat) (x : Xfer) (y : XPkt), (s.stack stk).xfers[j]? = some x → x.sent[k]? = some y → let now := s.podTime (stk / 4)
    (y.last + y.backoff ≤ now → now < y.pkt.time + 16000000 → s.sendReady stk x.chan y.pkt.kind = true → y.pkt.data.length ≤ 256 →
      ∃ t w, exec (.resendBackoffExpiry stk j k) s = .next t ∧ (t.stack stk).xfers[j]? = some w
        ∧ w.sent[k]? = some { y with last := now, backoff := min (2 * y.backoff) 1024000 }
        ∧ Left s t stk x.chan y.pkt ∧ MemorySame s t ∧ ThreadsSame s t)
    ∧ ((now < y.last + y.backoff ∨ y.pkt.time + 16000000 ≤ now ∨ s.sendReady stk x.chan y.pkt.kind = false) →
      exec (.resendBackoffExpiry stk j k) s = .next s))
  ∧ ∀ (s : State) (stk j : Nat) (x : Xfer), (s.stack stk).xfers[j]? = some x → let now := s.podTime (stk / 4)
    ((∃ y ∈ x.sent, y.pkt.time + 20000000 ≤ now) → ∃ t, exec (.remoteAgeStop stk j) s = .next t
      ∧ EndsOrWaits s t stk j (fun w => w.stop.isSome = true) ∧ (t.stack stk).arrived = (s.stack stk).arrived)
    ∧ ((∀ y ∈ x.sent, now < y.pkt.time + 20000000) → exec (.remoteAgeStop stk j) s = .next s)

/-- R102, R104, R108, R389: the next packet of a transfer leaves with the channel's next sequence number: up to 256 bytes of a put's source for
their place at the target, a request for as many bytes of a get, or the final write, which names the packets that it follows. It waits for
its turn on the channel, for the stores before it, and for the router. -/
def PutsAreSent : Prop :=
  ∀ (s : State) (ep i : Nat) (late bad : Bool) (data : List Byte) (x : Xfer), let stk := stkOf ep
    let n := min 256 (x.len - x.next)
    let seq := s.chanNum stk x.chan 16 4
    let Sent (t : State) (w : Xfer) (y : XPkt) : Prop :=
      exec (.sliceRequest ep (.engine i late data bad)) s = .next t ∧ (t.stack stk).xfers[i]? = some w ∧ w.sent = x.sent ++ [y]
        ∧ y.pkt.seq = seq ∧ y.pkt.time = s.podTime (stk / 4) ∧ Left s t stk x.chan y.pkt ∧ t.chanNum stk x.chan 16 4 = (seq + 1) % 2 ^ 32
    (s.stack stk).xfers[i]? = some x → x.stop = none → x.allSent = false →
    ((s.handed x.ep x.after = false ∨ s.chanTaken stk i x = true ∨ s.sendReady stk x.chan 1 = false) →
      exec (.sliceRequest ep (.engine i late data bad)) s = .next s)
    ∧ (s.handed x.ep x.after = true → s.chanTaken stk i x = false → s.sendReady stk x.chan 1 = true →
      (x.next < x.len → x.isGet = true → ChannelHome s stk x.chan → ∃ t w y, Sent t w y ∧ w.next = x.next + n ∧ y.pkt.kind = 3 ∧ y.pkt.need = n
        ∧ y.pkt.dst = (x.remote + x.next) % 2 ^ 64 ∧ ∀ a, OffRecord s stk x.chan a → t.byte a = s.byte a)
      ∧ (x.len ≤ x.next → ChannelHome s stk x.chan → ∃ t w y, Sent t w y ∧ w.finalSent = true ∧ y.pkt.kind = 2 ∧ y.pkt.data = leBytes 8 x.final
        ∧ y.pkt.dst = x.finalAddr ∧ y.pkt.first = x.first.getD seq ∧ y.pkt.count = x.packets
        ∧ ∀ a, OffRecord s stk x.chan a → t.byte a = s.byte a)
      ∧ ∀ (s2 s3 : State) (ps : List Piece) (g : Got), x.next < x.len → x.isGet = false →
        s.enginePieces stk x.dike (some x.ep) false ((x.loc + x.next) % 2 ^ 64) n x.after = (.ok ps, s2) → (late && farAccess stk ps) = false →
        (s2.memoryHeld ps || s2.cutOff stk ps) = false → s2.readPieces stk x.ep none ps false 3 (s2.hostFor stk ps data) = (g, s3) →
        g.bad = [] → bad = false → g.data.length ≤ 256 → (∀ a, s3.byte a = s.byte a) → ChannelHome s3 stk x.chan →
        ∃ t w y, Sent t w y ∧ w.next = x.next + n ∧ y.pkt.kind = 1 ∧ y.pkt.data = g.data ∧ y.pkt.dst = (x.remote + x.next) % 2 ^ 64
          ∧ ∀ a, OffRecord s stk x.chan a → t.byte a = s.byte a)

end Sys2Proof.Claims

/-! ## Remote packets (chapter 04) -/

/-- R102, R104 to R108, R180, R389: packets are sent, arrive, perform and are answered. -/
def Obligations.PacketsArrive : Prop := ChannelsGate ∧ PutPacketsPerform ∧ GetsReadAndFill ∧ PacketsAreAnswered ∧ PutsAreSent
namespace Sys2Proof.Claims

/-- A thread's ways of drawing a fresh thread: only this slot differs among the threads of two states. -/
def SlotOnly (s t : State) (ep : Nat) : Prop := ∀ k, k ≠ thrOf ep → t.thread k = s.thread k

/-- R93, R94: the slice that holds a roaming load's data grants the guest slot of its lowest core that has one free, or refuses; the answer has
the thread drain, or go on in fetch mode; a grant that is not used within 10 us lapses. -/
def GuestsAreReserved : Prop :=
  (∀ (s s1 : State) (ep pa : Nat), let thr := thrOf ep; let s2 : State := { s1 with cur := s.cur }; let sl := proxyDev (stkOfPa pa) pa
    (s.thread thr).live = true → (s.thread thr).wait = .migrate → (s.thread thr).prog = .none →
    State.roamTarget { s with cur := ep } = (some pa, s1) → let e := (s2.polder (polOf ep)).epoch
    (∀ g, s2.guestCore sl (s.jobOf ep) = some g → s2.jobOf ep = s.jobOf ep → ∃ t, exec (.guestReservation ep) s = .next t
      ∧ t.thread thr = { s2.thread thr with prog := .migrate (some (epOf g 6)) .replying e } ∧ SlotOnly s2 t ep
      ∧ (∃ at_, (t.slice sl).guests.find? g = some (thr, at_)) ∧ g / 256 = sl ∧ s2.guestFree g = true
      ∧ (∀ c, sl * 256 ≤ c → c < g → (s2.polder (c / 8)).dike = s.jobOf ep → s2.dispatches (c / 8) = true → s2.guestFree c = false)
      ∧ MemorySame s2 t)
    ∧ (s2.guestCore sl (s.jobOf ep) = none → s2.jobOf ep = s.jobOf ep → ∃ t, exec (.guestReservation ep) s = .next t
      ∧ t.thread thr = { s2.thread thr with prog := .migrate none .replying e } ∧ SlotOnly s2 t ep ∧ MemorySame s2 t))
  ∧ (∀ (s : State) (ep : Nat) (e : Bool), let r := s.thread (thrOf ep)
    (r.prog = .migrate none .replying e → ∃ t, exec (.reservationReply ep) s = .next t
      ∧ t.thread (thrOf ep) = { r with prog := .refused, wait := .no } ∧ SlotOnly s t ep ∧ MemorySame s t)
    ∧ ∀ g, r.prog = .migrate (some g) .replying e → ∃ t, exec (.reservationReply ep) s = .next t
      ∧ t.thread (thrOf ep) = { r with prog := .migrate (some g) .draining e } ∧ SlotOnly s t ep ∧ MemorySame s t)
  ∧ ∀ (s : State) (core thr at_ : Nat), (s.slice (core / 256)).guests.find? core = some (thr, at_) →
    SMap.wf (s.slice (core / 256)).guests = true →
    (at_ + 40000 ≤ s.timeAt (epOf core 6) → ∃ t, exec (.reservationExpiry core) s = .next t ∧ (t.slice (core / 256)).guests.find? core = none
      ∧ MemorySame s t ∧ ThreadsSame s t)
    ∧ (s.timeAt (epOf core 6) < at_ + 40000 → exec (.reservationExpiry core) s = .next s)

/-- What a guest slot holds of a context packet's thread (R96): the scalar registers and `c.task`, `c.seed` and the generator counter, the low
eight bits of the predicates, the digest, the tag and the offset of the load; vectors are idle, and `c.tvec` is the dike's there. -/
structure TakesContext (r u : Thread) (tvec : Nat) : Prop where
  scalars : ∀ n < 32, (u.sreg n).st = .full ∧ (u.sreg n).val = (r.sreg n).val
  preds : ∀ n, 0 < n → n < 8 → (u.preg n).val.toNat = (r.preg n).val.toNat % 256
  vectors : u.v = []
  names : u.task = r.task ∧ u.seed = r.seed ∧ u.gen = r.gen
  place : u.digest = r.digest % 2 ^ 256 ∧ u.pc = r.pc % 2 ^ 32 ∧ u.tag = r.tag % 2 ^ 32
  banks : u.bank1 = Bank.zero ∧ u.bank0 = Bank.zero ∧ u.level = r.level
  goes : u.live = r.live ∧ u.wait = .no ∧ u.roam = true ∧ u.tvec = BitVec.ofNat 64 tvec

/-- R95, R96, R118: the thread leaves once its older loads have filled and its stores performed, in a packet of its scalars, its task and its
place that its slice's router takes; the guest slot that the packet reaches takes them, the load goes again there, and the origin slot is
free. One whose reservation has gone asks again. -/
def ThreadsMigrate : Prop :=
  ∀ (s : State) (ep g : Nat) (e : Bool), let thr := thrOf ep; let r := s.thread thr
    (r.prog = .migrate (some g) .draining e →
      ((r.loadq ≠ [] ∨ r.fills ≠ [] ∨ r.late.isSome = true) → exec (.migrationDrainDone ep) s = .next s)
      ∧ ((∃ e ∈ (s.core (coreOf ep)).sb, e.slot = slotNo ep ∧ e.phase ≠ .performed) → exec (.migrationDrainDone ep) s = .next s)
      ∧ (r.loadq = [] → r.fills = [] → r.late = none → (∀ e ∈ (s.core (coreOf ep)).sb, e.slot = slotNo ep → e.phase = .performed) →
        (s.guestHeld thr g (s.jobOf ep) = true → s.inputReady (sliceOf ep) 4 3 = false → exec (.migrationDrainDone ep) s = .next s)
        ∧ (s.guestHeld thr g (s.jobOf ep) = true → s.inputReady (sliceOf ep) 4 3 = true → sliceOf ep % 256 < 160 →
          ∃ t, exec (.migrationDrainDone ep) s = .next t
          ∧ t.thread thr = { r with prog := .migrate (some g) .sent e, roamTime := s.timeAt ep } ∧ SlotOnly s t ep
          ∧ t.inputQ (sliceOf ep) 4 3 = s.inputQ (sliceOf ep) 4 3 ++ [s.contextPacket ep g] ∧ (noFar s (stkOf ep) → MemorySame s t))
        ∧ (s.guestHeld thr g (s.jobOf ep) = false → ∃ t, exec (.migrationDrainDone ep) s = .next t
          ∧ t.thread thr = { r with prog := .none, wait := .no } ∧ SlotOnly s t ep ∧ MemorySame s t)))
    ∧ (r.prog = .migrate (some g) .sent e → let all := (s.slice (sliceOf g)).ctxs
      (∀ bs poff, s.guestHeld thr g (s.jobOf ep) = true → thrOf g ≠ thr →
        all.find? (fun bs => leAt bs 60 4 == ep && leAt bs 64 8 == r.roamTime) = some bs → bs.drop 16 = r.context poff ep r.roamTime →
        ∃ t, exec (.contextPacketArrival ep) s = .next t
        ∧ t.thread thr = Thread.none ∧ TakesContext r (t.thread (thrOf g)) ((s.stack (stkOf g)).dike (s.jobOf ep) 16 8)
        ∧ (∀ k, k ≠ thr → k ≠ thrOf g → t.thread k = s.thread k) ∧ MemorySame s t)
      ∧ (s.guestHeld thr g (s.jobOf ep) = true → all.find? (fun bs => leAt bs 60 4 == ep && leAt bs 64 8 == r.roamTime) = none →
        ∃ t, exec (.contextPacketArrival ep) s = .next t ∧ ThreadsSame s t ∧ MemorySame s t)
      ∧ (s.guestHeld thr g (s.jobOf ep) = false → ∃ t, exec (.contextPacketArrival ep) s = .next t
        ∧ t.thread thr = { r with prog := .none, wait := .no } ∧ SlotOnly s t ep ∧ MemorySame s t))

/-- A thread at a task's first instruction: `fp` and `sp` at the linkage record, nothing traps, no other register but the arguments set. -/
def Started (s t : State) (ep : Nat) (e : ReadyEnt) (g : Nat) : Prop :=
  let r := t.thread (thrOf ep)
  r.live = true ∧ r.task = BitVec.ofNat 64 e.task ∧ r.seed = BitVec.ofNat 64 e.task ∧ r.pc = 0 ∧ r.level = 0 ∧ r.region = some g
    ∧ r.tvec = BitVec.ofNat 64 ((s.stack (stkOf ep)).dike e.dike 16 8) ∧ r.v = [] ∧ r.p = []
    ∧ (∀ n, 6 ≤ n → n < 30 → r.sreg n = Thread.none.sreg n) ∧ (∀ n, 1 ≤ n → n < 6 → (r.sreg n).st = .full)
    ∧ r.sreg 30 = Cell.full (BitVec.ofNat 64 (s.regionTop e.dike g - 64)) ∧ r.sreg 31 = Cell.full (BitVec.ofNat 64 (s.regionTop e.dike g - 64))

/-- A task starts in a slot, or a fault on a system area has stopped its dike's dispatch (R15): then the slot is as it was, and the task ready. -/
def StartsOrStops (s t : State) (ep : Nat) (e : ReadyEnt) (g : Nat) : Prop :=
  let stopped := (t.stack (stkOf ep)).dikeStopped.has e.dike
  SlotOnly s t ep ∧ (stopped = false → Started s t ep e g)
    ∧ (stopped = true → t.thread (thrOf ep) = s.thread (thrOf ep) ∧ e ∈ (t.stack (stkOf ep)).ready)

/-- R402, R404, R408, R410, R427: an empty slot takes the first task that may run there, which starts with its region, or goes on with the context
that it left, in another polder without its image; a slot that takes no work, or a guest slot that finds none, stays empty. -/
def SlotsDispatch : Prop :=
  ∀ (s : State) (ep first : Nat),
    (s.takesWork ep = false → exec (.slotDispatch ep first) s = .next s)
    ∧ (s.takesWork ep = true → s.nextEntry ep = none → 6 ≤ slotNo ep → exec (.slotDispatch ep first) s = .next s)
    ∧ ∀ e s2, s.takesWork ep = true → s.nextEntry ep = some e → (s.dropEntry (stkOf ep) (polOf ep) e).entCancelled (stkOf ep) e = (false, s2) →
      (∀ g, e.saved = false → s2.regionFor (stkOf ep) e.dike e.task = some g → ∃ t, exec (.slotDispatch ep first) s = .next t
        ∧ StartsOrStops s2 t ep e g)
      ∧ (∀ x s3, e.saved = true → s2.takeSaved (stkOf ep) e.dike e.task = some (x, s3) → x.thr.withdrawn = none →
        ∃ t, exec (.slotDispatch ep first) s = .next t ∧ SlotOnly s2 t ep
          ∧ let base := { x.thr with tvec := BitVec.ofNat 64 ((s3.stack (stkOf ep)).dike x.dike 16 8) }
            t.thread (thrOf ep) = if polOf ep = polOf x.ep then base
              else { base with img := 16, was := x.thr.efnSlot, runs := x.thr.runs.map fun r => (r.1, 16) })

/-- R365, R411, R412: an empty job slot without a task searches level by level: it takes the oldest live entry of the first victim, whose place
becomes a tombstone and whose continuation goes on in the slot with the record's registers, or starts the task that takes the upper half of
the first ranged task that splits; where nothing is found the core waits to retry, and its timer then does the same for its lowest
empty slot. -/
def SlotsSteal : Prop :=
  ∀ (s : State) (ev : Instr) (ep first : Nat),
    (ev = .slotDispatch ep first ∨ ev = .stealRequest ep first
      ∨ (ev = .stealRetryTimer (coreOf ep) first ∧ (s.core (coreOf ep)).retry = true ∧ epOf (coreOf ep) (slotNo ep) = ep
        ∧ ∀ i < slotNo ep, s.takesWork (epOf (coreOf ep) i) = false)) →
    s.takesWork ep = true → slotNo ep < 6 → s.nextEntry ep = none →
    (∀ level < 4, (∀ l < level, s.victims l ep first = [] ∧ s.rangers l ep first = []) →
      (∀ core rest i e all s1, s.victims level ep first = core :: rest → (s.core core).stealable = some (i, e) →
        s.sysRead (stkOfCore core) (s.jobOf ep) ((e.recVa + 2 ^ 64 - 128) % 2 ^ 64) 192 = (.ok all, s1) →
        leAt (all.drop 128) 56 8 = 0 → leAt (all.drop 128) 34 2 < 2 →
        ∃ t, exec ev s = .next t ∧ (t.thread (thrOf ep)).live = true ∧ (t.thread (thrOf ep)).task = (s.thread (core * 8 + e.slot)).task
          ∧ (t.thread (thrOf ep)).digest = leAt (all.drop 128) 0 32
          ∧ (∀ j < 12, (t.thread (thrOf ep)).sreg (16 + j) = Cell.full (BitVec.ofNat 64 (leAt all (8 * j) 8)))
          ∧ (t.thread (thrOf ep)).sreg 30 = Cell.full (BitVec.ofNat 64 (leAt (all.drop 128) 48 8))
          ∧ (t.thread (thrOf ep)).sreg 31 = Cell.full (BitVec.ofNat 64 (e.recVa + 64)) ∧ SlotOnly s t ep
          ∧ ∃ d, (t.core core).deque[i]? = some d ∧ d.live = false ∧ d.recVa = e.recVa)
      ∧ (∀ thr rest e s1 s2 g, s.victims level ep first = [] → s.rangers level ep first = thr :: rest →
        s.splitOf (stkOf ep) thr = some (e, s1) →
        (s1.modCore (coreOf ep) fun c => { c with retry := false }).entCancelled (stkOf ep) e = (false, s2) → s2.eligible ep e = true →
        s2.regionFor (stkOf ep) e.dike e.task = some g → ∃ t, exec ev s = .next t ∧ StartsOrStops s2 t ep e g ∧ e.saved = false
          ∧ e.dike = (s.polder (thr / 64)).dike))
    ∧ ((∀ level < 4, s.victims level ep first = [] ∧ s.rangers level ep first = []) → ∃ t, exec ev s = .next t
      ∧ t.core (coreOf ep) = { s.core (coreOf ep) with retry := true } ∧ MemorySame s t ∧ ThreadsSame s t)

/-- R413: the token grants a request when at least twice as many tasks are waiting here, adds the package's own, and goes to the next package of
the dike. -/
def TokensCirculate : Prop :=
  (∀ (s : State) (dike : Nat), let k := s.token dike
    s.dikePkgs dike ≠ [] → k.seen = false →
    (k.reqs = [] → let want := min 64 (s.emptySlots k.pkg dike)
      ∃ t, exec (.loadTokenVisit dike) s = .next t ∧ MemorySame s t ∧ ThreadsSame s t
        ∧ t.tokens.find? dike = some { pkg := k.pkg, seen := true, reqs := if want = 0 then [] else [(k.pkg, want)] })
    ∧ ∀ dst n, k.reqs = [(dst, n)] → dst ≠ k.pkg → 2 * n ≤ (s.surplus k.pkg dike).length →
      ∃ t r, exec (.loadTokenVisit dike) s = .next t ∧ t.tokens.find? dike = some r ∧ (dst, n) ∉ r.reqs
        ∧ (t.stack (dst * 4)).ready.length = (s.stack (dst * 4)).ready.length + n ∧ (t.surplus k.pkg dike).length + n = (s.surplus k.pkg dike).length
        ∧ ThreadsSame s t)
  ∧ ∀ (s : State) (dike : Nat), let k := s.token dike; let l := s.dikePkgs dike
    (l = [] → exec (.tokenHoldExpiry dike) s = .next s)
    ∧ ∀ nxt, nxt ∈ l → (k.pkg < nxt ∧ (∀ p ∈ l, k.pkg < p → nxt ≤ p) ∨ (∀ p ∈ l, p ≤ k.pkg) ∧ ∀ p ∈ l, nxt ≤ p) → List.Pairwise (· < ·) l →
      ∃ t, exec (.tokenHoldExpiry dike) s = .next t ∧ t.tokens.find? dike = some { k with pkg := nxt, seen := false } ∧ MemorySame s t
        ∧ ThreadsSame s t

/-- R406, R456: a release unit takes its oldest list; a task's attributes come from a directory or the cache of its stack, and its image is asked for
when neither has it. -/
def TasksAreReleasedAndLookedUp : Prop :=
  (∀ (s : State) (sl dike list time : Nat) (rest : List (Nat × Nat × Nat)), (s.slice sl).rel = (dike, list, time) :: rest →
    ∃ t, exec (.releaseUnitWalk sl) s = .next t ∧ ThreadsSame s t ∧ (list = 0 → (t.slice sl).rel = rest ∧ MemorySame s t))
  ∧ (∀ (s s1 : State) (stk dike task digest : Nat) (e : ReadyEnt), s.entryOf stk dike task = some e → e.saved = false → e.attrs = none →
    s.sysNum stk dike (s.tcbDigest stk dike task) 32 = (digest, s1) →
    (∀ a, (s1.directoryAttrs stk digest = some a ∨ s1.directoryAttrs stk digest = none ∧ (s1.stack stk).cacheAttrs digest = some a) →
      gangAttrs a = 0 → ∃ t, exec (.entryAttributeLookup stk dike task) s = .next t ∧ ThreadsSame s1 t ∧ MemorySame s1 t
        ∧ (t.stack stk).ready = (s1.stack stk).ready.map fun e => if e.dike = dike ∧ e.task = task then { e with attrs := some a } else e)
    ∧ (∀ pol, s1.directoryAttrs stk digest = none → (s1.stack stk).cacheAttrs digest = none →
      (∀ x ∈ s1.polders, ∀ f ∈ x.2.fetches, f.digest ≠ digest) → (s1.dikePolders dike).find? (fun p => stkOfPol p == stk) = some pol →
      ∃ t f, exec (.entryAttributeLookup stk dike task) s = .next t ∧ (t.polder pol).fetches = (s1.polder pol).fetches ++ [f] ∧ f.digest = digest
        ∧ f.wanted = true ∧ f.source = 2 ∧ ThreadsSame s1 t ∧ MemorySame s1 t))
  ∧ ∀ (s : State) (stk dike task a core n : Nat) (e : ReadyEnt) (rest : SMap Nat), s.entryOf stk dike task = some e → e.saved = false →
    e.attrs = some a → gangAttrs a ≠ 0 → (∀ x ∈ s.polders, stkOfPol x.1 = stk → x.2.dike = e.dike → x.2.drain = none) →
    s.drainChoices stk e (gangWidth a) = (n, core) :: rest →
    ∃ t d, exec (.entryAttributeLookup stk dike task) s = .next t ∧ (t.polder (core / 8)).drain = some d ∧ d.task = e.task ∧ d.leader = core
      ∧ d.width = gangWidth a ∧ (∀ c ∈ donorsOf core (gangWidth a), (t.core c).gang.reserved = true) ∧ ThreadsSame s t ∧ MemorySame s t

/-- R415: 20 us after a drain began the donors' threads are pre-empted; once every donor is empty the gang task starts in the leader. -/
def GangsDrain : Prop :=
  ∀ (s : State) (pol : Nat) (d : Drain), (s.polder pol).drain = some d → let stk := stkOfPol pol
    (s.podTime (pol / 2 ^ 15) < d.start + 80000 → exec (.gangDrainTimeout pol) s = .next s)
    ∧ (d.forced = false → d.start + 80000 ≤ s.podTime (pol / 2 ^ 15) → ∃ t, exec (.gangDrainTimeout pol) s = .next t
      ∧ (t.polder pol).drain = some { d with forced := true }
      ∧ (∀ c ∈ donorsOf d.leader d.width, ∀ i < 7, (s.thread (c * 8 + i)).live = true → (t.thread (c * 8 + i)).swap = true)
      ∧ (∀ k, k / 8 ∉ d.leader :: donorsOf d.leader d.width → t.thread k = s.thread k) ∧ MemorySame s t)
    ∧ (s.entryOf stk (s.polder pol).dike d.task = none → ∃ t, exec (.gangDrainDone pol) s = .next t ∧ (t.polder pol).drain = none
      ∧ (∀ c ∈ donorsOf d.leader d.width, (t.core c).gang.reserved = false) ∧ MemorySame s t ∧ ThreadsSame s t)
    ∧ ∀ e s2 g i, s.entryOf stk (s.polder pol).dike d.task = some e → s.entCancelled stk e = (false, s2) → e.ordered = false →
      ((∃ c ∈ donorsOf d.leader d.width, ∃ i < 7, (s.thread (c * 8 + i)).live = true) → ∃ t, exec (.gangDrainDone pol) s = .next t
        ∧ ThreadsSame s2 t ∧ (t.polder pol).drain = some d)
      ∧ ((∀ c ∈ donorsOf d.leader d.width, ∀ i < 7, (s.thread (c * 8 + i)).live = false) → (s.thread (d.leader * 8 + 6)).live = false →
        (List.range 6).find? (fun i => s2.takesWork (epOf d.leader i)) = some i → s2.regionFor stk e.dike e.task = some g →
        stkOf (epOf d.leader i) = stk → (s2.polder pol).gangs = (s.polder pol).gangs →
        ∃ t, exec (.gangDrainDone pol) s = .next t ∧ (t.polder pol).drain = none ∧ StartsOrStops s2 t (epOf d.leader i) e g
          ∧ ((t.stack stk).dikeStopped.has e.dike = false → (t.polder pol).gangs = (s.polder pol).gangs ++ [(d.task, d.leader, d.width)]))

/-- An address that an agent of a stack may use for a system area (R15). -/
def AreaAt (va : Nat) : Prop := inWindows va = false ∧ canonical va = true

/-- R14, R361, R416: a core's tiles, contexts and tag state go to its save area, and come back from it; an area that cannot be read leaves
reset values and stops its dike's dispatch. What lies where in the area is the model's choice where R14 leaves it open (log 104). -/
def CoresAreKept : Prop :=
  (∀ (s : State) (core : Nat), let old := (s.polder (core / 8)).dike; let t := s.saveCore core
    (∃ x, t.jobs.find? (savedCoreKey old core) = some x ∧ x.area = s.saveArea core ∧ x.copies = (s.core core).copies
      ∧ x.putStops = (s.core core).putStops ∧ x.gang = (s.core core).gang)
    ∧ (∀ s1, (s.freeSpill core).sysWrite (stkOfCore core) old (s.saveArea core) (s.core core).saveBytes = (.ok (), s1) → MemorySame s1 t)
    ∧ ((s.stack (stkOfCore core)).rootless old = true → AreaAt (s.saveArea core) → SMap.wf (s.stack (stkOfCore core)).areas = true → ∀ i < 8576,
      (t.stack (stkOfCore core)).areas.getD (areaKey old (s.saveArea core + i)) 0 = (s.core core).saveBytes.getD i 0))
  ∧ (∀ (s : State) (core dike : Nat), let k := (s.restoreCore core dike).core core
    (s.jobs.find? (savedCoreKey dike core) = none → k = (s.core core).fresh)
    ∧ (∀ x bs s1, s.jobs.find? (savedCoreKey dike core) = some x → s.sysRead (stkOfCore core) dike x.area 8576 = (.ok bs, s1) →
      k = { (s1.core core).fresh.fromBytes bs with copies := x.copies, putStops := x.putStops, gang := x.gang })
    ∧ (∀ x c va s1, s.jobs.find? (savedCoreKey dike core) = some x → s.sysRead (stkOfCore core) dike x.area 8576 = (.error (c, va), s1) →
      k = { (s1.core core).fresh with copies := x.copies, putStops := x.putStops, gang := x.gang }
        ∧ ((s.restoreCore core dike).stack (stkOfCore core)).dikeStopped.has dike = true))
  ∧ ∀ c b : Core, let k := b.fromBytes c.saveBytes
    (∀ n < 8, (∀ i < 256, ((k.acc.getD n { elem := [], poison := false }).elem.getD i 0) = (c.acc.getD n { elem := [], poison := false }).elem.getD i 0)
      ∧ (k.acc.getD n { elem := [], poison := false }).poison = (c.acc.getD n { elem := [], poison := false }).poison)
    ∧ k.mweight = c.mweight ∧ k.tg = c.tg ∧ k.tagStop = c.tagStop ∧ k.xmask = c.xmask ∧ k.hold2 = c.hold2 ∧ k.hold1 = c.hold1 ∧ k.depth = c.depth
    ∧ (∀ tag < 64, k.tagCount.getD tag 0 = min (c.tagCount.getD tag 0) 8191)
    ∧ (c.ctx.afmt < 256 → k.ctx.afmt = c.ctx.afmt) ∧ (c.ctx.bfmt < 256 → k.ctx.bfmt = c.ctx.bfmt)
    ∧ (c.ctx.accfmt < 256 → k.ctx.accfmt = c.ctx.accfmt) ∧ (c.ctx.mode < 256 → k.ctx.mode = c.ctx.mode)

/-- R361, R416: a job switch stops the polder and pre-empts its threads, waits until they and its matrix queues are empty, keeps what the leaving job
had in its cores, and gives the entering one what it had left, or reset values, with its dike's trap vector in the system slots. -/
def JobsSwitch : Prop :=
  ∀ (s : State) (pol dike : Nat), let stk := stkOfPol pol; let old := (s.polder pol).dike
    ((s.polder pol).stopped = false → ∀ hs, ∃ t, exec (.jobSwitch pol dike hs) s = .next t ∧ (t.polder pol).stopped = true
      ∧ (t.polder pol).drain = none ∧ (t.polder pol).dike = old
      ∧ (∀ c < 8, ∀ i < 7, (s.thread (pol * 64 + c * 8 + i)).live = true → (t.thread (pol * 64 + c * 8 + i)).swap = true)
      ∧ (∀ k, k / 64 ≠ pol → t.thread k = s.thread k) ∧ MemorySame s t)
    ∧ ((s.polder pol).stopped = true → s.switchQuiet pol = false → ∀ hs, exec (.jobSwitch pol dike hs) s = .next s)
    ∧ ((s.polder pol).stopped = true → s.switchQuiet pol = true → old ≠ dike →
      (∀ c < 8, ∀ x, s.jobs.find? (savedCoreKey dike (pol * 8 + c)) = some x → x.copies = []) → SMap.wf s.jobs = true →
      (∀ c < 8, (s.core (pol * 8 + c)).copies = []) →
      ∃ t, exec (.jobSwitch pol dike []) s = .next t ∧ (t.polder pol).dike = dike ∧ (t.polder pol).stopped = false
        ∧ (∀ c < 8, (t.thread (pol * 64 + c * 8 + 7)).live = true →
          (t.thread (pol * 64 + c * 8 + 7)).tvec = BitVec.ofNat 64 ((s.stack stk).dike dike 16 8))
        ∧ (∀ c < 8, let k := t.core (pol * 8 + c)
          k.up = 8 ∧ k.down = 8 ∧ k.chan = []
          ∧ match s.jobs.find? (savedCoreKey dike (pol * 8 + c)) with
            | some x => k.gang = x.gang ∧ k.putStops = x.putStops ∧ ((s.stack stk).rootless dike = true → AreaAt x.area → (s.polder pol).tcache = [] → SMap.wf (s.stack stk).areas = true →
                let f := Core.reset.fromBytes ((List.range 8576).map fun i => (s.stack stk).areas.getD (areaKey dike (x.area + i)) 0)
                k.acc = f.acc ∧ k.ctx = f.ctx ∧ k.mweight = f.mweight ∧ k.tg = f.tg ∧ k.tagCount = f.tagCount ∧ k.tagStop = f.tagStop
                  ∧ k.xmask = f.xmask ∧ k.hold2 = f.hold2 ∧ k.hold1 = f.hold1 ∧ k.depth = f.depth)
            | none => k.acc = Core.reset.acc ∧ k.ctx = Core.reset.ctx ∧ k.mweight = Core.reset.mweight ∧ k.tg = Core.reset.tg
                ∧ k.tagCount = [] ∧ k.tagStop = 0 ∧ k.xmask = 0 ∧ k.gang = Core.reset.gang)
        ∧ (old ≠ 0 → ∀ c < 8, ∃ x, t.jobs.find? (savedCoreKey old (pol * 8 + c)) = some x ∧ x.gang = (s.core (pol * 8 + c)).gang
            ∧ x.area = s.saveArea (pol * 8 + c)))

end Sys2Proof.Claims

/-! ## Scheduling and migration (chapters 03 and 17) -/

/-- R93 to R96, R118: a thread moves to its data. -/
def Obligations.GuestsTravel : Prop := GuestsAreReserved ∧ ThreadsMigrate

/-- R365, R402, R404, R406, R408, R410 to R413, R427, R456: what fills an empty slot. -/
def Obligations.WorkIsDistributed : Prop := SlotsDispatch ∧ SlotsSteal ∧ TokensCirculate ∧ TasksAreReleasedAndLookedUp

/-- R14, R361, R415, R416: gangs and jobs. -/
def Obligations.GangsAndJobsChange : Prop := GangsDrain ∧ CoresAreKept ∧ JobsSwitch
namespace Sys2Proof.Claims

/-- A slot issues from an image of its polder's code store: nothing is pending on it, and its offset is a first word inside the code. -/
structure IssuesFrom (s : State) (ep : Nat) (im : Image) : Prop where
  issues : ({ s with cur := ep } : State).issues ep = true
  stays : (s.thread (thrOf ep)).swap = false
  late : (s.thread (thrOf ep)).late = none
  entry : (s.thread (thrOf ep)).entry = none
  moving : (s.thread (thrOf ep)).moving = false
  found : (∀ p, (s.thread (thrOf ep)).prog ≠ .guest p) ∧ (s.thread (thrOf ep)).prog ≠ .start
    ∧ (∀ r a b c, (s.thread (thrOf ep)).prog ≠ .stolen r a b c) ∧ ∀ r e h, (s.thread (thrOf ep)).prog ≠ .scatter r e h
  image : (s.polder (polOf ep)).code.find? (s.thread (thrOf ep)).img = some im
  digest : im.digest = (s.thread (thrOf ep)).digest
  tag : im.tag = (s.thread (thrOf ep)).tag
  target : targetOk im.code (s.thread (thrOf ep)).pc = true

/-- The words at a slot's offset in the image it runs. -/
def wordAt (s : State) (ep : Nat) (im : Image) (k : Nat) : Nat := codeWord im.code ((s.thread (thrOf ep)).pc / 4 + k)

/-- Encodings that only slot 7 may run (R239, R240, R241). -/
def privileged : Instr → Prop
  | .park _ => True
  | .wake _ => True
  | .halt => True
  | .cinst _ => True
  | .cdrop _ => True
  | .tlbi _ _ _ => True
  | .scrub _ _ => True
  | .getc _ n => n = 0x100 ∨ n = 0x101 ∨ n = 0x102
  | .setc n _ => n = 0x100 ∨ n = 0x101 ∨ n = 0x102
  | _ => False

/-- A pair of words raises `ILLEGAL` by its encoding (R243). -/
def illegal (w w2 : Nat) : Prop := ∃ e, decodeWords w w2 = .error e ∧ (decodeTrap e w w2).1 = 0x01

/-- R225: the codes of `ord` in `ld` and `st`, with the sizes that each allows. -/
def OrdCodes : Prop :=
  ∀ d a sz off : Nat, d < 32 → a < 32 → a ≠ 29 → off < 2048 →
    (∀ z, d ≠ 28 → d ≠ 29 → Sz.ofCode sz = some z →
      decodeWords (packM 0x18 d a 0 sz off) 0 = .ok (.ld d a z (BitVec.ofNat 11 off))
      ∧ decodeWords (packM 0x18 d a 1 sz off) 0 = .ok (.ldAcq d a z (BitVec.ofNat 11 off))
      ∧ ((z = .w ∨ z = .ws ∨ z = .d) → decodeWords (packM 0x18 d a 2 sz off) 0 = .ok (.ldSync d a z (BitVec.ofNat 11 off))
        ∧ decodeWords (packM 0x18 d a 3 sz off) 0 = .ok (.ldTake d a z (BitVec.ofNat 11 off)))
      ∧ (¬(z = .w ∨ z = .ws ∨ z = .d) → illegal (packM 0x18 d a 2 sz off) 0 ∧ illegal (packM 0x18 d a 3 sz off) 0))
    ∧ (∀ z, d ≠ 29 → sz < 4 → Sz.ofCode sz = some z →
      decodeWords (packM 0x19 d a 0 sz off) 0 = .ok (.st d a z (BitVec.ofNat 11 off))
      ∧ decodeWords (packM 0x19 d a 1 sz off) 0 = .ok (.stRel d a z (BitVec.ofNat 11 off))
      ∧ ((z = .w ∨ z = .d) → decodeWords (packM 0x19 d a 2 sz off) 0 = .ok (.stFill d a z (BitVec.ofNat 11 off))
        ∧ decodeWords (packM 0x19 d a 3 sz off) 0 = .ok (.stRelfill d a z (BitVec.ofNat 11 off)))
      ∧ (¬(z = .w ∨ z = .d) → illegal (packM 0x19 d a 2 sz off) 0 ∧ illegal (packM 0x19 d a 3 sz off) 0))
    ∧ (∀ ord, ord < 4 → 4 ≤ sz → sz < 8 → illegal (packM 0x19 d a ord sz off) 0)

/-- R229: the combine codes of `sol`, and how each merges two values. -/
def CombineCodes : Prop :=
  (∀ d a b imp scope sc : Nat, 1 ≤ d → d ≤ 26 → a < 32 → b < 32 → a ≠ 29 → b ≠ 29 → imp < 65536 → 1 ≤ scope → scope ≤ 4 → sc < 16 →
    ∀ z, Scope.ofCode scope = some z →
      let w := packS 0x35 d a b 0 0
      let w2 := imp * 2 ^ 16 + scope * 2 ^ 4 + sc
      (sc = 0 → decodeWords w w2 = .ok (.sol d a b imp z .addI64)) ∧ (sc = 1 → decodeWords w w2 = .ok (.sol d a b imp z .maxI64))
      ∧ (sc = 2 → decodeWords w w2 = .ok (.sol d a b imp z .minI64)) ∧ (sc = 3 → decodeWords w w2 = .ok (.sol d a b imp z .orI64))
      ∧ (sc = 4 → decodeWords w w2 = .ok (.sol d a b imp z .addF32)) ∧ (sc = 5 → decodeWords w w2 = .ok (.sol d a b imp z .maxF32))
      ∧ (sc = 6 → decodeWords w w2 = .ok (.sol d a b imp z .count)) ∧ (7 ≤ sc → illegal w w2))
  ∧ ∀ a b : W64, combine .addI64 a b = a + b ∧ (combine .maxI64 a b).toInt = max a.toInt b.toInt ∧ (combine .minI64 a b).toInt = min a.toInt b.toInt
    ∧ combine .orI64 a b = a ||| b ∧ combine .addF32 a b = (f32Add (a.setWidth 32) (b.setWidth 32)).setWidth 64
    ∧ combine .maxF32 a b = (f32Max (a.setWidth 32) (b.setWidth 32)).setWidth 64 ∧ combine .count a b = 0

/-- R298: the layout of `rpt`. -/
def RptLayout : Prop :=
  ∀ len a str z : Nat, len < 16 → a < 32 → str < 16 → z < 8192 →
    let w := 0x15 * 2 ^ 26 + len * 2 ^ 22 + a * 2 ^ 17 + str * 2 ^ 13 + z
    (z = 0 → a ≠ 29 → decodeWords w 0 = .ok (.rpt (len + 1) a str) ∧ encode (.rpt (len + 1) a str) = [w])
    ∧ ((z ≠ 0 ∨ a = 29) → illegal w 0)

/-- R339: the functions of major 0x27. -/
def VqFunctions : Prop :=
  ∀ vd va vb vc pr fn : Nat, vd < 16 → va < 16 → vb < 16 → vc < 16 → pr < 8 → fn < 128 →
    let w := packV 0x27 vd va vb vc pr fn
    (fn = 0 → vb = 0 → vc = 0 → decodeWords w 0 = .ok (.vscl vd va pr))
    ∧ (fn = 1 → vb = 0 → vc = 0 → (pr = 0 → decodeWords w 0 = .ok (.vmaxx vd va) ∧ unportable w = true) ∧ (pr ≠ 0 → illegal w 0))
    ∧ (fn = 2 → vc = 0 → decodeWords w 0 = .ok (.comp vd va vb pr))
    ∧ (fn = 3 → vc = 0 → decodeWords w 0 = .ok (.dcomp vd va vb pr))
    ∧ (4 ≤ fn → illegal w 0)
    ∧ (fn < 4 → vc ≠ 0 → illegal w 0) ∧ (fn < 2 → vb ≠ 0 → illegal w 0)

/-- R226: the codes of `cc`. -/
def CcCodes : Prop :=
  ∀ cc a b disp : Nat, cc < 16 → a < 32 → b < 32 → a ≠ 29 → b ≠ 29 → disp < 4096 →
    (∀ c, Cc.ofCode cc = some c → cc < 6 → decodeWords (packB 0x10 cc a b disp) 0 = .ok (.br c a b (BitVec.ofNat 12 disp)))
    ∧ (∀ c, Cc.ofCode cc = some c → 6 ≤ cc → (b = 0 → decodeWords (packB 0x10 cc a b disp) 0 = .ok (.br c a b (BitVec.ofNat 12 disp)))
      ∧ (b ≠ 0 → illegal (packB 0x10 cc a b disp) 0))
    ∧ (8 ≤ cc → illegal (packB 0x10 cc a b disp) 0)

/-- Chapters 06 and 07: a fetch that meets a parity error removes the image's entry, parks the thread at its instruction in a code fault that
asks for the image's tag unless the polder is already fetching the digest (log 53), and writes a kind-10 record. -/
def ParityTurn : Prop :=
  ∀ (s : State) (ep : Nat) (im : Image) (rest : List Turn), s.agenda = .parity ep :: rest → IssuesFrom s ep im →
    let pol := polOf ep
    let r := s.thread (thrOf ep)
    SMap.wf (s.polder pol).code = true → (∀ e ∈ (s.polder pol).code, e.1 < 16 ∧ (e.2.digest = im.digest → e.1 = r.img)) →
    ∃ t x, step s = .next t ∧ (t.polder pol).code.find? r.img = none
      ∧ (∀ k, k ≠ r.img → (t.polder pol).code.find? k = (s.polder pol).code.find? k)
      ∧ (t.thread (thrOf ep)).wait = .code im.digest ∧ (t.thread (thrOf ep)).pc = r.pc ∧ (t.thread (thrOf ep)).tag = im.tag
      ∧ (∀ n, (t.thread (thrOf ep)).sreg n = r.sreg n) ∧ (∀ k, k / 64 ≠ pol → t.thread k = s.thread k)
      ∧ (∃ f ∈ (t.polder pol).fetches, f.digest = im.digest ∧ thrOf ep ∈ f.thrs)
      ∧ ((∀ f ∈ (s.polder pol).fetches, f.digest ≠ im.digest) → ∃ f ∈ (t.polder pol).fetches, f.digest = im.digest ∧ f.tag = some im.tag)
      ∧ (t.stack (stkOf ep)).sramLog.getLast? = some x ∧ leAt x 16 1 = 10 ∧ leAt x 8 2 = polIndex pol ∧ leAt x 24 4 = ep ∧ MemorySame s t

end Sys2Proof.Claims

/-! ## The machine as a whole (chapters 07, 08 and 09) -/

/-- Chapter 09, 12, 13, 14, 15, 16 and 18: words that the spec writes out decode to the instructions that they stand for, and the words that
R243 calls illegal do not. -/
def Obligations.SpecWordsDecode : Prop :=
  decodeWords 0x04834803 0 = .ok (.add 4 3 9 .d)
  ∧ decodeWords 0x08630005 0 = .ok (.addi 3 3 5)
  ∧ decodeWords 0x60645004 0 = .ok (.ldAcq 3 4 .w 4)
  ∧ decodeWords 0x41045FFD 0 = .ok (.br .ltu 2 5 0xFFD)
  ∧ decodeWords 0x44000008 0 = .ok (.jmp 8)
  ∧ decodeWords 0x4C020001 0 = .ok (.call 2 1)
  ∧ decodeWords 0x808D1483 0 = .ok (.vf32Fma 2 3 4 5 1)
  ∧ decodeWords 0x68D00002 0 = .ok (.vld 3 8 0 2)
  ∧ decodeWords 0xD8690020 0 = .ok (.arrive 3 9)
  ∧ decodeWords 0xF8A00000 0x12345678 = .ok (.limm 5 0x12345678)
  ∧ decodeWords 0x7468304B 0 = .ok (.amoCas 3 8 6 .d)
  ∧ decodeWords 0xC4095002 0 = .ok (.mmul 2 9 10)
  ∧ decodeWords 0xD0000000 0x00010002 = .ok (.spawn 1 2)
  ∧ decodeWords 0xE4084840 0 = .ok (.wpost 8 9)
  ∧ decodeWords 0xF00000E0 0 = .ok .halt
  ∧ decodeFor false 0xF00000E0 0 = .error .privileged
  ∧ Claims.illegal 0 0 ∧ Claims.illegal 0x04834805 0 ∧ Claims.illegal 0x42445FFD 0 ∧ Claims.illegal 0x6064C000 0

/-- R219, R222, R231 to R239: the bytes of every well-formed encoded instruction decode to it, with every operand at every value. -/
def Obligations.EncodingsDecodeBack : Prop :=
  ∀ i : Instr, i.isEvent = false → i.wf = true → decodeBytes (encodeBytes i) = .ok i

/-- R222, R243: words that decode are the words of the instruction they decode to, so no bit of them is dropped. -/
def Obligations.DecodingDropsNoBit : Prop :=
  ∀ (w w2 : Nat) (i : Instr), w < 2 ^ 32 → w2 < 2 ^ 32 → decodeWords w w2 = .ok i →
    i.wf = true ∧ i.isEvent = false ∧ encode i = if twoWords w = true then [w, w2] else [w]

/-- R225, R229 and R298, each whole, and the codes of R226 and R339: the field codes and what they stand for. -/
def Obligations.FieldCodesDecode : Prop := Claims.OrdCodes ∧ Claims.CombineCodes ∧ Claims.RptLayout ∧ Claims.VqFunctions ∧ Claims.CcCodes

/-- R188, R219 to R221, R243: a turn runs the instruction that the bytes at the slot's offset decode to, at the state where the slot is the issuing
one, and then time goes on; an encoding that faults takes its trap, and a turn that the agenda gives to an event is that event. A pair's turns
are those of `Claims.TurnsOfUnits`. -/
def Obligations.StepRunsTheDecodedInstruction : Prop :=
  (∀ (s t : State) (ep : Nat) (im : Image) (rest : List Turn) (i : Instr), s.agenda = .issue ep :: rest → Claims.IssuesFrom s ep im →
    let w := Claims.wordAt s ep im 0
    let w2 := Claims.wordAt s ep im 1
    decodeBytes (leBytes 4 w ++ leBytes 4 w2) = .ok i → (slotNo ep = 7 ∨ privilegedWord w = false) →
    (s.thread (thrOf ep)).twin = false → exec i { s with agenda := rest, cur := ep } = .next t → step s = .next t.tick)
  ∧ (∀ (s : State) (ep : Nat) (im : Image) (rest : List Turn) (e : DecodeError), s.agenda = .issue ep :: rest → Claims.IssuesFrom s ep im →
    let w := Claims.wordAt s ep im 0
    let w2 := Claims.wordAt s ep im 1
    decodeFor (slotNo ep == 7) w w2 = .error e → (s.thread (thrOf ep)).twin = false →
    step s = .next (({ s with agenda := rest, cur := ep } : State).trap (if e = .privileged then 0x02 else 0x01)
      (if twoWords w = true then w2 * 2 ^ 32 + w else w)).tick)
  ∧ (∀ (s t : State) (rest : List Turn) (i : Instr), s.agenda = .event i :: rest → i.isEvent = true → exec i { s with agenda := rest } = .next t →
    step s = .next t.tick)
  ∧ ∀ s : State, s.tick.mem = s.mem ∧ s.tick.threads = s.threads ∧ s.tick.cores = s.cores ∧ s.tick.stackRecs = s.stackRecs ∧ s.tick.polders = s.polders
    ∧ s.tick.agenda = s.agenda ∧ s.time ≤ s.tick.time

/-- A code-store parity error, which the model takes as a turn of its own (chapters 06 and 07; the turn is the model's, log 84). -/
def Obligations.ParityErrorsDropImages : Prop := Claims.ParityTurn

/-- R241: slot 7 may run every encoding; job code raises `PRIVILEGE` at exactly the privileged ones, in a trap handler too. -/
def Obligations.PrivilegeBelongsToTheSlot : Prop :=
  (∀ w w2 : Nat, decodeFor true w w2 ≠ .error .privileged)
  ∧ (∀ (w w2 : Nat) (i : Instr), decodeFor true w w2 = .ok i → (Claims.privileged i → decodeFor false w w2 = .error .privileged)
    ∧ (¬Claims.privileged i → decodeFor false w w2 = .ok i))
  ∧ ∀ (s : State) (ep : Nat) (im : Image) (rest : List Turn) (i : Instr), s.agenda = .issue ep :: rest → Claims.IssuesFrom s ep im →
    decodeFor true (Claims.wordAt s ep im 0) (Claims.wordAt s ep im 1) = .ok i → Claims.privileged i → slotNo ep ≠ 7 →
    (s.thread (thrOf ep)).twin = false →
    step s = .next (({ s with agenda := rest, cur := ep } : State).trap 0x02 (Claims.wordAt s ep im 0)).tick

/-- A stated invariant: memory keeps its canonical form in every step, from every state that has it. -/
def Obligations.MemoryKeepsItsForm : Prop :=
  ∀ s t : State, Memory.wf s.mem = true → step s = .next t → Memory.wf t.mem = true

/-- No step ends in a fault or a refusal: a trap, a kill and a wait are next states (chapter 18; the agenda is the model's choice, log 1). -/
def Obligations.EveryStepGoesOn : Prop := ∀ s : State, ∃ t, step s = .next t

/-- R66, R184, R187, R191, R342, R391: after reset every stack waits for its wipe with no service, every slot is empty, memory reads as the wipe
leaves it, the registers of a core have their reset values, and memory is in canonical form. -/
def Obligations.ResetIsCold : Prop :=
  Memory.wf State.reset.mem = true
  ∧ (∀ k, State.reset.thread k = Thread.none ∧ (State.reset.stack k).service = 0 ∧ (State.reset.stack k).wiping = 1
    ∧ (State.reset.stack k).model = 0x5A4400A0 ∧ (State.reset.polder k).dike = 0)
  ∧ (∀ a, State.reset.byte a = 0 ∧ State.reset.poisoned a = false ∧ State.reset.wordFull a = true)
  ∧ ∀ k, (State.reset.core k).xmask = 0 ∧ (State.reset.core k).hold2 = 64 ∧ (State.reset.core k).hold1 = 16 ∧ (State.reset.core k).depth = 1
    ∧ (State.reset.core k).tg = BitVec.allOnes 64 ∧ (State.reset.core k).up = 8 ∧ (State.reset.core k).down = 8
    ∧ (State.reset.core k).chan = []
end

