-- ==== Sys2Proof/Laws/SparseMap.lean ====
section
/-! SUPPORT. Sys2Proof/Laws/SparseMap.lean: reading after writing, and the canonical form, of the finite maps and sets. -/

namespace Sys2Proof.Machine

variable {α : Type}

/-! ## The order of keys -/

/-- Every key of a map is at least a bound. -/
theorem SMap.above_none_of_some {m : SMap α} {l : Nat} (h : SMap.above (some l) m = true) : SMap.above none m = true := by
  cases m with
  | nil => rfl
  | cons e m => simp_all [SMap.above]

theorem SMap.above_mono {m : SMap α} {l l' : Nat} (hl : l' ≤ l) (h : SMap.above (some l) m = true) :
    SMap.above (some l') m = true := by
  cases m with
  | nil => rfl
  | cons e m =>
    simp only [SMap.above, Bool.and_eq_true, decide_eq_true_eq] at h ⊢
    exact ⟨by omega, h.2⟩

@[simp] theorem SMap.wf_nil : SMap.wf ([] : SMap α) = true := rfl

theorem SMap.wf_cons {k : Nat} {v : α} {m : SMap α} : SMap.wf ((k, v) :: m) = true ↔ SMap.above (some k) m = true := by
  simp [SMap.wf, SMap.above]

theorem SMap.wf_tail {e : Nat × α} {m : SMap α} (h : SMap.wf (e :: m) = true) : SMap.wf m = true :=
  SMap.above_none_of_some (SMap.wf_cons.mp h)

/-- A key at or below the bound is not listed. -/
theorem SMap.find?_eq_none_of_above {m : SMap α} : ∀ {l a : Nat}, SMap.above (some l) m = true → a ≤ l → SMap.find? m a = none := by
  induction m with
  | nil => intros; rfl
  | cons e m ih =>
    obtain ⟨k, v⟩ := e
    intro l a h hle
    simp only [SMap.above, Bool.and_eq_true, decide_eq_true_eq] at h
    simp [SMap.find?, show a ≠ k by omega, show a < k by omega]

/-! ## Keeping the order -/

theorem SMap.above_insert {m : SMap α} : ∀ {lo : Option Nat} {a : Nat} {x : α}, SMap.above lo m = true →
    (∀ l, lo = some l → l < a) → SMap.above lo (SMap.insert m a x) = true := by
  induction m with
  | nil =>
    intro lo a x _ hlo
    cases lo with
    | none => rfl
    | some l => simp [SMap.insert, SMap.above, hlo l rfl]
  | cons e m ih =>
    obtain ⟨k, v⟩ := e
    intro lo a x h hlo
    simp only [SMap.above, Bool.and_eq_true] at h
    unfold SMap.insert
    split
    · subst_vars; simp [SMap.above, h]
    · split
      · rename_i hk
        simp only [SMap.above, Bool.and_eq_true, decide_eq_true_eq]
        refine ⟨?_, hk, h.2⟩
        cases lo with
        | none => rfl
        | some l => simpa using hlo l rfl
      · simp only [SMap.above, Bool.and_eq_true]
        exact ⟨h.1, ih h.2 fun l hl => by cases hl; omega⟩

theorem SMap.above_erase {m : SMap α} : ∀ {lo : Option Nat} {a : Nat}, SMap.above lo m = true →
    SMap.above lo (SMap.erase m a) = true := by
  induction m with
  | nil => intro lo a _; cases lo <;> rfl
  | cons e m ih =>
    obtain ⟨k, v⟩ := e
    intro lo a h
    unfold SMap.erase
    have h' := h
    simp only [SMap.above, Bool.and_eq_true] at h
    split
    · cases lo with
      | none => exact SMap.above_none_of_some h.2
      | some l => exact SMap.above_mono (by have := h.1; simp at this; omega) h.2
    · split
      · exact h'
      · simp only [SMap.above, Bool.and_eq_true]; exact ⟨h.1, ih h.2⟩

theorem SMap.above_filter {m : SMap α} (p : Nat × α → Bool) : ∀ {lo : Option Nat}, SMap.above lo m = true →
    SMap.above lo (m.filter p) = true := by
  induction m with
  | nil => intro lo _; cases lo <;> rfl
  | cons e m ih =>
    obtain ⟨k, v⟩ := e
    intro lo h
    simp only [SMap.above, Bool.and_eq_true] at h
    rw [List.filter_cons]
    split
    · simp only [SMap.above, Bool.and_eq_true]; exact ⟨h.1, ih h.2⟩
    · refine ih ?_
      cases lo with
      | none => exact SMap.above_none_of_some h.2
      | some l => exact SMap.above_mono (by have := h.1; simp at this; omega) h.2

theorem SMap.wf_insert {m : SMap α} {a : Nat} {x : α} (h : SMap.wf m = true) : SMap.wf (m.insert a x) = true :=
  SMap.above_insert h fun _ hl => by cases hl

theorem SMap.wf_erase {m : SMap α} {a : Nat} (h : SMap.wf m = true) : SMap.wf (m.erase a) = true := SMap.above_erase h

theorem SMap.wf_filter {m : SMap α} (p : Nat × α → Bool) (h : SMap.wf m = true) : SMap.wf (m.filter p) = true :=
  SMap.above_filter p h

theorem SMap.wf_put [DecidableEq α] {m : SMap α} {d x : α} {a : Nat} (h : SMap.wf m = true) : SMap.wf (m.put d a x) = true := by
  unfold SMap.put; split
  · exact SMap.wf_erase h
  · exact SMap.wf_insert h

/-! ## Reading after writing -/

@[simp] theorem SMap.find?_insert_self {m : SMap α} {a : Nat} {x : α} : (m.insert a x).find? a = some x := by
  induction m with
  | nil => simp [SMap.insert, SMap.find?]
  | cons e m ih =>
    obtain ⟨k, v⟩ := e
    unfold SMap.insert
    split
    · simp [SMap.find?]
    · split
      · simp [SMap.find?]
      · simp_all [SMap.find?]

/-- Insertion leaves every other key as it reads, also when the map is in no order. -/
theorem SMap.find?_insert_ne {m : SMap α} {a b : Nat} {x : α} (hne : b ≠ a) : (m.insert a x).find? b = m.find? b := by
  induction m with
  | nil => simp [SMap.insert, SMap.find?, hne]
  | cons e m ih =>
    obtain ⟨k, v⟩ := e
    unfold SMap.insert
    split
    · subst_vars; simp [SMap.find?, hne]
    · split
      · rename_i hk
        simp only [SMap.find?, hne, if_false]
        by_cases hb : b < a
        · simp [hb, show b ≠ k by omega, show b < k by omega]
        · simp [hb]
      · simp only [SMap.find?, ih]

theorem SMap.getD_insert {m : SMap α} {a b : Nat} {x d : α} : (m.insert a x).getD b d = if b = a then x else m.getD b d := by
  by_cases hb : b = a
  · subst hb; simp [SMap.getD]
  · simp [SMap.getD, hb, SMap.find?_insert_ne hb]

/-- A key that was written reads as the value, also when the map is in no order. -/
@[simp] theorem SMap.getD_insert_self {m : SMap α} {a : Nat} {x d : α} : (m.insert a x).getD a d = x := by
  simp [SMap.getD]

theorem SMap.find?_erase_self {m : SMap α} {a : Nat} (h : SMap.wf m = true) : (m.erase a).find? a = none := by
  induction m with
  | nil => rfl
  | cons e m ih =>
    obtain ⟨k, v⟩ := e
    unfold SMap.erase
    split
    · subst_vars; exact SMap.find?_eq_none_of_above (SMap.wf_cons.mp h) (Nat.le_refl _)
    · split
      · simp_all [SMap.find?]
      · simp_all [SMap.find?, SMap.wf_tail h]

theorem SMap.find?_erase_ne {m : SMap α} {a b : Nat} (hne : b ≠ a) (h : SMap.wf m = true) : (m.erase a).find? b = m.find? b := by
  induction m with
  | nil => rfl
  | cons e m ih =>
    obtain ⟨k, v⟩ := e
    have ih := ih (SMap.wf_tail h)
    unfold SMap.erase
    split
    · subst_vars
      simp only [SMap.find?, hne, if_false]
      split
      · rename_i hk; exact SMap.find?_eq_none_of_above (SMap.wf_cons.mp h) (by omega)
      · rfl
    · split
      · rfl
      · simp only [SMap.find?, ih]

theorem SMap.getD_put [DecidableEq α] {m : SMap α} {a b : Nat} {x d : α} (h : SMap.wf m = true) :
    (m.put d a x).getD b d = if b = a then x else m.getD b d := by
  unfold SMap.put
  split
  · subst_vars
    by_cases hb : b = a
    · subst hb; simp [SMap.getD, SMap.find?_erase_self h]
    · simp [SMap.getD, hb, SMap.find?_erase_ne hb h]
  · exact SMap.getD_insert

/-! ## No entry equals what an unlisted key holds -/

@[simp] theorem SMap.noDefault_nil [DecidableEq α] {d : α} : SMap.noDefault d ([] : SMap α) = true := rfl

theorem SMap.noDefault_insert [DecidableEq α] {m : SMap α} {d x : α} {a : Nat} (hx : x ≠ d) (h : SMap.noDefault d m = true) :
    SMap.noDefault d (m.insert a x) = true := by
  induction m with
  | nil => simp [SMap.noDefault, SMap.insert, hx]
  | cons e m ih =>
    obtain ⟨k, v⟩ := e
    simp only [SMap.noDefault, List.all_cons, Bool.and_eq_true] at h ih ⊢
    unfold SMap.insert
    split
    · simp [h.2, hx]
    · split
      · simp [h.1, h.2, hx]
      · simp only [List.all_cons, Bool.and_eq_true]; exact ⟨h.1, ih h.2⟩

theorem SMap.noDefault_erase [DecidableEq α] {m : SMap α} {d : α} {a : Nat} (h : SMap.noDefault d m = true) :
    SMap.noDefault d (m.erase a) = true := by
  induction m with
  | nil => rfl
  | cons e m ih =>
    obtain ⟨k, v⟩ := e
    have h' := h
    simp only [SMap.noDefault, List.all_cons, Bool.and_eq_true] at h ih ⊢
    unfold SMap.erase
    split
    · exact h.2
    · split
      · exact h'
      · simp only [List.all_cons, Bool.and_eq_true]; exact ⟨h.1, ih h.2⟩

theorem SMap.noDefault_put [DecidableEq α] {m : SMap α} {d x : α} {a : Nat} (h : SMap.noDefault d m = true) :
    SMap.noDefault d (m.put d a x) = true := by
  unfold SMap.put; split
  · exact SMap.noDefault_erase h
  · exact SMap.noDefault_insert ‹_› h

theorem SMap.noDefault_filter [DecidableEq α] {m : SMap α} {d : α} (p : Nat × α → Bool) (h : SMap.noDefault d m = true) :
    SMap.noDefault d (m.filter p) = true := by
  simp only [SMap.noDefault, List.all_eq_true] at h ⊢
  exact fun e he => h e (List.mem_filter.mp he).1

/-- Two canonical maps that read alike at every key are one list. -/
theorem SMap.ext_of_wf {m : SMap α} : ∀ {n : SMap α}, SMap.wf m = true → SMap.wf n = true → (∀ a, m.find? a = n.find? a) → m = n := by
  induction m with
  | nil =>
    intro n _ _ h
    cases n with
    | nil => rfl
    | cons e n => have := h e.1; simp [SMap.find?] at this
  | cons e m ih =>
    obtain ⟨k, v⟩ := e
    intro n hm hn h
    cases n with
    | nil => have := h k; simp [SMap.find?] at this
    | cons e' n =>
      obtain ⟨k', v'⟩ := e'
      have hm' := SMap.wf_cons.mp hm
      have hn' := SMap.wf_cons.mp hn
      have hk : k = k' := by
        rcases Nat.lt_trichotomy k k' with hlt | heq | hgt
        · have := h k
          simp [SMap.find?, show k ≠ k' by omega, hlt] at this
        · exact heq
        · have := h k'
          simp [SMap.find?, show k' ≠ k by omega, hgt] at this
      subst hk
      have hv : v = v' := by have := h k; simpa [SMap.find?] using this
      subst hv
      rw [ih (SMap.wf_tail hm) (SMap.wf_tail hn)]
      intro a
      rcases Nat.lt_trichotomy a k with hlt | heq | hgt
      · rw [SMap.find?_eq_none_of_above hm' (by omega), SMap.find?_eq_none_of_above hn' (by omega)]
      · rw [SMap.find?_eq_none_of_above hm' (by omega), SMap.find?_eq_none_of_above hn' (by omega)]
      · have := h a
        simpa [SMap.find?, show a ≠ k by omega, show ¬ a < k by omega] using this

end Sys2Proof.Machine
end

