-- ==== Sys2Proof/Laws/State.lean ====
section
/-! SUPPORT. Sys2Proof/Laws/State.lean: what each update of the state leaves as it was, one lemma per field, and what it makes of
the record that it changes. -/

namespace Sys2Proof.Machine

/-! ## Records of units -/

@[simp] theorem State.setThread_agenda (s : State) (k : Nat) (x : Thread) : (s.setThread k x).agenda = s.agenda := rfl
@[simp] theorem State.setThread_cur (s : State) (k : Nat) (x : Thread) : (s.setThread k x).cur = s.cur := rfl
@[simp] theorem State.setThread_fresh (s : State) (k : Nat) (x : Thread) : (s.setThread k x).fresh = s.fresh := rfl
@[simp] theorem State.setThread_seq (s : State) (k : Nat) (x : Thread) : (s.setThread k x).seq = s.seq := rfl
@[simp] theorem State.setThread_out (s : State) (k : Nat) (x : Thread) : (s.setThread k x).out = s.out := rfl
@[simp] theorem State.setThread_time (s : State) (k : Nat) (x : Thread) : (s.setThread k x).time = s.time := rfl
@[simp] theorem State.setThread_cores (s : State) (k : Nat) (x : Thread) : (s.setThread k x).cores = s.cores := rfl
@[simp] theorem State.setThread_polders (s : State) (k : Nat) (x : Thread) : (s.setThread k x).polders = s.polders := rfl
@[simp] theorem State.setThread_slices (s : State) (k : Nat) (x : Thread) : (s.setThread k x).slices = s.slices := rfl
@[simp] theorem State.setThread_stackRecs (s : State) (k : Nat) (x : Thread) : (s.setThread k x).stackRecs = s.stackRecs := rfl
@[simp] theorem State.setThread_packages (s : State) (k : Nat) (x : Thread) : (s.setThread k x).packages = s.packages := rfl
@[simp] theorem State.setThread_mem (s : State) (k : Nat) (x : Thread) : (s.setThread k x).mem = s.mem := rfl
@[simp] theorem State.setThread_poison (s : State) (k : Nat) (x : Thread) : (s.setThread k x).poison = s.poison := rfl
@[simp] theorem State.setThread_empties (s : State) (k : Nat) (x : Thread) : (s.setThread k x).empties = s.empties := rfl
@[simp] theorem State.setThread_census (s : State) (k : Nat) (x : Thread) : (s.setThread k x).census = s.census := rfl
@[simp] theorem State.setThread_launches (s : State) (k : Nat) (x : Thread) : (s.setThread k x).launches = s.launches := rfl
@[simp] theorem State.setThread_members (s : State) (k : Nat) (x : Thread) : (s.setThread k x).members = s.members := rfl
@[simp] theorem State.setThread_ended (s : State) (k : Nat) (x : Thread) : (s.setThread k x).ended = s.ended := rfl
@[simp] theorem State.setThread_levels (s : State) (k : Nat) (x : Thread) : (s.setThread k x).levels = s.levels := rfl
@[simp] theorem State.setThread_tokens (s : State) (k : Nat) (x : Thread) : (s.setThread k x).tokens = s.tokens := rfl
@[simp] theorem State.setThread_jobs (s : State) (k : Nat) (x : Thread) : (s.setThread k x).jobs = s.jobs := rfl
@[simp] theorem State.setThread_core (s : State) (k : Nat) (x : Thread) (j : Nat) : (s.setThread k x).core j = s.core j := rfl
@[simp] theorem State.setThread_polder (s : State) (k : Nat) (x : Thread) (j : Nat) : (s.setThread k x).polder j = s.polder j := rfl
@[simp] theorem State.setThread_slice (s : State) (k : Nat) (x : Thread) (j : Nat) : (s.setThread k x).slice j = s.slice j := rfl
@[simp] theorem State.setThread_stack (s : State) (k : Nat) (x : Thread) (j : Nat) : (s.setThread k x).stack j = s.stack j := rfl
@[simp] theorem State.setThread_package (s : State) (k : Nat) (x : Thread) (j : Nat) : (s.setThread k x).package j = s.package j := rfl
@[simp] theorem State.setThread_byte (s : State) (k : Nat) (x : Thread) (pa : Nat) : (s.setThread k x).byte pa = s.byte pa := rfl
@[simp] theorem State.setThread_thread_self (s : State) (k : Nat) (x : Thread) : (s.setThread k x).thread k = x := by
  simp [State.thread, State.setThread]
theorem State.setThread_thread_ne (s : State) (k j : Nat) (x : Thread) (hj : j ≠ k) :
    (s.setThread k x).thread j = s.thread j := by
  simp [State.thread, State.setThread, SMap.getD_insert, hj]
theorem State.setThread_wf (s : State) (k : Nat) (x : Thread) (h : SMap.wf s.threads = true) : SMap.wf (s.setThread k x).threads = true :=
  SMap.wf_insert h

@[simp] theorem State.modThread_agenda (s : State) (k : Nat) (f : Thread → Thread) : (s.modThread k f).agenda = s.agenda := rfl
@[simp] theorem State.modThread_cur (s : State) (k : Nat) (f : Thread → Thread) : (s.modThread k f).cur = s.cur := rfl
@[simp] theorem State.modThread_fresh (s : State) (k : Nat) (f : Thread → Thread) : (s.modThread k f).fresh = s.fresh := rfl
@[simp] theorem State.modThread_seq (s : State) (k : Nat) (f : Thread → Thread) : (s.modThread k f).seq = s.seq := rfl
@[simp] theorem State.modThread_out (s : State) (k : Nat) (f : Thread → Thread) : (s.modThread k f).out = s.out := rfl
@[simp] theorem State.modThread_time (s : State) (k : Nat) (f : Thread → Thread) : (s.modThread k f).time = s.time := rfl
@[simp] theorem State.modThread_cores (s : State) (k : Nat) (f : Thread → Thread) : (s.modThread k f).cores = s.cores := rfl
@[simp] theorem State.modThread_polders (s : State) (k : Nat) (f : Thread → Thread) : (s.modThread k f).polders = s.polders := rfl
@[simp] theorem State.modThread_slices (s : State) (k : Nat) (f : Thread → Thread) : (s.modThread k f).slices = s.slices := rfl
@[simp] theorem State.modThread_stackRecs (s : State) (k : Nat) (f : Thread → Thread) : (s.modThread k f).stackRecs = s.stackRecs := rfl
@[simp] theorem State.modThread_packages (s : State) (k : Nat) (f : Thread → Thread) : (s.modThread k f).packages = s.packages := rfl
@[simp] theorem State.modThread_mem (s : State) (k : Nat) (f : Thread → Thread) : (s.modThread k f).mem = s.mem := rfl
@[simp] theorem State.modThread_poison (s : State) (k : Nat) (f : Thread → Thread) : (s.modThread k f).poison = s.poison := rfl
@[simp] theorem State.modThread_empties (s : State) (k : Nat) (f : Thread → Thread) : (s.modThread k f).empties = s.empties := rfl
@[simp] theorem State.modThread_census (s : State) (k : Nat) (f : Thread → Thread) : (s.modThread k f).census = s.census := rfl
@[simp] theorem State.modThread_launches (s : State) (k : Nat) (f : Thread → Thread) : (s.modThread k f).launches = s.launches := rfl
@[simp] theorem State.modThread_members (s : State) (k : Nat) (f : Thread → Thread) : (s.modThread k f).members = s.members := rfl
@[simp] theorem State.modThread_ended (s : State) (k : Nat) (f : Thread → Thread) : (s.modThread k f).ended = s.ended := rfl
@[simp] theorem State.modThread_levels (s : State) (k : Nat) (f : Thread → Thread) : (s.modThread k f).levels = s.levels := rfl
@[simp] theorem State.modThread_tokens (s : State) (k : Nat) (f : Thread → Thread) : (s.modThread k f).tokens = s.tokens := rfl
@[simp] theorem State.modThread_jobs (s : State) (k : Nat) (f : Thread → Thread) : (s.modThread k f).jobs = s.jobs := rfl
@[simp] theorem State.modThread_core (s : State) (k : Nat) (f : Thread → Thread) (j : Nat) : (s.modThread k f).core j = s.core j := rfl
@[simp] theorem State.modThread_polder (s : State) (k : Nat) (f : Thread → Thread) (j : Nat) : (s.modThread k f).polder j = s.polder j := rfl
@[simp] theorem State.modThread_slice (s : State) (k : Nat) (f : Thread → Thread) (j : Nat) : (s.modThread k f).slice j = s.slice j := rfl
@[simp] theorem State.modThread_stack (s : State) (k : Nat) (f : Thread → Thread) (j : Nat) : (s.modThread k f).stack j = s.stack j := rfl
@[simp] theorem State.modThread_package (s : State) (k : Nat) (f : Thread → Thread) (j : Nat) : (s.modThread k f).package j = s.package j := rfl
@[simp] theorem State.modThread_byte (s : State) (k : Nat) (f : Thread → Thread) (pa : Nat) : (s.modThread k f).byte pa = s.byte pa := rfl
@[simp] theorem State.modThread_thread_self (s : State) (k : Nat) (f : Thread → Thread) : (s.modThread k f).thread k = f (s.thread k) := by
  simp [State.modThread]
theorem State.modThread_thread_ne (s : State) (k j : Nat) (f : Thread → Thread) (hj : j ≠ k) :
    (s.modThread k f).thread j = s.thread j := State.setThread_thread_ne s k j _ hj

@[simp] theorem State.setCore_agenda (s : State) (k : Nat) (x : Core) : (s.setCore k x).agenda = s.agenda := rfl
@[simp] theorem State.setCore_cur (s : State) (k : Nat) (x : Core) : (s.setCore k x).cur = s.cur := rfl
@[simp] theorem State.setCore_fresh (s : State) (k : Nat) (x : Core) : (s.setCore k x).fresh = s.fresh := rfl
@[simp] theorem State.setCore_seq (s : State) (k : Nat) (x : Core) : (s.setCore k x).seq = s.seq := rfl
@[simp] theorem State.setCore_out (s : State) (k : Nat) (x : Core) : (s.setCore k x).out = s.out := rfl
@[simp] theorem State.setCore_time (s : State) (k : Nat) (x : Core) : (s.setCore k x).time = s.time := rfl
@[simp] theorem State.setCore_threads (s : State) (k : Nat) (x : Core) : (s.setCore k x).threads = s.threads := rfl
@[simp] theorem State.setCore_polders (s : State) (k : Nat) (x : Core) : (s.setCore k x).polders = s.polders := rfl
@[simp] theorem State.setCore_slices (s : State) (k : Nat) (x : Core) : (s.setCore k x).slices = s.slices := rfl
@[simp] theorem State.setCore_stackRecs (s : State) (k : Nat) (x : Core) : (s.setCore k x).stackRecs = s.stackRecs := rfl
@[simp] theorem State.setCore_packages (s : State) (k : Nat) (x : Core) : (s.setCore k x).packages = s.packages := rfl
@[simp] theorem State.setCore_mem (s : State) (k : Nat) (x : Core) : (s.setCore k x).mem = s.mem := rfl
@[simp] theorem State.setCore_poison (s : State) (k : Nat) (x : Core) : (s.setCore k x).poison = s.poison := rfl
@[simp] theorem State.setCore_empties (s : State) (k : Nat) (x : Core) : (s.setCore k x).empties = s.empties := rfl
@[simp] theorem State.setCore_census (s : State) (k : Nat) (x : Core) : (s.setCore k x).census = s.census := rfl
@[simp] theorem State.setCore_launches (s : State) (k : Nat) (x : Core) : (s.setCore k x).launches = s.launches := rfl
@[simp] theorem State.setCore_members (s : State) (k : Nat) (x : Core) : (s.setCore k x).members = s.members := rfl
@[simp] theorem State.setCore_ended (s : State) (k : Nat) (x : Core) : (s.setCore k x).ended = s.ended := rfl
@[simp] theorem State.setCore_levels (s : State) (k : Nat) (x : Core) : (s.setCore k x).levels = s.levels := rfl
@[simp] theorem State.setCore_tokens (s : State) (k : Nat) (x : Core) : (s.setCore k x).tokens = s.tokens := rfl
@[simp] theorem State.setCore_jobs (s : State) (k : Nat) (x : Core) : (s.setCore k x).jobs = s.jobs := rfl
@[simp] theorem State.setCore_thread (s : State) (k : Nat) (x : Core) (j : Nat) : (s.setCore k x).thread j = s.thread j := rfl
@[simp] theorem State.setCore_polder (s : State) (k : Nat) (x : Core) (j : Nat) : (s.setCore k x).polder j = s.polder j := rfl
@[simp] theorem State.setCore_slice (s : State) (k : Nat) (x : Core) (j : Nat) : (s.setCore k x).slice j = s.slice j := rfl
@[simp] theorem State.setCore_stack (s : State) (k : Nat) (x : Core) (j : Nat) : (s.setCore k x).stack j = s.stack j := rfl
@[simp] theorem State.setCore_package (s : State) (k : Nat) (x : Core) (j : Nat) : (s.setCore k x).package j = s.package j := rfl
@[simp] theorem State.setCore_me (s : State) (k : Nat) (x : Core) : (s.setCore k x).me = s.me := rfl
@[simp] theorem State.setCore_byte (s : State) (k : Nat) (x : Core) (pa : Nat) : (s.setCore k x).byte pa = s.byte pa := rfl
@[simp] theorem State.setCore_core_self (s : State) (k : Nat) (x : Core) : (s.setCore k x).core k = x := by
  simp [State.core, State.setCore]
theorem State.setCore_core_ne (s : State) (k j : Nat) (x : Core) (hj : j ≠ k) :
    (s.setCore k x).core j = s.core j := by
  simp [State.core, State.setCore, SMap.getD_insert, hj]
theorem State.setCore_wf (s : State) (k : Nat) (x : Core) (h : SMap.wf s.cores = true) : SMap.wf (s.setCore k x).cores = true :=
  SMap.wf_insert h

@[simp] theorem State.modCore_agenda (s : State) (k : Nat) (f : Core → Core) : (s.modCore k f).agenda = s.agenda := rfl
@[simp] theorem State.modCore_cur (s : State) (k : Nat) (f : Core → Core) : (s.modCore k f).cur = s.cur := rfl
@[simp] theorem State.modCore_fresh (s : State) (k : Nat) (f : Core → Core) : (s.modCore k f).fresh = s.fresh := rfl
@[simp] theorem State.modCore_seq (s : State) (k : Nat) (f : Core → Core) : (s.modCore k f).seq = s.seq := rfl
@[simp] theorem State.modCore_out (s : State) (k : Nat) (f : Core → Core) : (s.modCore k f).out = s.out := rfl
@[simp] theorem State.modCore_time (s : State) (k : Nat) (f : Core → Core) : (s.modCore k f).time = s.time := rfl
@[simp] theorem State.modCore_threads (s : State) (k : Nat) (f : Core → Core) : (s.modCore k f).threads = s.threads := rfl
@[simp] theorem State.modCore_polders (s : State) (k : Nat) (f : Core → Core) : (s.modCore k f).polders = s.polders := rfl
@[simp] theorem State.modCore_slices (s : State) (k : Nat) (f : Core → Core) : (s.modCore k f).slices = s.slices := rfl
@[simp] theorem State.modCore_stackRecs (s : State) (k : Nat) (f : Core → Core) : (s.modCore k f).stackRecs = s.stackRecs := rfl
@[simp] theorem State.modCore_packages (s : State) (k : Nat) (f : Core → Core) : (s.modCore k f).packages = s.packages := rfl
@[simp] theorem State.modCore_mem (s : State) (k : Nat) (f : Core → Core) : (s.modCore k f).mem = s.mem := rfl
@[simp] theorem State.modCore_poison (s : State) (k : Nat) (f : Core → Core) : (s.modCore k f).poison = s.poison := rfl
@[simp] theorem State.modCore_empties (s : State) (k : Nat) (f : Core → Core) : (s.modCore k f).empties = s.empties := rfl
@[simp] theorem State.modCore_census (s : State) (k : Nat) (f : Core → Core) : (s.modCore k f).census = s.census := rfl
@[simp] theorem State.modCore_launches (s : State) (k : Nat) (f : Core → Core) : (s.modCore k f).launches = s.launches := rfl
@[simp] theorem State.modCore_members (s : State) (k : Nat) (f : Core → Core) : (s.modCore k f).members = s.members := rfl
@[simp] theorem State.modCore_ended (s : State) (k : Nat) (f : Core → Core) : (s.modCore k f).ended = s.ended := rfl
@[simp] theorem State.modCore_levels (s : State) (k : Nat) (f : Core → Core) : (s.modCore k f).levels = s.levels := rfl
@[simp] theorem State.modCore_tokens (s : State) (k : Nat) (f : Core → Core) : (s.modCore k f).tokens = s.tokens := rfl
@[simp] theorem State.modCore_jobs (s : State) (k : Nat) (f : Core → Core) : (s.modCore k f).jobs = s.jobs := rfl
@[simp] theorem State.modCore_thread (s : State) (k : Nat) (f : Core → Core) (j : Nat) : (s.modCore k f).thread j = s.thread j := rfl
@[simp] theorem State.modCore_polder (s : State) (k : Nat) (f : Core → Core) (j : Nat) : (s.modCore k f).polder j = s.polder j := rfl
@[simp] theorem State.modCore_slice (s : State) (k : Nat) (f : Core → Core) (j : Nat) : (s.modCore k f).slice j = s.slice j := rfl
@[simp] theorem State.modCore_stack (s : State) (k : Nat) (f : Core → Core) (j : Nat) : (s.modCore k f).stack j = s.stack j := rfl
@[simp] theorem State.modCore_package (s : State) (k : Nat) (f : Core → Core) (j : Nat) : (s.modCore k f).package j = s.package j := rfl
@[simp] theorem State.modCore_me (s : State) (k : Nat) (f : Core → Core) : (s.modCore k f).me = s.me := rfl
@[simp] theorem State.modCore_byte (s : State) (k : Nat) (f : Core → Core) (pa : Nat) : (s.modCore k f).byte pa = s.byte pa := rfl
@[simp] theorem State.modCore_core_self (s : State) (k : Nat) (f : Core → Core) : (s.modCore k f).core k = f (s.core k) := by
  simp [State.modCore]
theorem State.modCore_core_ne (s : State) (k j : Nat) (f : Core → Core) (hj : j ≠ k) :
    (s.modCore k f).core j = s.core j := State.setCore_core_ne s k j _ hj

@[simp] theorem State.setPolder_agenda (s : State) (k : Nat) (x : Polder) : (s.setPolder k x).agenda = s.agenda := rfl
@[simp] theorem State.setPolder_cur (s : State) (k : Nat) (x : Polder) : (s.setPolder k x).cur = s.cur := rfl
@[simp] theorem State.setPolder_fresh (s : State) (k : Nat) (x : Polder) : (s.setPolder k x).fresh = s.fresh := rfl
@[simp] theorem State.setPolder_seq (s : State) (k : Nat) (x : Polder) : (s.setPolder k x).seq = s.seq := rfl
@[simp] theorem State.setPolder_out (s : State) (k : Nat) (x : Polder) : (s.setPolder k x).out = s.out := rfl
@[simp] theorem State.setPolder_time (s : State) (k : Nat) (x : Polder) : (s.setPolder k x).time = s.time := rfl
@[simp] theorem State.setPolder_threads (s : State) (k : Nat) (x : Polder) : (s.setPolder k x).threads = s.threads := rfl
@[simp] theorem State.setPolder_cores (s : State) (k : Nat) (x : Polder) : (s.setPolder k x).cores = s.cores := rfl
@[simp] theorem State.setPolder_slices (s : State) (k : Nat) (x : Polder) : (s.setPolder k x).slices = s.slices := rfl
@[simp] theorem State.setPolder_stackRecs (s : State) (k : Nat) (x : Polder) : (s.setPolder k x).stackRecs = s.stackRecs := rfl
@[simp] theorem State.setPolder_packages (s : State) (k : Nat) (x : Polder) : (s.setPolder k x).packages = s.packages := rfl
@[simp] theorem State.setPolder_mem (s : State) (k : Nat) (x : Polder) : (s.setPolder k x).mem = s.mem := rfl
@[simp] theorem State.setPolder_poison (s : State) (k : Nat) (x : Polder) : (s.setPolder k x).poison = s.poison := rfl
@[simp] theorem State.setPolder_empties (s : State) (k : Nat) (x : Polder) : (s.setPolder k x).empties = s.empties := rfl
@[simp] theorem State.setPolder_census (s : State) (k : Nat) (x : Polder) : (s.setPolder k x).census = s.census := rfl
@[simp] theorem State.setPolder_launches (s : State) (k : Nat) (x : Polder) : (s.setPolder k x).launches = s.launches := rfl
@[simp] theorem State.setPolder_members (s : State) (k : Nat) (x : Polder) : (s.setPolder k x).members = s.members := rfl
@[simp] theorem State.setPolder_ended (s : State) (k : Nat) (x : Polder) : (s.setPolder k x).ended = s.ended := rfl
@[simp] theorem State.setPolder_levels (s : State) (k : Nat) (x : Polder) : (s.setPolder k x).levels = s.levels := rfl
@[simp] theorem State.setPolder_tokens (s : State) (k : Nat) (x : Polder) : (s.setPolder k x).tokens = s.tokens := rfl
@[simp] theorem State.setPolder_jobs (s : State) (k : Nat) (x : Polder) : (s.setPolder k x).jobs = s.jobs := rfl
@[simp] theorem State.setPolder_thread (s : State) (k : Nat) (x : Polder) (j : Nat) : (s.setPolder k x).thread j = s.thread j := rfl
@[simp] theorem State.setPolder_core (s : State) (k : Nat) (x : Polder) (j : Nat) : (s.setPolder k x).core j = s.core j := rfl
@[simp] theorem State.setPolder_slice (s : State) (k : Nat) (x : Polder) (j : Nat) : (s.setPolder k x).slice j = s.slice j := rfl
@[simp] theorem State.setPolder_stack (s : State) (k : Nat) (x : Polder) (j : Nat) : (s.setPolder k x).stack j = s.stack j := rfl
@[simp] theorem State.setPolder_package (s : State) (k : Nat) (x : Polder) (j : Nat) : (s.setPolder k x).package j = s.package j := rfl
@[simp] theorem State.setPolder_me (s : State) (k : Nat) (x : Polder) : (s.setPolder k x).me = s.me := rfl
@[simp] theorem State.setPolder_byte (s : State) (k : Nat) (x : Polder) (pa : Nat) : (s.setPolder k x).byte pa = s.byte pa := rfl
@[simp] theorem State.setPolder_polder_self (s : State) (k : Nat) (x : Polder) : (s.setPolder k x).polder k = x := by
  simp [State.polder, State.setPolder]
theorem State.setPolder_polder_ne (s : State) (k j : Nat) (x : Polder) (hj : j ≠ k) :
    (s.setPolder k x).polder j = s.polder j := by
  simp [State.polder, State.setPolder, SMap.getD_insert, hj]
theorem State.setPolder_wf (s : State) (k : Nat) (x : Polder) (h : SMap.wf s.polders = true) : SMap.wf (s.setPolder k x).polders = true :=
  SMap.wf_insert h

@[simp] theorem State.modPolder_agenda (s : State) (k : Nat) (f : Polder → Polder) : (s.modPolder k f).agenda = s.agenda := rfl
@[simp] theorem State.modPolder_cur (s : State) (k : Nat) (f : Polder → Polder) : (s.modPolder k f).cur = s.cur := rfl
@[simp] theorem State.modPolder_fresh (s : State) (k : Nat) (f : Polder → Polder) : (s.modPolder k f).fresh = s.fresh := rfl
@[simp] theorem State.modPolder_seq (s : State) (k : Nat) (f : Polder → Polder) : (s.modPolder k f).seq = s.seq := rfl
@[simp] theorem State.modPolder_out (s : State) (k : Nat) (f : Polder → Polder) : (s.modPolder k f).out = s.out := rfl
@[simp] theorem State.modPolder_time (s : State) (k : Nat) (f : Polder → Polder) : (s.modPolder k f).time = s.time := rfl
@[simp] theorem State.modPolder_threads (s : State) (k : Nat) (f : Polder → Polder) : (s.modPolder k f).threads = s.threads := rfl
@[simp] theorem State.modPolder_cores (s : State) (k : Nat) (f : Polder → Polder) : (s.modPolder k f).cores = s.cores := rfl
@[simp] theorem State.modPolder_slices (s : State) (k : Nat) (f : Polder → Polder) : (s.modPolder k f).slices = s.slices := rfl
@[simp] theorem State.modPolder_stackRecs (s : State) (k : Nat) (f : Polder → Polder) : (s.modPolder k f).stackRecs = s.stackRecs := rfl
@[simp] theorem State.modPolder_packages (s : State) (k : Nat) (f : Polder → Polder) : (s.modPolder k f).packages = s.packages := rfl
@[simp] theorem State.modPolder_mem (s : State) (k : Nat) (f : Polder → Polder) : (s.modPolder k f).mem = s.mem := rfl
@[simp] theorem State.modPolder_poison (s : State) (k : Nat) (f : Polder → Polder) : (s.modPolder k f).poison = s.poison := rfl
@[simp] theorem State.modPolder_empties (s : State) (k : Nat) (f : Polder → Polder) : (s.modPolder k f).empties = s.empties := rfl
@[simp] theorem State.modPolder_census (s : State) (k : Nat) (f : Polder → Polder) : (s.modPolder k f).census = s.census := rfl
@[simp] theorem State.modPolder_launches (s : State) (k : Nat) (f : Polder → Polder) : (s.modPolder k f).launches = s.launches := rfl
@[simp] theorem State.modPolder_members (s : State) (k : Nat) (f : Polder → Polder) : (s.modPolder k f).members = s.members := rfl
@[simp] theorem State.modPolder_ended (s : State) (k : Nat) (f : Polder → Polder) : (s.modPolder k f).ended = s.ended := rfl
@[simp] theorem State.modPolder_levels (s : State) (k : Nat) (f : Polder → Polder) : (s.modPolder k f).levels = s.levels := rfl
@[simp] theorem State.modPolder_tokens (s : State) (k : Nat) (f : Polder → Polder) : (s.modPolder k f).tokens = s.tokens := rfl
@[simp] theorem State.modPolder_jobs (s : State) (k : Nat) (f : Polder → Polder) : (s.modPolder k f).jobs = s.jobs := rfl
@[simp] theorem State.modPolder_thread (s : State) (k : Nat) (f : Polder → Polder) (j : Nat) : (s.modPolder k f).thread j = s.thread j := rfl
@[simp] theorem State.modPolder_core (s : State) (k : Nat) (f : Polder → Polder) (j : Nat) : (s.modPolder k f).core j = s.core j := rfl
@[simp] theorem State.modPolder_slice (s : State) (k : Nat) (f : Polder → Polder) (j : Nat) : (s.modPolder k f).slice j = s.slice j := rfl
@[simp] theorem State.modPolder_stack (s : State) (k : Nat) (f : Polder → Polder) (j : Nat) : (s.modPolder k f).stack j = s.stack j := rfl
@[simp] theorem State.modPolder_package (s : State) (k : Nat) (f : Polder → Polder) (j : Nat) : (s.modPolder k f).package j = s.package j := rfl
@[simp] theorem State.modPolder_me (s : State) (k : Nat) (f : Polder → Polder) : (s.modPolder k f).me = s.me := rfl
@[simp] theorem State.modPolder_byte (s : State) (k : Nat) (f : Polder → Polder) (pa : Nat) : (s.modPolder k f).byte pa = s.byte pa := rfl
@[simp] theorem State.modPolder_polder_self (s : State) (k : Nat) (f : Polder → Polder) : (s.modPolder k f).polder k = f (s.polder k) := by
  simp [State.modPolder]
theorem State.modPolder_polder_ne (s : State) (k j : Nat) (f : Polder → Polder) (hj : j ≠ k) :
    (s.modPolder k f).polder j = s.polder j := State.setPolder_polder_ne s k j _ hj

@[simp] theorem State.setSlice_agenda (s : State) (k : Nat) (x : Slice) : (s.setSlice k x).agenda = s.agenda := rfl
@[simp] theorem State.setSlice_cur (s : State) (k : Nat) (x : Slice) : (s.setSlice k x).cur = s.cur := rfl
@[simp] theorem State.setSlice_fresh (s : State) (k : Nat) (x : Slice) : (s.setSlice k x).fresh = s.fresh := rfl
@[simp] theorem State.setSlice_seq (s : State) (k : Nat) (x : Slice) : (s.setSlice k x).seq = s.seq := rfl
@[simp] theorem State.setSlice_out (s : State) (k : Nat) (x : Slice) : (s.setSlice k x).out = s.out := rfl
@[simp] theorem State.setSlice_time (s : State) (k : Nat) (x : Slice) : (s.setSlice k x).time = s.time := rfl
@[simp] theorem State.setSlice_threads (s : State) (k : Nat) (x : Slice) : (s.setSlice k x).threads = s.threads := rfl
@[simp] theorem State.setSlice_cores (s : State) (k : Nat) (x : Slice) : (s.setSlice k x).cores = s.cores := rfl
@[simp] theorem State.setSlice_polders (s : State) (k : Nat) (x : Slice) : (s.setSlice k x).polders = s.polders := rfl
@[simp] theorem State.setSlice_stackRecs (s : State) (k : Nat) (x : Slice) : (s.setSlice k x).stackRecs = s.stackRecs := rfl
@[simp] theorem State.setSlice_packages (s : State) (k : Nat) (x : Slice) : (s.setSlice k x).packages = s.packages := rfl
@[simp] theorem State.setSlice_mem (s : State) (k : Nat) (x : Slice) : (s.setSlice k x).mem = s.mem := rfl
@[simp] theorem State.setSlice_poison (s : State) (k : Nat) (x : Slice) : (s.setSlice k x).poison = s.poison := rfl
@[simp] theorem State.setSlice_empties (s : State) (k : Nat) (x : Slice) : (s.setSlice k x).empties = s.empties := rfl
@[simp] theorem State.setSlice_census (s : State) (k : Nat) (x : Slice) : (s.setSlice k x).census = s.census := rfl
@[simp] theorem State.setSlice_launches (s : State) (k : Nat) (x : Slice) : (s.setSlice k x).launches = s.launches := rfl
@[simp] theorem State.setSlice_members (s : State) (k : Nat) (x : Slice) : (s.setSlice k x).members = s.members := rfl
@[simp] theorem State.setSlice_ended (s : State) (k : Nat) (x : Slice) : (s.setSlice k x).ended = s.ended := rfl
@[simp] theorem State.setSlice_levels (s : State) (k : Nat) (x : Slice) : (s.setSlice k x).levels = s.levels := rfl
@[simp] theorem State.setSlice_tokens (s : State) (k : Nat) (x : Slice) : (s.setSlice k x).tokens = s.tokens := rfl
@[simp] theorem State.setSlice_jobs (s : State) (k : Nat) (x : Slice) : (s.setSlice k x).jobs = s.jobs := rfl
@[simp] theorem State.setSlice_thread (s : State) (k : Nat) (x : Slice) (j : Nat) : (s.setSlice k x).thread j = s.thread j := rfl
@[simp] theorem State.setSlice_core (s : State) (k : Nat) (x : Slice) (j : Nat) : (s.setSlice k x).core j = s.core j := rfl
@[simp] theorem State.setSlice_polder (s : State) (k : Nat) (x : Slice) (j : Nat) : (s.setSlice k x).polder j = s.polder j := rfl
@[simp] theorem State.setSlice_stack (s : State) (k : Nat) (x : Slice) (j : Nat) : (s.setSlice k x).stack j = s.stack j := rfl
@[simp] theorem State.setSlice_package (s : State) (k : Nat) (x : Slice) (j : Nat) : (s.setSlice k x).package j = s.package j := rfl
@[simp] theorem State.setSlice_me (s : State) (k : Nat) (x : Slice) : (s.setSlice k x).me = s.me := rfl
@[simp] theorem State.setSlice_byte (s : State) (k : Nat) (x : Slice) (pa : Nat) : (s.setSlice k x).byte pa = s.byte pa := rfl
@[simp] theorem State.setSlice_slice_self (s : State) (k : Nat) (x : Slice) : (s.setSlice k x).slice k = x := by
  simp [State.slice, State.setSlice]
theorem State.setSlice_slice_ne (s : State) (k j : Nat) (x : Slice) (hj : j ≠ k) :
    (s.setSlice k x).slice j = s.slice j := by
  simp [State.slice, State.setSlice, SMap.getD_insert, hj]
theorem State.setSlice_wf (s : State) (k : Nat) (x : Slice) (h : SMap.wf s.slices = true) : SMap.wf (s.setSlice k x).slices = true :=
  SMap.wf_insert h

@[simp] theorem State.modSlice_agenda (s : State) (k : Nat) (f : Slice → Slice) : (s.modSlice k f).agenda = s.agenda := rfl
@[simp] theorem State.modSlice_cur (s : State) (k : Nat) (f : Slice → Slice) : (s.modSlice k f).cur = s.cur := rfl
@[simp] theorem State.modSlice_fresh (s : State) (k : Nat) (f : Slice → Slice) : (s.modSlice k f).fresh = s.fresh := rfl
@[simp] theorem State.modSlice_seq (s : State) (k : Nat) (f : Slice → Slice) : (s.modSlice k f).seq = s.seq := rfl
@[simp] theorem State.modSlice_out (s : State) (k : Nat) (f : Slice → Slice) : (s.modSlice k f).out = s.out := rfl
@[simp] theorem State.modSlice_time (s : State) (k : Nat) (f : Slice → Slice) : (s.modSlice k f).time = s.time := rfl
@[simp] theorem State.modSlice_threads (s : State) (k : Nat) (f : Slice → Slice) : (s.modSlice k f).threads = s.threads := rfl
@[simp] theorem State.modSlice_cores (s : State) (k : Nat) (f : Slice → Slice) : (s.modSlice k f).cores = s.cores := rfl
@[simp] theorem State.modSlice_polders (s : State) (k : Nat) (f : Slice → Slice) : (s.modSlice k f).polders = s.polders := rfl
@[simp] theorem State.modSlice_stackRecs (s : State) (k : Nat) (f : Slice → Slice) : (s.modSlice k f).stackRecs = s.stackRecs := rfl
@[simp] theorem State.modSlice_packages (s : State) (k : Nat) (f : Slice → Slice) : (s.modSlice k f).packages = s.packages := rfl
@[simp] theorem State.modSlice_mem (s : State) (k : Nat) (f : Slice → Slice) : (s.modSlice k f).mem = s.mem := rfl
@[simp] theorem State.modSlice_poison (s : State) (k : Nat) (f : Slice → Slice) : (s.modSlice k f).poison = s.poison := rfl
@[simp] theorem State.modSlice_empties (s : State) (k : Nat) (f : Slice → Slice) : (s.modSlice k f).empties = s.empties := rfl
@[simp] theorem State.modSlice_census (s : State) (k : Nat) (f : Slice → Slice) : (s.modSlice k f).census = s.census := rfl
@[simp] theorem State.modSlice_launches (s : State) (k : Nat) (f : Slice → Slice) : (s.modSlice k f).launches = s.launches := rfl
@[simp] theorem State.modSlice_members (s : State) (k : Nat) (f : Slice → Slice) : (s.modSlice k f).members = s.members := rfl
@[simp] theorem State.modSlice_ended (s : State) (k : Nat) (f : Slice → Slice) : (s.modSlice k f).ended = s.ended := rfl
@[simp] theorem State.modSlice_levels (s : State) (k : Nat) (f : Slice → Slice) : (s.modSlice k f).levels = s.levels := rfl
@[simp] theorem State.modSlice_tokens (s : State) (k : Nat) (f : Slice → Slice) : (s.modSlice k f).tokens = s.tokens := rfl
@[simp] theorem State.modSlice_jobs (s : State) (k : Nat) (f : Slice → Slice) : (s.modSlice k f).jobs = s.jobs := rfl
@[simp] theorem State.modSlice_thread (s : State) (k : Nat) (f : Slice → Slice) (j : Nat) : (s.modSlice k f).thread j = s.thread j := rfl
@[simp] theorem State.modSlice_core (s : State) (k : Nat) (f : Slice → Slice) (j : Nat) : (s.modSlice k f).core j = s.core j := rfl
@[simp] theorem State.modSlice_polder (s : State) (k : Nat) (f : Slice → Slice) (j : Nat) : (s.modSlice k f).polder j = s.polder j := rfl
@[simp] theorem State.modSlice_stack (s : State) (k : Nat) (f : Slice → Slice) (j : Nat) : (s.modSlice k f).stack j = s.stack j := rfl
@[simp] theorem State.modSlice_package (s : State) (k : Nat) (f : Slice → Slice) (j : Nat) : (s.modSlice k f).package j = s.package j := rfl
@[simp] theorem State.modSlice_me (s : State) (k : Nat) (f : Slice → Slice) : (s.modSlice k f).me = s.me := rfl
@[simp] theorem State.modSlice_byte (s : State) (k : Nat) (f : Slice → Slice) (pa : Nat) : (s.modSlice k f).byte pa = s.byte pa := rfl
@[simp] theorem State.modSlice_slice_self (s : State) (k : Nat) (f : Slice → Slice) : (s.modSlice k f).slice k = f (s.slice k) := by
  simp [State.modSlice]
theorem State.modSlice_slice_ne (s : State) (k j : Nat) (f : Slice → Slice) (hj : j ≠ k) :
    (s.modSlice k f).slice j = s.slice j := State.setSlice_slice_ne s k j _ hj

@[simp] theorem State.setStack_agenda (s : State) (k : Nat) (x : Stack) : (s.setStack k x).agenda = s.agenda := rfl
@[simp] theorem State.setStack_cur (s : State) (k : Nat) (x : Stack) : (s.setStack k x).cur = s.cur := rfl
@[simp] theorem State.setStack_fresh (s : State) (k : Nat) (x : Stack) : (s.setStack k x).fresh = s.fresh := rfl
@[simp] theorem State.setStack_seq (s : State) (k : Nat) (x : Stack) : (s.setStack k x).seq = s.seq := rfl
@[simp] theorem State.setStack_out (s : State) (k : Nat) (x : Stack) : (s.setStack k x).out = s.out := rfl
@[simp] theorem State.setStack_time (s : State) (k : Nat) (x : Stack) : (s.setStack k x).time = s.time := rfl
@[simp] theorem State.setStack_threads (s : State) (k : Nat) (x : Stack) : (s.setStack k x).threads = s.threads := rfl
@[simp] theorem State.setStack_cores (s : State) (k : Nat) (x : Stack) : (s.setStack k x).cores = s.cores := rfl
@[simp] theorem State.setStack_polders (s : State) (k : Nat) (x : Stack) : (s.setStack k x).polders = s.polders := rfl
@[simp] theorem State.setStack_slices (s : State) (k : Nat) (x : Stack) : (s.setStack k x).slices = s.slices := rfl
@[simp] theorem State.setStack_packages (s : State) (k : Nat) (x : Stack) : (s.setStack k x).packages = s.packages := rfl
@[simp] theorem State.setStack_mem (s : State) (k : Nat) (x : Stack) : (s.setStack k x).mem = s.mem := rfl
@[simp] theorem State.setStack_poison (s : State) (k : Nat) (x : Stack) : (s.setStack k x).poison = s.poison := rfl
@[simp] theorem State.setStack_empties (s : State) (k : Nat) (x : Stack) : (s.setStack k x).empties = s.empties := rfl
@[simp] theorem State.setStack_census (s : State) (k : Nat) (x : Stack) : (s.setStack k x).census = s.census := rfl
@[simp] theorem State.setStack_launches (s : State) (k : Nat) (x : Stack) : (s.setStack k x).launches = s.launches := rfl
@[simp] theorem State.setStack_members (s : State) (k : Nat) (x : Stack) : (s.setStack k x).members = s.members := rfl
@[simp] theorem State.setStack_ended (s : State) (k : Nat) (x : Stack) : (s.setStack k x).ended = s.ended := rfl
@[simp] theorem State.setStack_levels (s : State) (k : Nat) (x : Stack) : (s.setStack k x).levels = s.levels := rfl
@[simp] theorem State.setStack_tokens (s : State) (k : Nat) (x : Stack) : (s.setStack k x).tokens = s.tokens := rfl
@[simp] theorem State.setStack_jobs (s : State) (k : Nat) (x : Stack) : (s.setStack k x).jobs = s.jobs := rfl
@[simp] theorem State.setStack_thread (s : State) (k : Nat) (x : Stack) (j : Nat) : (s.setStack k x).thread j = s.thread j := rfl
@[simp] theorem State.setStack_core (s : State) (k : Nat) (x : Stack) (j : Nat) : (s.setStack k x).core j = s.core j := rfl
@[simp] theorem State.setStack_polder (s : State) (k : Nat) (x : Stack) (j : Nat) : (s.setStack k x).polder j = s.polder j := rfl
@[simp] theorem State.setStack_slice (s : State) (k : Nat) (x : Stack) (j : Nat) : (s.setStack k x).slice j = s.slice j := rfl
@[simp] theorem State.setStack_package (s : State) (k : Nat) (x : Stack) (j : Nat) : (s.setStack k x).package j = s.package j := rfl
@[simp] theorem State.setStack_me (s : State) (k : Nat) (x : Stack) : (s.setStack k x).me = s.me := rfl
@[simp] theorem State.setStack_byte (s : State) (k : Nat) (x : Stack) (pa : Nat) : (s.setStack k x).byte pa = s.byte pa := rfl
@[simp] theorem State.setStack_stack_self (s : State) (k : Nat) (x : Stack) : (s.setStack k x).stack k = x := by
  simp [State.stack, State.setStack]
theorem State.setStack_stack_ne (s : State) (k j : Nat) (x : Stack) (hj : j ≠ k) :
    (s.setStack k x).stack j = s.stack j := by
  simp [State.stack, State.setStack, SMap.getD_insert, hj]
theorem State.setStack_wf (s : State) (k : Nat) (x : Stack) (h : SMap.wf s.stackRecs = true) : SMap.wf (s.setStack k x).stackRecs = true :=
  SMap.wf_insert h

@[simp] theorem State.modStack_agenda (s : State) (k : Nat) (f : Stack → Stack) : (s.modStack k f).agenda = s.agenda := rfl
@[simp] theorem State.modStack_cur (s : State) (k : Nat) (f : Stack → Stack) : (s.modStack k f).cur = s.cur := rfl
@[simp] theorem State.modStack_fresh (s : State) (k : Nat) (f : Stack → Stack) : (s.modStack k f).fresh = s.fresh := rfl
@[simp] theorem State.modStack_seq (s : State) (k : Nat) (f : Stack → Stack) : (s.modStack k f).seq = s.seq := rfl
@[simp] theorem State.modStack_out (s : State) (k : Nat) (f : Stack → Stack) : (s.modStack k f).out = s.out := rfl
@[simp] theorem State.modStack_time (s : State) (k : Nat) (f : Stack → Stack) : (s.modStack k f).time = s.time := rfl
@[simp] theorem State.modStack_threads (s : State) (k : Nat) (f : Stack → Stack) : (s.modStack k f).threads = s.threads := rfl
@[simp] theorem State.modStack_cores (s : State) (k : Nat) (f : Stack → Stack) : (s.modStack k f).cores = s.cores := rfl
@[simp] theorem State.modStack_polders (s : State) (k : Nat) (f : Stack → Stack) : (s.modStack k f).polders = s.polders := rfl
@[simp] theorem State.modStack_slices (s : State) (k : Nat) (f : Stack → Stack) : (s.modStack k f).slices = s.slices := rfl
@[simp] theorem State.modStack_packages (s : State) (k : Nat) (f : Stack → Stack) : (s.modStack k f).packages = s.packages := rfl
@[simp] theorem State.modStack_mem (s : State) (k : Nat) (f : Stack → Stack) : (s.modStack k f).mem = s.mem := rfl
@[simp] theorem State.modStack_poison (s : State) (k : Nat) (f : Stack → Stack) : (s.modStack k f).poison = s.poison := rfl
@[simp] theorem State.modStack_empties (s : State) (k : Nat) (f : Stack → Stack) : (s.modStack k f).empties = s.empties := rfl
@[simp] theorem State.modStack_census (s : State) (k : Nat) (f : Stack → Stack) : (s.modStack k f).census = s.census := rfl
@[simp] theorem State.modStack_launches (s : State) (k : Nat) (f : Stack → Stack) : (s.modStack k f).launches = s.launches := rfl
@[simp] theorem State.modStack_members (s : State) (k : Nat) (f : Stack → Stack) : (s.modStack k f).members = s.members := rfl
@[simp] theorem State.modStack_ended (s : State) (k : Nat) (f : Stack → Stack) : (s.modStack k f).ended = s.ended := rfl
@[simp] theorem State.modStack_levels (s : State) (k : Nat) (f : Stack → Stack) : (s.modStack k f).levels = s.levels := rfl
@[simp] theorem State.modStack_tokens (s : State) (k : Nat) (f : Stack → Stack) : (s.modStack k f).tokens = s.tokens := rfl
@[simp] theorem State.modStack_jobs (s : State) (k : Nat) (f : Stack → Stack) : (s.modStack k f).jobs = s.jobs := rfl
@[simp] theorem State.modStack_thread (s : State) (k : Nat) (f : Stack → Stack) (j : Nat) : (s.modStack k f).thread j = s.thread j := rfl
@[simp] theorem State.modStack_core (s : State) (k : Nat) (f : Stack → Stack) (j : Nat) : (s.modStack k f).core j = s.core j := rfl
@[simp] theorem State.modStack_polder (s : State) (k : Nat) (f : Stack → Stack) (j : Nat) : (s.modStack k f).polder j = s.polder j := rfl
@[simp] theorem State.modStack_slice (s : State) (k : Nat) (f : Stack → Stack) (j : Nat) : (s.modStack k f).slice j = s.slice j := rfl
@[simp] theorem State.modStack_package (s : State) (k : Nat) (f : Stack → Stack) (j : Nat) : (s.modStack k f).package j = s.package j := rfl
@[simp] theorem State.modStack_me (s : State) (k : Nat) (f : Stack → Stack) : (s.modStack k f).me = s.me := rfl
@[simp] theorem State.modStack_byte (s : State) (k : Nat) (f : Stack → Stack) (pa : Nat) : (s.modStack k f).byte pa = s.byte pa := rfl
@[simp] theorem State.modStack_stack_self (s : State) (k : Nat) (f : Stack → Stack) : (s.modStack k f).stack k = f (s.stack k) := by
  simp [State.modStack]
theorem State.modStack_stack_ne (s : State) (k j : Nat) (f : Stack → Stack) (hj : j ≠ k) :
    (s.modStack k f).stack j = s.stack j := State.setStack_stack_ne s k j _ hj

@[simp] theorem State.setPackage_agenda (s : State) (k : Nat) (x : Package) : (s.setPackage k x).agenda = s.agenda := rfl
@[simp] theorem State.setPackage_cur (s : State) (k : Nat) (x : Package) : (s.setPackage k x).cur = s.cur := rfl
@[simp] theorem State.setPackage_fresh (s : State) (k : Nat) (x : Package) : (s.setPackage k x).fresh = s.fresh := rfl
@[simp] theorem State.setPackage_seq (s : State) (k : Nat) (x : Package) : (s.setPackage k x).seq = s.seq := rfl
@[simp] theorem State.setPackage_out (s : State) (k : Nat) (x : Package) : (s.setPackage k x).out = s.out := rfl
@[simp] theorem State.setPackage_time (s : State) (k : Nat) (x : Package) : (s.setPackage k x).time = s.time := rfl
@[simp] theorem State.setPackage_threads (s : State) (k : Nat) (x : Package) : (s.setPackage k x).threads = s.threads := rfl
@[simp] theorem State.setPackage_cores (s : State) (k : Nat) (x : Package) : (s.setPackage k x).cores = s.cores := rfl
@[simp] theorem State.setPackage_polders (s : State) (k : Nat) (x : Package) : (s.setPackage k x).polders = s.polders := rfl
@[simp] theorem State.setPackage_slices (s : State) (k : Nat) (x : Package) : (s.setPackage k x).slices = s.slices := rfl
@[simp] theorem State.setPackage_stackRecs (s : State) (k : Nat) (x : Package) : (s.setPackage k x).stackRecs = s.stackRecs := rfl
@[simp] theorem State.setPackage_mem (s : State) (k : Nat) (x : Package) : (s.setPackage k x).mem = s.mem := rfl
@[simp] theorem State.setPackage_poison (s : State) (k : Nat) (x : Package) : (s.setPackage k x).poison = s.poison := rfl
@[simp] theorem State.setPackage_empties (s : State) (k : Nat) (x : Package) : (s.setPackage k x).empties = s.empties := rfl
@[simp] theorem State.setPackage_census (s : State) (k : Nat) (x : Package) : (s.setPackage k x).census = s.census := rfl
@[simp] theorem State.setPackage_launches (s : State) (k : Nat) (x : Package) : (s.setPackage k x).launches = s.launches := rfl
@[simp] theorem State.setPackage_members (s : State) (k : Nat) (x : Package) : (s.setPackage k x).members = s.members := rfl
@[simp] theorem State.setPackage_ended (s : State) (k : Nat) (x : Package) : (s.setPackage k x).ended = s.ended := rfl
@[simp] theorem State.setPackage_levels (s : State) (k : Nat) (x : Package) : (s.setPackage k x).levels = s.levels := rfl
@[simp] theorem State.setPackage_tokens (s : State) (k : Nat) (x : Package) : (s.setPackage k x).tokens = s.tokens := rfl
@[simp] theorem State.setPackage_jobs (s : State) (k : Nat) (x : Package) : (s.setPackage k x).jobs = s.jobs := rfl
@[simp] theorem State.setPackage_thread (s : State) (k : Nat) (x : Package) (j : Nat) : (s.setPackage k x).thread j = s.thread j := rfl
@[simp] theorem State.setPackage_core (s : State) (k : Nat) (x : Package) (j : Nat) : (s.setPackage k x).core j = s.core j := rfl
@[simp] theorem State.setPackage_polder (s : State) (k : Nat) (x : Package) (j : Nat) : (s.setPackage k x).polder j = s.polder j := rfl
@[simp] theorem State.setPackage_slice (s : State) (k : Nat) (x : Package) (j : Nat) : (s.setPackage k x).slice j = s.slice j := rfl
@[simp] theorem State.setPackage_stack (s : State) (k : Nat) (x : Package) (j : Nat) : (s.setPackage k x).stack j = s.stack j := rfl
@[simp] theorem State.setPackage_me (s : State) (k : Nat) (x : Package) : (s.setPackage k x).me = s.me := rfl
@[simp] theorem State.setPackage_byte (s : State) (k : Nat) (x : Package) (pa : Nat) : (s.setPackage k x).byte pa = s.byte pa := rfl
@[simp] theorem State.setPackage_package_self (s : State) (k : Nat) (x : Package) : (s.setPackage k x).package k = x := by
  simp [State.package, State.setPackage]
theorem State.setPackage_package_ne (s : State) (k j : Nat) (x : Package) (hj : j ≠ k) :
    (s.setPackage k x).package j = s.package j := by
  simp [State.package, State.setPackage, SMap.getD_insert, hj]
theorem State.setPackage_wf (s : State) (k : Nat) (x : Package) (h : SMap.wf s.packages = true) : SMap.wf (s.setPackage k x).packages = true :=
  SMap.wf_insert h

@[simp] theorem State.modPackage_agenda (s : State) (k : Nat) (f : Package → Package) : (s.modPackage k f).agenda = s.agenda := rfl
@[simp] theorem State.modPackage_cur (s : State) (k : Nat) (f : Package → Package) : (s.modPackage k f).cur = s.cur := rfl
@[simp] theorem State.modPackage_fresh (s : State) (k : Nat) (f : Package → Package) : (s.modPackage k f).fresh = s.fresh := rfl
@[simp] theorem State.modPackage_seq (s : State) (k : Nat) (f : Package → Package) : (s.modPackage k f).seq = s.seq := rfl
@[simp] theorem State.modPackage_out (s : State) (k : Nat) (f : Package → Package) : (s.modPackage k f).out = s.out := rfl
@[simp] theorem State.modPackage_time (s : State) (k : Nat) (f : Package → Package) : (s.modPackage k f).time = s.time := rfl
@[simp] theorem State.modPackage_threads (s : State) (k : Nat) (f : Package → Package) : (s.modPackage k f).threads = s.threads := rfl
@[simp] theorem State.modPackage_cores (s : State) (k : Nat) (f : Package → Package) : (s.modPackage k f).cores = s.cores := rfl
@[simp] theorem State.modPackage_polders (s : State) (k : Nat) (f : Package → Package) : (s.modPackage k f).polders = s.polders := rfl
@[simp] theorem State.modPackage_slices (s : State) (k : Nat) (f : Package → Package) : (s.modPackage k f).slices = s.slices := rfl
@[simp] theorem State.modPackage_stackRecs (s : State) (k : Nat) (f : Package → Package) : (s.modPackage k f).stackRecs = s.stackRecs := rfl
@[simp] theorem State.modPackage_mem (s : State) (k : Nat) (f : Package → Package) : (s.modPackage k f).mem = s.mem := rfl
@[simp] theorem State.modPackage_poison (s : State) (k : Nat) (f : Package → Package) : (s.modPackage k f).poison = s.poison := rfl
@[simp] theorem State.modPackage_empties (s : State) (k : Nat) (f : Package → Package) : (s.modPackage k f).empties = s.empties := rfl
@[simp] theorem State.modPackage_census (s : State) (k : Nat) (f : Package → Package) : (s.modPackage k f).census = s.census := rfl
@[simp] theorem State.modPackage_launches (s : State) (k : Nat) (f : Package → Package) : (s.modPackage k f).launches = s.launches := rfl
@[simp] theorem State.modPackage_members (s : State) (k : Nat) (f : Package → Package) : (s.modPackage k f).members = s.members := rfl
@[simp] theorem State.modPackage_ended (s : State) (k : Nat) (f : Package → Package) : (s.modPackage k f).ended = s.ended := rfl
@[simp] theorem State.modPackage_levels (s : State) (k : Nat) (f : Package → Package) : (s.modPackage k f).levels = s.levels := rfl
@[simp] theorem State.modPackage_tokens (s : State) (k : Nat) (f : Package → Package) : (s.modPackage k f).tokens = s.tokens := rfl
@[simp] theorem State.modPackage_jobs (s : State) (k : Nat) (f : Package → Package) : (s.modPackage k f).jobs = s.jobs := rfl
@[simp] theorem State.modPackage_thread (s : State) (k : Nat) (f : Package → Package) (j : Nat) : (s.modPackage k f).thread j = s.thread j := rfl
@[simp] theorem State.modPackage_core (s : State) (k : Nat) (f : Package → Package) (j : Nat) : (s.modPackage k f).core j = s.core j := rfl
@[simp] theorem State.modPackage_polder (s : State) (k : Nat) (f : Package → Package) (j : Nat) : (s.modPackage k f).polder j = s.polder j := rfl
@[simp] theorem State.modPackage_slice (s : State) (k : Nat) (f : Package → Package) (j : Nat) : (s.modPackage k f).slice j = s.slice j := rfl
@[simp] theorem State.modPackage_stack (s : State) (k : Nat) (f : Package → Package) (j : Nat) : (s.modPackage k f).stack j = s.stack j := rfl
@[simp] theorem State.modPackage_me (s : State) (k : Nat) (f : Package → Package) : (s.modPackage k f).me = s.me := rfl
@[simp] theorem State.modPackage_byte (s : State) (k : Nat) (f : Package → Package) (pa : Nat) : (s.modPackage k f).byte pa = s.byte pa := rfl
@[simp] theorem State.modPackage_package_self (s : State) (k : Nat) (f : Package → Package) : (s.modPackage k f).package k = f (s.package k) := by
  simp [State.modPackage]
theorem State.modPackage_package_ne (s : State) (k j : Nat) (f : Package → Package) (hj : j ≠ k) :
    (s.modPackage k f).package j = s.package j := State.setPackage_package_ne s k j _ hj

/-! ## The records of the slot that issues -/

@[simp] theorem State.modMe_agenda (s : State) (f : Thread → Thread) : (s.modMe f).agenda = s.agenda := rfl
@[simp] theorem State.modMe_cur (s : State) (f : Thread → Thread) : (s.modMe f).cur = s.cur := rfl
@[simp] theorem State.modMe_fresh (s : State) (f : Thread → Thread) : (s.modMe f).fresh = s.fresh := rfl
@[simp] theorem State.modMe_seq (s : State) (f : Thread → Thread) : (s.modMe f).seq = s.seq := rfl
@[simp] theorem State.modMe_out (s : State) (f : Thread → Thread) : (s.modMe f).out = s.out := rfl
@[simp] theorem State.modMe_time (s : State) (f : Thread → Thread) : (s.modMe f).time = s.time := rfl
@[simp] theorem State.modMe_cores (s : State) (f : Thread → Thread) : (s.modMe f).cores = s.cores := rfl
@[simp] theorem State.modMe_polders (s : State) (f : Thread → Thread) : (s.modMe f).polders = s.polders := rfl
@[simp] theorem State.modMe_slices (s : State) (f : Thread → Thread) : (s.modMe f).slices = s.slices := rfl
@[simp] theorem State.modMe_stackRecs (s : State) (f : Thread → Thread) : (s.modMe f).stackRecs = s.stackRecs := rfl
@[simp] theorem State.modMe_packages (s : State) (f : Thread → Thread) : (s.modMe f).packages = s.packages := rfl
@[simp] theorem State.modMe_mem (s : State) (f : Thread → Thread) : (s.modMe f).mem = s.mem := rfl
@[simp] theorem State.modMe_poison (s : State) (f : Thread → Thread) : (s.modMe f).poison = s.poison := rfl
@[simp] theorem State.modMe_empties (s : State) (f : Thread → Thread) : (s.modMe f).empties = s.empties := rfl
@[simp] theorem State.modMe_census (s : State) (f : Thread → Thread) : (s.modMe f).census = s.census := rfl
@[simp] theorem State.modMe_launches (s : State) (f : Thread → Thread) : (s.modMe f).launches = s.launches := rfl
@[simp] theorem State.modMe_members (s : State) (f : Thread → Thread) : (s.modMe f).members = s.members := rfl
@[simp] theorem State.modMe_ended (s : State) (f : Thread → Thread) : (s.modMe f).ended = s.ended := rfl
@[simp] theorem State.modMe_levels (s : State) (f : Thread → Thread) : (s.modMe f).levels = s.levels := rfl
@[simp] theorem State.modMe_tokens (s : State) (f : Thread → Thread) : (s.modMe f).tokens = s.tokens := rfl
@[simp] theorem State.modMe_jobs (s : State) (f : Thread → Thread) : (s.modMe f).jobs = s.jobs := rfl
@[simp] theorem State.modMe_core (s : State) (f : Thread → Thread) (j : Nat) : (s.modMe f).core j = s.core j := rfl
@[simp] theorem State.modMe_polder (s : State) (f : Thread → Thread) (j : Nat) : (s.modMe f).polder j = s.polder j := rfl
@[simp] theorem State.modMe_slice (s : State) (f : Thread → Thread) (j : Nat) : (s.modMe f).slice j = s.slice j := rfl
@[simp] theorem State.modMe_stack (s : State) (f : Thread → Thread) (j : Nat) : (s.modMe f).stack j = s.stack j := rfl
@[simp] theorem State.modMe_package (s : State) (f : Thread → Thread) (j : Nat) : (s.modMe f).package j = s.package j := rfl
@[simp] theorem State.modMe_byte (s : State) (f : Thread → Thread) (pa : Nat) : (s.modMe f).byte pa = s.byte pa := rfl
@[simp] theorem State.modMe_me (s : State) (f : Thread → Thread) : (s.modMe f).me = f s.me := by
  simp [State.modMe, State.me]

@[simp] theorem State.modMyCore_agenda (s : State) (f : Core → Core) : (s.modMyCore f).agenda = s.agenda := rfl
@[simp] theorem State.modMyCore_cur (s : State) (f : Core → Core) : (s.modMyCore f).cur = s.cur := rfl
@[simp] theorem State.modMyCore_fresh (s : State) (f : Core → Core) : (s.modMyCore f).fresh = s.fresh := rfl
@[simp] theorem State.modMyCore_seq (s : State) (f : Core → Core) : (s.modMyCore f).seq = s.seq := rfl
@[simp] theorem State.modMyCore_out (s : State) (f : Core → Core) : (s.modMyCore f).out = s.out := rfl
@[simp] theorem State.modMyCore_time (s : State) (f : Core → Core) : (s.modMyCore f).time = s.time := rfl
@[simp] theorem State.modMyCore_threads (s : State) (f : Core → Core) : (s.modMyCore f).threads = s.threads := rfl
@[simp] theorem State.modMyCore_polders (s : State) (f : Core → Core) : (s.modMyCore f).polders = s.polders := rfl
@[simp] theorem State.modMyCore_slices (s : State) (f : Core → Core) : (s.modMyCore f).slices = s.slices := rfl
@[simp] theorem State.modMyCore_stackRecs (s : State) (f : Core → Core) : (s.modMyCore f).stackRecs = s.stackRecs := rfl
@[simp] theorem State.modMyCore_packages (s : State) (f : Core → Core) : (s.modMyCore f).packages = s.packages := rfl
@[simp] theorem State.modMyCore_mem (s : State) (f : Core → Core) : (s.modMyCore f).mem = s.mem := rfl
@[simp] theorem State.modMyCore_poison (s : State) (f : Core → Core) : (s.modMyCore f).poison = s.poison := rfl
@[simp] theorem State.modMyCore_empties (s : State) (f : Core → Core) : (s.modMyCore f).empties = s.empties := rfl
@[simp] theorem State.modMyCore_census (s : State) (f : Core → Core) : (s.modMyCore f).census = s.census := rfl
@[simp] theorem State.modMyCore_launches (s : State) (f : Core → Core) : (s.modMyCore f).launches = s.launches := rfl
@[simp] theorem State.modMyCore_members (s : State) (f : Core → Core) : (s.modMyCore f).members = s.members := rfl
@[simp] theorem State.modMyCore_ended (s : State) (f : Core → Core) : (s.modMyCore f).ended = s.ended := rfl
@[simp] theorem State.modMyCore_levels (s : State) (f : Core → Core) : (s.modMyCore f).levels = s.levels := rfl
@[simp] theorem State.modMyCore_tokens (s : State) (f : Core → Core) : (s.modMyCore f).tokens = s.tokens := rfl
@[simp] theorem State.modMyCore_jobs (s : State) (f : Core → Core) : (s.modMyCore f).jobs = s.jobs := rfl
@[simp] theorem State.modMyCore_thread (s : State) (f : Core → Core) (j : Nat) : (s.modMyCore f).thread j = s.thread j := rfl
@[simp] theorem State.modMyCore_polder (s : State) (f : Core → Core) (j : Nat) : (s.modMyCore f).polder j = s.polder j := rfl
@[simp] theorem State.modMyCore_slice (s : State) (f : Core → Core) (j : Nat) : (s.modMyCore f).slice j = s.slice j := rfl
@[simp] theorem State.modMyCore_stack (s : State) (f : Core → Core) (j : Nat) : (s.modMyCore f).stack j = s.stack j := rfl
@[simp] theorem State.modMyCore_package (s : State) (f : Core → Core) (j : Nat) : (s.modMyCore f).package j = s.package j := rfl
@[simp] theorem State.modMyCore_me (s : State) (f : Core → Core) : (s.modMyCore f).me = s.me := rfl
@[simp] theorem State.modMyCore_byte (s : State) (f : Core → Core) (pa : Nat) : (s.modMyCore f).byte pa = s.byte pa := rfl
@[simp] theorem State.modMyCore_myCore (s : State) (f : Core → Core) : (s.modMyCore f).myCore = f s.myCore := by
  simp [State.modMyCore, State.myCore]

@[simp] theorem State.modMyPolder_agenda (s : State) (f : Polder → Polder) : (s.modMyPolder f).agenda = s.agenda := rfl
@[simp] theorem State.modMyPolder_cur (s : State) (f : Polder → Polder) : (s.modMyPolder f).cur = s.cur := rfl
@[simp] theorem State.modMyPolder_fresh (s : State) (f : Polder → Polder) : (s.modMyPolder f).fresh = s.fresh := rfl
@[simp] theorem State.modMyPolder_seq (s : State) (f : Polder → Polder) : (s.modMyPolder f).seq = s.seq := rfl
@[simp] theorem State.modMyPolder_out (s : State) (f : Polder → Polder) : (s.modMyPolder f).out = s.out := rfl
@[simp] theorem State.modMyPolder_time (s : State) (f : Polder → Polder) : (s.modMyPolder f).time = s.time := rfl
@[simp] theorem State.modMyPolder_threads (s : State) (f : Polder → Polder) : (s.modMyPolder f).threads = s.threads := rfl
@[simp] theorem State.modMyPolder_cores (s : State) (f : Polder → Polder) : (s.modMyPolder f).cores = s.cores := rfl
@[simp] theorem State.modMyPolder_slices (s : State) (f : Polder → Polder) : (s.modMyPolder f).slices = s.slices := rfl
@[simp] theorem State.modMyPolder_stackRecs (s : State) (f : Polder → Polder) : (s.modMyPolder f).stackRecs = s.stackRecs := rfl
@[simp] theorem State.modMyPolder_packages (s : State) (f : Polder → Polder) : (s.modMyPolder f).packages = s.packages := rfl
@[simp] theorem State.modMyPolder_mem (s : State) (f : Polder → Polder) : (s.modMyPolder f).mem = s.mem := rfl
@[simp] theorem State.modMyPolder_poison (s : State) (f : Polder → Polder) : (s.modMyPolder f).poison = s.poison := rfl
@[simp] theorem State.modMyPolder_empties (s : State) (f : Polder → Polder) : (s.modMyPolder f).empties = s.empties := rfl
@[simp] theorem State.modMyPolder_census (s : State) (f : Polder → Polder) : (s.modMyPolder f).census = s.census := rfl
@[simp] theorem State.modMyPolder_launches (s : State) (f : Polder → Polder) : (s.modMyPolder f).launches = s.launches := rfl
@[simp] theorem State.modMyPolder_members (s : State) (f : Polder → Polder) : (s.modMyPolder f).members = s.members := rfl
@[simp] theorem State.modMyPolder_ended (s : State) (f : Polder → Polder) : (s.modMyPolder f).ended = s.ended := rfl
@[simp] theorem State.modMyPolder_levels (s : State) (f : Polder → Polder) : (s.modMyPolder f).levels = s.levels := rfl
@[simp] theorem State.modMyPolder_tokens (s : State) (f : Polder → Polder) : (s.modMyPolder f).tokens = s.tokens := rfl
@[simp] theorem State.modMyPolder_jobs (s : State) (f : Polder → Polder) : (s.modMyPolder f).jobs = s.jobs := rfl
@[simp] theorem State.modMyPolder_thread (s : State) (f : Polder → Polder) (j : Nat) : (s.modMyPolder f).thread j = s.thread j := rfl
@[simp] theorem State.modMyPolder_core (s : State) (f : Polder → Polder) (j : Nat) : (s.modMyPolder f).core j = s.core j := rfl
@[simp] theorem State.modMyPolder_slice (s : State) (f : Polder → Polder) (j : Nat) : (s.modMyPolder f).slice j = s.slice j := rfl
@[simp] theorem State.modMyPolder_stack (s : State) (f : Polder → Polder) (j : Nat) : (s.modMyPolder f).stack j = s.stack j := rfl
@[simp] theorem State.modMyPolder_package (s : State) (f : Polder → Polder) (j : Nat) : (s.modMyPolder f).package j = s.package j := rfl
@[simp] theorem State.modMyPolder_me (s : State) (f : Polder → Polder) : (s.modMyPolder f).me = s.me := rfl
@[simp] theorem State.modMyPolder_byte (s : State) (f : Polder → Polder) (pa : Nat) : (s.modMyPolder f).byte pa = s.byte pa := rfl
@[simp] theorem State.modMyPolder_myPolder (s : State) (f : Polder → Polder) : (s.modMyPolder f).myPolder = f s.myPolder := by
  simp [State.modMyPolder, State.myPolder]

@[simp] theorem State.modMyStack_agenda (s : State) (f : Stack → Stack) : (s.modMyStack f).agenda = s.agenda := rfl
@[simp] theorem State.modMyStack_cur (s : State) (f : Stack → Stack) : (s.modMyStack f).cur = s.cur := rfl
@[simp] theorem State.modMyStack_fresh (s : State) (f : Stack → Stack) : (s.modMyStack f).fresh = s.fresh := rfl
@[simp] theorem State.modMyStack_seq (s : State) (f : Stack → Stack) : (s.modMyStack f).seq = s.seq := rfl
@[simp] theorem State.modMyStack_out (s : State) (f : Stack → Stack) : (s.modMyStack f).out = s.out := rfl
@[simp] theorem State.modMyStack_time (s : State) (f : Stack → Stack) : (s.modMyStack f).time = s.time := rfl
@[simp] theorem State.modMyStack_threads (s : State) (f : Stack → Stack) : (s.modMyStack f).threads = s.threads := rfl
@[simp] theorem State.modMyStack_cores (s : State) (f : Stack → Stack) : (s.modMyStack f).cores = s.cores := rfl
@[simp] theorem State.modMyStack_polders (s : State) (f : Stack → Stack) : (s.modMyStack f).polders = s.polders := rfl
@[simp] theorem State.modMyStack_slices (s : State) (f : Stack → Stack) : (s.modMyStack f).slices = s.slices := rfl
@[simp] theorem State.modMyStack_packages (s : State) (f : Stack → Stack) : (s.modMyStack f).packages = s.packages := rfl
@[simp] theorem State.modMyStack_mem (s : State) (f : Stack → Stack) : (s.modMyStack f).mem = s.mem := rfl
@[simp] theorem State.modMyStack_poison (s : State) (f : Stack → Stack) : (s.modMyStack f).poison = s.poison := rfl
@[simp] theorem State.modMyStack_empties (s : State) (f : Stack → Stack) : (s.modMyStack f).empties = s.empties := rfl
@[simp] theorem State.modMyStack_census (s : State) (f : Stack → Stack) : (s.modMyStack f).census = s.census := rfl
@[simp] theorem State.modMyStack_launches (s : State) (f : Stack → Stack) : (s.modMyStack f).launches = s.launches := rfl
@[simp] theorem State.modMyStack_members (s : State) (f : Stack → Stack) : (s.modMyStack f).members = s.members := rfl
@[simp] theorem State.modMyStack_ended (s : State) (f : Stack → Stack) : (s.modMyStack f).ended = s.ended := rfl
@[simp] theorem State.modMyStack_levels (s : State) (f : Stack → Stack) : (s.modMyStack f).levels = s.levels := rfl
@[simp] theorem State.modMyStack_tokens (s : State) (f : Stack → Stack) : (s.modMyStack f).tokens = s.tokens := rfl
@[simp] theorem State.modMyStack_jobs (s : State) (f : Stack → Stack) : (s.modMyStack f).jobs = s.jobs := rfl
@[simp] theorem State.modMyStack_thread (s : State) (f : Stack → Stack) (j : Nat) : (s.modMyStack f).thread j = s.thread j := rfl
@[simp] theorem State.modMyStack_core (s : State) (f : Stack → Stack) (j : Nat) : (s.modMyStack f).core j = s.core j := rfl
@[simp] theorem State.modMyStack_polder (s : State) (f : Stack → Stack) (j : Nat) : (s.modMyStack f).polder j = s.polder j := rfl
@[simp] theorem State.modMyStack_slice (s : State) (f : Stack → Stack) (j : Nat) : (s.modMyStack f).slice j = s.slice j := rfl
@[simp] theorem State.modMyStack_package (s : State) (f : Stack → Stack) (j : Nat) : (s.modMyStack f).package j = s.package j := rfl
@[simp] theorem State.modMyStack_me (s : State) (f : Stack → Stack) : (s.modMyStack f).me = s.me := rfl
@[simp] theorem State.modMyStack_byte (s : State) (f : Stack → Stack) (pa : Nat) : (s.modMyStack f).byte pa = s.byte pa := rfl
@[simp] theorem State.modMyStack_myStack (s : State) (f : Stack → Stack) : (s.modMyStack f).myStack = f s.myStack := by
  simp [State.modMyStack, State.myStack]

@[simp] theorem State.park_agenda (s : State) (w : Park) : (s.park w).agenda = s.agenda := rfl
@[simp] theorem State.park_cur (s : State) (w : Park) : (s.park w).cur = s.cur := rfl
@[simp] theorem State.park_fresh (s : State) (w : Park) : (s.park w).fresh = s.fresh := rfl
@[simp] theorem State.park_seq (s : State) (w : Park) : (s.park w).seq = s.seq := rfl
@[simp] theorem State.park_out (s : State) (w : Park) : (s.park w).out = s.out := rfl
@[simp] theorem State.park_time (s : State) (w : Park) : (s.park w).time = s.time := rfl
@[simp] theorem State.park_cores (s : State) (w : Park) : (s.park w).cores = s.cores := rfl
@[simp] theorem State.park_polders (s : State) (w : Park) : (s.park w).polders = s.polders := rfl
@[simp] theorem State.park_slices (s : State) (w : Park) : (s.park w).slices = s.slices := rfl
@[simp] theorem State.park_stackRecs (s : State) (w : Park) : (s.park w).stackRecs = s.stackRecs := rfl
@[simp] theorem State.park_packages (s : State) (w : Park) : (s.park w).packages = s.packages := rfl
@[simp] theorem State.park_mem (s : State) (w : Park) : (s.park w).mem = s.mem := rfl
@[simp] theorem State.park_poison (s : State) (w : Park) : (s.park w).poison = s.poison := rfl
@[simp] theorem State.park_empties (s : State) (w : Park) : (s.park w).empties = s.empties := rfl
@[simp] theorem State.park_census (s : State) (w : Park) : (s.park w).census = s.census := rfl
@[simp] theorem State.park_launches (s : State) (w : Park) : (s.park w).launches = s.launches := rfl
@[simp] theorem State.park_members (s : State) (w : Park) : (s.park w).members = s.members := rfl
@[simp] theorem State.park_ended (s : State) (w : Park) : (s.park w).ended = s.ended := rfl
@[simp] theorem State.park_levels (s : State) (w : Park) : (s.park w).levels = s.levels := rfl
@[simp] theorem State.park_tokens (s : State) (w : Park) : (s.park w).tokens = s.tokens := rfl
@[simp] theorem State.park_jobs (s : State) (w : Park) : (s.park w).jobs = s.jobs := rfl
@[simp] theorem State.park_core (s : State) (w : Park) (j : Nat) : (s.park w).core j = s.core j := rfl
@[simp] theorem State.park_polder (s : State) (w : Park) (j : Nat) : (s.park w).polder j = s.polder j := rfl
@[simp] theorem State.park_slice (s : State) (w : Park) (j : Nat) : (s.park w).slice j = s.slice j := rfl
@[simp] theorem State.park_stack (s : State) (w : Park) (j : Nat) : (s.park w).stack j = s.stack j := rfl
@[simp] theorem State.park_package (s : State) (w : Park) (j : Nat) : (s.park w).package j = s.package j := rfl
@[simp] theorem State.park_byte (s : State) (w : Park) (pa : Nat) : (s.park w).byte pa = s.byte pa := rfl
@[simp] theorem State.park_me (s : State) (w : Park) : (s.park w).me = { s.me with wait := w } := by
  simp [State.park]

@[simp] theorem State.goto_agenda (s : State) (n : Nat) : (s.goto n).agenda = s.agenda := rfl
@[simp] theorem State.goto_cur (s : State) (n : Nat) : (s.goto n).cur = s.cur := rfl
@[simp] theorem State.goto_fresh (s : State) (n : Nat) : (s.goto n).fresh = s.fresh := rfl
@[simp] theorem State.goto_seq (s : State) (n : Nat) : (s.goto n).seq = s.seq := rfl
@[simp] theorem State.goto_out (s : State) (n : Nat) : (s.goto n).out = s.out := rfl
@[simp] theorem State.goto_time (s : State) (n : Nat) : (s.goto n).time = s.time := rfl
@[simp] theorem State.goto_cores (s : State) (n : Nat) : (s.goto n).cores = s.cores := rfl
@[simp] theorem State.goto_polders (s : State) (n : Nat) : (s.goto n).polders = s.polders := rfl
@[simp] theorem State.goto_slices (s : State) (n : Nat) : (s.goto n).slices = s.slices := rfl
@[simp] theorem State.goto_stackRecs (s : State) (n : Nat) : (s.goto n).stackRecs = s.stackRecs := rfl
@[simp] theorem State.goto_packages (s : State) (n : Nat) : (s.goto n).packages = s.packages := rfl
@[simp] theorem State.goto_mem (s : State) (n : Nat) : (s.goto n).mem = s.mem := rfl
@[simp] theorem State.goto_poison (s : State) (n : Nat) : (s.goto n).poison = s.poison := rfl
@[simp] theorem State.goto_empties (s : State) (n : Nat) : (s.goto n).empties = s.empties := rfl
@[simp] theorem State.goto_census (s : State) (n : Nat) : (s.goto n).census = s.census := rfl
@[simp] theorem State.goto_launches (s : State) (n : Nat) : (s.goto n).launches = s.launches := rfl
@[simp] theorem State.goto_members (s : State) (n : Nat) : (s.goto n).members = s.members := rfl
@[simp] theorem State.goto_ended (s : State) (n : Nat) : (s.goto n).ended = s.ended := rfl
@[simp] theorem State.goto_levels (s : State) (n : Nat) : (s.goto n).levels = s.levels := rfl
@[simp] theorem State.goto_tokens (s : State) (n : Nat) : (s.goto n).tokens = s.tokens := rfl
@[simp] theorem State.goto_jobs (s : State) (n : Nat) : (s.goto n).jobs = s.jobs := rfl
@[simp] theorem State.goto_core (s : State) (n : Nat) (j : Nat) : (s.goto n).core j = s.core j := rfl
@[simp] theorem State.goto_polder (s : State) (n : Nat) (j : Nat) : (s.goto n).polder j = s.polder j := rfl
@[simp] theorem State.goto_slice (s : State) (n : Nat) (j : Nat) : (s.goto n).slice j = s.slice j := rfl
@[simp] theorem State.goto_stack (s : State) (n : Nat) (j : Nat) : (s.goto n).stack j = s.stack j := rfl
@[simp] theorem State.goto_package (s : State) (n : Nat) (j : Nat) : (s.goto n).package j = s.package j := rfl
@[simp] theorem State.goto_byte (s : State) (n : Nat) (pa : Nat) : (s.goto n).byte pa = s.byte pa := rfl
theorem State.goto_me (s : State) (n : Nat) :
    (s.goto n).me = { s.me with pc := n, wait := .no, prog := .none, xfault := none, hgot := [] } := by
  simp [State.goto]
@[simp] theorem State.goto_pc (s : State) (n : Nat) : (s.goto n).me.pc = n := by simp [State.goto]
@[simp] theorem State.advance_pc (s : State) (n : Nat) : (s.advance n).me.pc = s.me.pc + n := by simp [State.advance]

/-! ## Memory, poison, full and empty, and the counters -/

@[simp] theorem State.setByte_agenda (s : State) (a : Nat) (b : Byte) : (s.setByte a b).agenda = s.agenda := rfl
@[simp] theorem State.setByte_cur (s : State) (a : Nat) (b : Byte) : (s.setByte a b).cur = s.cur := rfl
@[simp] theorem State.setByte_fresh (s : State) (a : Nat) (b : Byte) : (s.setByte a b).fresh = s.fresh := rfl
@[simp] theorem State.setByte_seq (s : State) (a : Nat) (b : Byte) : (s.setByte a b).seq = s.seq := rfl
@[simp] theorem State.setByte_out (s : State) (a : Nat) (b : Byte) : (s.setByte a b).out = s.out := rfl
@[simp] theorem State.setByte_time (s : State) (a : Nat) (b : Byte) : (s.setByte a b).time = s.time := rfl
@[simp] theorem State.setByte_threads (s : State) (a : Nat) (b : Byte) : (s.setByte a b).threads = s.threads := rfl
@[simp] theorem State.setByte_cores (s : State) (a : Nat) (b : Byte) : (s.setByte a b).cores = s.cores := rfl
@[simp] theorem State.setByte_polders (s : State) (a : Nat) (b : Byte) : (s.setByte a b).polders = s.polders := rfl
@[simp] theorem State.setByte_slices (s : State) (a : Nat) (b : Byte) : (s.setByte a b).slices = s.slices := rfl
@[simp] theorem State.setByte_stackRecs (s : State) (a : Nat) (b : Byte) : (s.setByte a b).stackRecs = s.stackRecs := rfl
@[simp] theorem State.setByte_packages (s : State) (a : Nat) (b : Byte) : (s.setByte a b).packages = s.packages := rfl
@[simp] theorem State.setByte_poison (s : State) (a : Nat) (b : Byte) : (s.setByte a b).poison = s.poison := rfl
@[simp] theorem State.setByte_empties (s : State) (a : Nat) (b : Byte) : (s.setByte a b).empties = s.empties := rfl
@[simp] theorem State.setByte_census (s : State) (a : Nat) (b : Byte) : (s.setByte a b).census = s.census := rfl
@[simp] theorem State.setByte_launches (s : State) (a : Nat) (b : Byte) : (s.setByte a b).launches = s.launches := rfl
@[simp] theorem State.setByte_members (s : State) (a : Nat) (b : Byte) : (s.setByte a b).members = s.members := rfl
@[simp] theorem State.setByte_ended (s : State) (a : Nat) (b : Byte) : (s.setByte a b).ended = s.ended := rfl
@[simp] theorem State.setByte_levels (s : State) (a : Nat) (b : Byte) : (s.setByte a b).levels = s.levels := rfl
@[simp] theorem State.setByte_tokens (s : State) (a : Nat) (b : Byte) : (s.setByte a b).tokens = s.tokens := rfl
@[simp] theorem State.setByte_jobs (s : State) (a : Nat) (b : Byte) : (s.setByte a b).jobs = s.jobs := rfl
@[simp] theorem State.setByte_thread (s : State) (a : Nat) (b : Byte) (j : Nat) : (s.setByte a b).thread j = s.thread j := rfl
@[simp] theorem State.setByte_core (s : State) (a : Nat) (b : Byte) (j : Nat) : (s.setByte a b).core j = s.core j := rfl
@[simp] theorem State.setByte_polder (s : State) (a : Nat) (b : Byte) (j : Nat) : (s.setByte a b).polder j = s.polder j := rfl
@[simp] theorem State.setByte_slice (s : State) (a : Nat) (b : Byte) (j : Nat) : (s.setByte a b).slice j = s.slice j := rfl
@[simp] theorem State.setByte_stack (s : State) (a : Nat) (b : Byte) (j : Nat) : (s.setByte a b).stack j = s.stack j := rfl
@[simp] theorem State.setByte_package (s : State) (a : Nat) (b : Byte) (j : Nat) : (s.setByte a b).package j = s.package j := rfl
@[simp] theorem State.setByte_me (s : State) (a : Nat) (b : Byte) : (s.setByte a b).me = s.me := rfl

@[simp] theorem State.setPattern_agenda (s : State) (g : Nat) (b : Bool) : (s.setPattern g b).agenda = s.agenda := rfl
@[simp] theorem State.setPattern_cur (s : State) (g : Nat) (b : Bool) : (s.setPattern g b).cur = s.cur := rfl
@[simp] theorem State.setPattern_fresh (s : State) (g : Nat) (b : Bool) : (s.setPattern g b).fresh = s.fresh := rfl
@[simp] theorem State.setPattern_seq (s : State) (g : Nat) (b : Bool) : (s.setPattern g b).seq = s.seq := rfl
@[simp] theorem State.setPattern_out (s : State) (g : Nat) (b : Bool) : (s.setPattern g b).out = s.out := rfl
@[simp] theorem State.setPattern_time (s : State) (g : Nat) (b : Bool) : (s.setPattern g b).time = s.time := rfl
@[simp] theorem State.setPattern_threads (s : State) (g : Nat) (b : Bool) : (s.setPattern g b).threads = s.threads := rfl
@[simp] theorem State.setPattern_cores (s : State) (g : Nat) (b : Bool) : (s.setPattern g b).cores = s.cores := rfl
@[simp] theorem State.setPattern_polders (s : State) (g : Nat) (b : Bool) : (s.setPattern g b).polders = s.polders := rfl
@[simp] theorem State.setPattern_slices (s : State) (g : Nat) (b : Bool) : (s.setPattern g b).slices = s.slices := rfl
@[simp] theorem State.setPattern_stackRecs (s : State) (g : Nat) (b : Bool) : (s.setPattern g b).stackRecs = s.stackRecs := rfl
@[simp] theorem State.setPattern_packages (s : State) (g : Nat) (b : Bool) : (s.setPattern g b).packages = s.packages := rfl
@[simp] theorem State.setPattern_mem (s : State) (g : Nat) (b : Bool) : (s.setPattern g b).mem = s.mem := rfl
@[simp] theorem State.setPattern_empties (s : State) (g : Nat) (b : Bool) : (s.setPattern g b).empties = s.empties := rfl
@[simp] theorem State.setPattern_census (s : State) (g : Nat) (b : Bool) : (s.setPattern g b).census = s.census := rfl
@[simp] theorem State.setPattern_launches (s : State) (g : Nat) (b : Bool) : (s.setPattern g b).launches = s.launches := rfl
@[simp] theorem State.setPattern_members (s : State) (g : Nat) (b : Bool) : (s.setPattern g b).members = s.members := rfl
@[simp] theorem State.setPattern_ended (s : State) (g : Nat) (b : Bool) : (s.setPattern g b).ended = s.ended := rfl
@[simp] theorem State.setPattern_levels (s : State) (g : Nat) (b : Bool) : (s.setPattern g b).levels = s.levels := rfl
@[simp] theorem State.setPattern_tokens (s : State) (g : Nat) (b : Bool) : (s.setPattern g b).tokens = s.tokens := rfl
@[simp] theorem State.setPattern_jobs (s : State) (g : Nat) (b : Bool) : (s.setPattern g b).jobs = s.jobs := rfl
@[simp] theorem State.setPattern_thread (s : State) (g : Nat) (b : Bool) (j : Nat) : (s.setPattern g b).thread j = s.thread j := rfl
@[simp] theorem State.setPattern_core (s : State) (g : Nat) (b : Bool) (j : Nat) : (s.setPattern g b).core j = s.core j := rfl
@[simp] theorem State.setPattern_polder (s : State) (g : Nat) (b : Bool) (j : Nat) : (s.setPattern g b).polder j = s.polder j := rfl
@[simp] theorem State.setPattern_slice (s : State) (g : Nat) (b : Bool) (j : Nat) : (s.setPattern g b).slice j = s.slice j := rfl
@[simp] theorem State.setPattern_stack (s : State) (g : Nat) (b : Bool) (j : Nat) : (s.setPattern g b).stack j = s.stack j := rfl
@[simp] theorem State.setPattern_package (s : State) (g : Nat) (b : Bool) (j : Nat) : (s.setPattern g b).package j = s.package j := rfl
@[simp] theorem State.setPattern_me (s : State) (g : Nat) (b : Bool) : (s.setPattern g b).me = s.me := rfl
@[simp] theorem State.setPattern_byte (s : State) (g : Nat) (b : Bool) (pa : Nat) : (s.setPattern g b).byte pa = s.byte pa := rfl

@[simp] theorem State.setLine_agenda (s : State) (sl line : Nat) (l : Line) : (s.setLine sl line l).agenda = s.agenda := rfl
@[simp] theorem State.setLine_cur (s : State) (sl line : Nat) (l : Line) : (s.setLine sl line l).cur = s.cur := rfl
@[simp] theorem State.setLine_fresh (s : State) (sl line : Nat) (l : Line) : (s.setLine sl line l).fresh = s.fresh := rfl
@[simp] theorem State.setLine_seq (s : State) (sl line : Nat) (l : Line) : (s.setLine sl line l).seq = s.seq := rfl
@[simp] theorem State.setLine_out (s : State) (sl line : Nat) (l : Line) : (s.setLine sl line l).out = s.out := rfl
@[simp] theorem State.setLine_time (s : State) (sl line : Nat) (l : Line) : (s.setLine sl line l).time = s.time := rfl
@[simp] theorem State.setLine_threads (s : State) (sl line : Nat) (l : Line) : (s.setLine sl line l).threads = s.threads := rfl
@[simp] theorem State.setLine_cores (s : State) (sl line : Nat) (l : Line) : (s.setLine sl line l).cores = s.cores := rfl
@[simp] theorem State.setLine_polders (s : State) (sl line : Nat) (l : Line) : (s.setLine sl line l).polders = s.polders := rfl
@[simp] theorem State.setLine_stackRecs (s : State) (sl line : Nat) (l : Line) : (s.setLine sl line l).stackRecs = s.stackRecs := rfl
@[simp] theorem State.setLine_packages (s : State) (sl line : Nat) (l : Line) : (s.setLine sl line l).packages = s.packages := rfl
@[simp] theorem State.setLine_mem (s : State) (sl line : Nat) (l : Line) : (s.setLine sl line l).mem = s.mem := rfl
@[simp] theorem State.setLine_poison (s : State) (sl line : Nat) (l : Line) : (s.setLine sl line l).poison = s.poison := rfl
@[simp] theorem State.setLine_empties (s : State) (sl line : Nat) (l : Line) : (s.setLine sl line l).empties = s.empties := rfl
@[simp] theorem State.setLine_census (s : State) (sl line : Nat) (l : Line) : (s.setLine sl line l).census = s.census := rfl
@[simp] theorem State.setLine_launches (s : State) (sl line : Nat) (l : Line) : (s.setLine sl line l).launches = s.launches := rfl
@[simp] theorem State.setLine_members (s : State) (sl line : Nat) (l : Line) : (s.setLine sl line l).members = s.members := rfl
@[simp] theorem State.setLine_ended (s : State) (sl line : Nat) (l : Line) : (s.setLine sl line l).ended = s.ended := rfl
@[simp] theorem State.setLine_levels (s : State) (sl line : Nat) (l : Line) : (s.setLine sl line l).levels = s.levels := rfl
@[simp] theorem State.setLine_tokens (s : State) (sl line : Nat) (l : Line) : (s.setLine sl line l).tokens = s.tokens := rfl
@[simp] theorem State.setLine_jobs (s : State) (sl line : Nat) (l : Line) : (s.setLine sl line l).jobs = s.jobs := rfl
@[simp] theorem State.setLine_thread (s : State) (sl line : Nat) (l : Line) (j : Nat) : (s.setLine sl line l).thread j = s.thread j := rfl
@[simp] theorem State.setLine_core (s : State) (sl line : Nat) (l : Line) (j : Nat) : (s.setLine sl line l).core j = s.core j := rfl
@[simp] theorem State.setLine_polder (s : State) (sl line : Nat) (l : Line) (j : Nat) : (s.setLine sl line l).polder j = s.polder j := rfl
@[simp] theorem State.setLine_stack (s : State) (sl line : Nat) (l : Line) (j : Nat) : (s.setLine sl line l).stack j = s.stack j := rfl
@[simp] theorem State.setLine_package (s : State) (sl line : Nat) (l : Line) (j : Nat) : (s.setLine sl line l).package j = s.package j := rfl
@[simp] theorem State.setLine_me (s : State) (sl line : Nat) (l : Line) : (s.setLine sl line l).me = s.me := rfl
@[simp] theorem State.setLine_byte (s : State) (sl line : Nat) (l : Line) (pa : Nat) : (s.setLine sl line l).byte pa = s.byte pa := rfl

@[simp] theorem State.dropLine_agenda (s : State) (sl line : Nat) : (s.dropLine sl line).agenda = s.agenda := rfl
@[simp] theorem State.dropLine_cur (s : State) (sl line : Nat) : (s.dropLine sl line).cur = s.cur := rfl
@[simp] theorem State.dropLine_fresh (s : State) (sl line : Nat) : (s.dropLine sl line).fresh = s.fresh := rfl
@[simp] theorem State.dropLine_seq (s : State) (sl line : Nat) : (s.dropLine sl line).seq = s.seq := rfl
@[simp] theorem State.dropLine_out (s : State) (sl line : Nat) : (s.dropLine sl line).out = s.out := rfl
@[simp] theorem State.dropLine_time (s : State) (sl line : Nat) : (s.dropLine sl line).time = s.time := rfl
@[simp] theorem State.dropLine_threads (s : State) (sl line : Nat) : (s.dropLine sl line).threads = s.threads := rfl
@[simp] theorem State.dropLine_cores (s : State) (sl line : Nat) : (s.dropLine sl line).cores = s.cores := rfl
@[simp] theorem State.dropLine_polders (s : State) (sl line : Nat) : (s.dropLine sl line).polders = s.polders := rfl
@[simp] theorem State.dropLine_stackRecs (s : State) (sl line : Nat) : (s.dropLine sl line).stackRecs = s.stackRecs := rfl
@[simp] theorem State.dropLine_packages (s : State) (sl line : Nat) : (s.dropLine sl line).packages = s.packages := rfl
@[simp] theorem State.dropLine_mem (s : State) (sl line : Nat) : (s.dropLine sl line).mem = s.mem := rfl
@[simp] theorem State.dropLine_poison (s : State) (sl line : Nat) : (s.dropLine sl line).poison = s.poison := rfl
@[simp] theorem State.dropLine_empties (s : State) (sl line : Nat) : (s.dropLine sl line).empties = s.empties := rfl
@[simp] theorem State.dropLine_census (s : State) (sl line : Nat) : (s.dropLine sl line).census = s.census := rfl
@[simp] theorem State.dropLine_launches (s : State) (sl line : Nat) : (s.dropLine sl line).launches = s.launches := rfl
@[simp] theorem State.dropLine_members (s : State) (sl line : Nat) : (s.dropLine sl line).members = s.members := rfl
@[simp] theorem State.dropLine_ended (s : State) (sl line : Nat) : (s.dropLine sl line).ended = s.ended := rfl
@[simp] theorem State.dropLine_levels (s : State) (sl line : Nat) : (s.dropLine sl line).levels = s.levels := rfl
@[simp] theorem State.dropLine_tokens (s : State) (sl line : Nat) : (s.dropLine sl line).tokens = s.tokens := rfl
@[simp] theorem State.dropLine_jobs (s : State) (sl line : Nat) : (s.dropLine sl line).jobs = s.jobs := rfl
@[simp] theorem State.dropLine_thread (s : State) (sl line : Nat) (j : Nat) : (s.dropLine sl line).thread j = s.thread j := rfl
@[simp] theorem State.dropLine_core (s : State) (sl line : Nat) (j : Nat) : (s.dropLine sl line).core j = s.core j := rfl
@[simp] theorem State.dropLine_polder (s : State) (sl line : Nat) (j : Nat) : (s.dropLine sl line).polder j = s.polder j := rfl
@[simp] theorem State.dropLine_stack (s : State) (sl line : Nat) (j : Nat) : (s.dropLine sl line).stack j = s.stack j := rfl
@[simp] theorem State.dropLine_package (s : State) (sl line : Nat) (j : Nat) : (s.dropLine sl line).package j = s.package j := rfl
@[simp] theorem State.dropLine_me (s : State) (sl line : Nat) : (s.dropLine sl line).me = s.me := rfl
@[simp] theorem State.dropLine_byte (s : State) (sl line : Nat) (pa : Nat) : (s.dropLine sl line).byte pa = s.byte pa := rfl

@[simp] theorem State.mark_agenda (s : State) (a : Nat) (b : Bool) : (s.mark a b).agenda = s.agenda := by
  unfold State.mark; split <;> rfl
@[simp] theorem State.mark_cur (s : State) (a : Nat) (b : Bool) : (s.mark a b).cur = s.cur := by
  unfold State.mark; split <;> rfl
@[simp] theorem State.mark_fresh (s : State) (a : Nat) (b : Bool) : (s.mark a b).fresh = s.fresh := by
  unfold State.mark; split <;> rfl
@[simp] theorem State.mark_seq (s : State) (a : Nat) (b : Bool) : (s.mark a b).seq = s.seq := by
  unfold State.mark; split <;> rfl
@[simp] theorem State.mark_out (s : State) (a : Nat) (b : Bool) : (s.mark a b).out = s.out := by
  unfold State.mark; split <;> rfl
@[simp] theorem State.mark_time (s : State) (a : Nat) (b : Bool) : (s.mark a b).time = s.time := by
  unfold State.mark; split <;> rfl
@[simp] theorem State.mark_threads (s : State) (a : Nat) (b : Bool) : (s.mark a b).threads = s.threads := by
  unfold State.mark; split <;> rfl
@[simp] theorem State.mark_cores (s : State) (a : Nat) (b : Bool) : (s.mark a b).cores = s.cores := by
  unfold State.mark; split <;> rfl
@[simp] theorem State.mark_polders (s : State) (a : Nat) (b : Bool) : (s.mark a b).polders = s.polders := by
  unfold State.mark; split <;> rfl
@[simp] theorem State.mark_stackRecs (s : State) (a : Nat) (b : Bool) : (s.mark a b).stackRecs = s.stackRecs := by
  unfold State.mark; split <;> rfl
@[simp] theorem State.mark_packages (s : State) (a : Nat) (b : Bool) : (s.mark a b).packages = s.packages := by
  unfold State.mark; split <;> rfl
@[simp] theorem State.mark_mem (s : State) (a : Nat) (b : Bool) : (s.mark a b).mem = s.mem := by
  unfold State.mark; split <;> rfl
@[simp] theorem State.mark_empties (s : State) (a : Nat) (b : Bool) : (s.mark a b).empties = s.empties := by
  unfold State.mark; split <;> rfl
@[simp] theorem State.mark_census (s : State) (a : Nat) (b : Bool) : (s.mark a b).census = s.census := by
  unfold State.mark; split <;> rfl
@[simp] theorem State.mark_launches (s : State) (a : Nat) (b : Bool) : (s.mark a b).launches = s.launches := by
  unfold State.mark; split <;> rfl
@[simp] theorem State.mark_members (s : State) (a : Nat) (b : Bool) : (s.mark a b).members = s.members := by
  unfold State.mark; split <;> rfl
@[simp] theorem State.mark_ended (s : State) (a : Nat) (b : Bool) : (s.mark a b).ended = s.ended := by
  unfold State.mark; split <;> rfl
@[simp] theorem State.mark_levels (s : State) (a : Nat) (b : Bool) : (s.mark a b).levels = s.levels := by
  unfold State.mark; split <;> rfl
@[simp] theorem State.mark_tokens (s : State) (a : Nat) (b : Bool) : (s.mark a b).tokens = s.tokens := by
  unfold State.mark; split <;> rfl
@[simp] theorem State.mark_jobs (s : State) (a : Nat) (b : Bool) : (s.mark a b).jobs = s.jobs := by
  unfold State.mark; split <;> rfl
@[simp] theorem State.mark_thread (s : State) (a : Nat) (b : Bool) (j : Nat) : (s.mark a b).thread j = s.thread j := by
  unfold State.mark; split <;> rfl
@[simp] theorem State.mark_core (s : State) (a : Nat) (b : Bool) (j : Nat) : (s.mark a b).core j = s.core j := by
  unfold State.mark; split <;> rfl
@[simp] theorem State.mark_polder (s : State) (a : Nat) (b : Bool) (j : Nat) : (s.mark a b).polder j = s.polder j := by
  unfold State.mark; split <;> rfl
@[simp] theorem State.mark_stack (s : State) (a : Nat) (b : Bool) (j : Nat) : (s.mark a b).stack j = s.stack j := by
  unfold State.mark; split <;> rfl
@[simp] theorem State.mark_package (s : State) (a : Nat) (b : Bool) (j : Nat) : (s.mark a b).package j = s.package j := by
  unfold State.mark; split <;> rfl
@[simp] theorem State.mark_me (s : State) (a : Nat) (b : Bool) : (s.mark a b).me = s.me := by
  unfold State.mark; split <;> rfl
@[simp] theorem State.mark_byte (s : State) (a : Nat) (b : Bool) (pa : Nat) : (s.mark a b).byte pa = s.byte pa := by
  unfold State.mark; split <;> rfl

@[simp] theorem State.setPoison_agenda (s : State) (a : Nat) : (s.setPoison a).agenda = s.agenda := State.mark_agenda s a true
@[simp] theorem State.setPoison_cur (s : State) (a : Nat) : (s.setPoison a).cur = s.cur := State.mark_cur s a true
@[simp] theorem State.setPoison_fresh (s : State) (a : Nat) : (s.setPoison a).fresh = s.fresh := State.mark_fresh s a true
@[simp] theorem State.setPoison_seq (s : State) (a : Nat) : (s.setPoison a).seq = s.seq := State.mark_seq s a true
@[simp] theorem State.setPoison_out (s : State) (a : Nat) : (s.setPoison a).out = s.out := State.mark_out s a true
@[simp] theorem State.setPoison_time (s : State) (a : Nat) : (s.setPoison a).time = s.time := State.mark_time s a true
@[simp] theorem State.setPoison_threads (s : State) (a : Nat) : (s.setPoison a).threads = s.threads := State.mark_threads s a true
@[simp] theorem State.setPoison_cores (s : State) (a : Nat) : (s.setPoison a).cores = s.cores := State.mark_cores s a true
@[simp] theorem State.setPoison_polders (s : State) (a : Nat) : (s.setPoison a).polders = s.polders := State.mark_polders s a true
@[simp] theorem State.setPoison_stackRecs (s : State) (a : Nat) : (s.setPoison a).stackRecs = s.stackRecs := State.mark_stackRecs s a true
@[simp] theorem State.setPoison_packages (s : State) (a : Nat) : (s.setPoison a).packages = s.packages := State.mark_packages s a true
@[simp] theorem State.setPoison_mem (s : State) (a : Nat) : (s.setPoison a).mem = s.mem := State.mark_mem s a true
@[simp] theorem State.setPoison_empties (s : State) (a : Nat) : (s.setPoison a).empties = s.empties := State.mark_empties s a true
@[simp] theorem State.setPoison_census (s : State) (a : Nat) : (s.setPoison a).census = s.census := State.mark_census s a true
@[simp] theorem State.setPoison_launches (s : State) (a : Nat) : (s.setPoison a).launches = s.launches := State.mark_launches s a true
@[simp] theorem State.setPoison_members (s : State) (a : Nat) : (s.setPoison a).members = s.members := State.mark_members s a true
@[simp] theorem State.setPoison_ended (s : State) (a : Nat) : (s.setPoison a).ended = s.ended := State.mark_ended s a true
@[simp] theorem State.setPoison_levels (s : State) (a : Nat) : (s.setPoison a).levels = s.levels := State.mark_levels s a true
@[simp] theorem State.setPoison_tokens (s : State) (a : Nat) : (s.setPoison a).tokens = s.tokens := State.mark_tokens s a true
@[simp] theorem State.setPoison_jobs (s : State) (a : Nat) : (s.setPoison a).jobs = s.jobs := State.mark_jobs s a true
@[simp] theorem State.setPoison_thread (s : State) (a : Nat) (j : Nat) : (s.setPoison a).thread j = s.thread j := State.mark_thread s a true j
@[simp] theorem State.setPoison_core (s : State) (a : Nat) (j : Nat) : (s.setPoison a).core j = s.core j := State.mark_core s a true j
@[simp] theorem State.setPoison_polder (s : State) (a : Nat) (j : Nat) : (s.setPoison a).polder j = s.polder j := State.mark_polder s a true j
@[simp] theorem State.setPoison_stack (s : State) (a : Nat) (j : Nat) : (s.setPoison a).stack j = s.stack j := State.mark_stack s a true j
@[simp] theorem State.setPoison_package (s : State) (a : Nat) (j : Nat) : (s.setPoison a).package j = s.package j := State.mark_package s a true j
@[simp] theorem State.setPoison_me (s : State) (a : Nat) : (s.setPoison a).me = s.me := State.mark_me s a true
@[simp] theorem State.setPoison_byte (s : State) (a : Nat) (pa : Nat) : (s.setPoison a).byte pa = s.byte pa := State.mark_byte s a true pa

@[simp] theorem State.clearPoison_agenda (s : State) (a : Nat) : (s.clearPoison a).agenda = s.agenda := State.mark_agenda s a false
@[simp] theorem State.clearPoison_cur (s : State) (a : Nat) : (s.clearPoison a).cur = s.cur := State.mark_cur s a false
@[simp] theorem State.clearPoison_fresh (s : State) (a : Nat) : (s.clearPoison a).fresh = s.fresh := State.mark_fresh s a false
@[simp] theorem State.clearPoison_seq (s : State) (a : Nat) : (s.clearPoison a).seq = s.seq := State.mark_seq s a false
@[simp] theorem State.clearPoison_out (s : State) (a : Nat) : (s.clearPoison a).out = s.out := State.mark_out s a false
@[simp] theorem State.clearPoison_time (s : State) (a : Nat) : (s.clearPoison a).time = s.time := State.mark_time s a false
@[simp] theorem State.clearPoison_threads (s : State) (a : Nat) : (s.clearPoison a).threads = s.threads := State.mark_threads s a false
@[simp] theorem State.clearPoison_cores (s : State) (a : Nat) : (s.clearPoison a).cores = s.cores := State.mark_cores s a false
@[simp] theorem State.clearPoison_polders (s : State) (a : Nat) : (s.clearPoison a).polders = s.polders := State.mark_polders s a false
@[simp] theorem State.clearPoison_stackRecs (s : State) (a : Nat) : (s.clearPoison a).stackRecs = s.stackRecs := State.mark_stackRecs s a false
@[simp] theorem State.clearPoison_packages (s : State) (a : Nat) : (s.clearPoison a).packages = s.packages := State.mark_packages s a false
@[simp] theorem State.clearPoison_mem (s : State) (a : Nat) : (s.clearPoison a).mem = s.mem := State.mark_mem s a false
@[simp] theorem State.clearPoison_empties (s : State) (a : Nat) : (s.clearPoison a).empties = s.empties := State.mark_empties s a false
@[simp] theorem State.clearPoison_census (s : State) (a : Nat) : (s.clearPoison a).census = s.census := State.mark_census s a false
@[simp] theorem State.clearPoison_launches (s : State) (a : Nat) : (s.clearPoison a).launches = s.launches := State.mark_launches s a false
@[simp] theorem State.clearPoison_members (s : State) (a : Nat) : (s.clearPoison a).members = s.members := State.mark_members s a false
@[simp] theorem State.clearPoison_ended (s : State) (a : Nat) : (s.clearPoison a).ended = s.ended := State.mark_ended s a false
@[simp] theorem State.clearPoison_levels (s : State) (a : Nat) : (s.clearPoison a).levels = s.levels := State.mark_levels s a false
@[simp] theorem State.clearPoison_tokens (s : State) (a : Nat) : (s.clearPoison a).tokens = s.tokens := State.mark_tokens s a false
@[simp] theorem State.clearPoison_jobs (s : State) (a : Nat) : (s.clearPoison a).jobs = s.jobs := State.mark_jobs s a false
@[simp] theorem State.clearPoison_thread (s : State) (a : Nat) (j : Nat) : (s.clearPoison a).thread j = s.thread j := State.mark_thread s a false j
@[simp] theorem State.clearPoison_core (s : State) (a : Nat) (j : Nat) : (s.clearPoison a).core j = s.core j := State.mark_core s a false j
@[simp] theorem State.clearPoison_polder (s : State) (a : Nat) (j : Nat) : (s.clearPoison a).polder j = s.polder j := State.mark_polder s a false j
@[simp] theorem State.clearPoison_stack (s : State) (a : Nat) (j : Nat) : (s.clearPoison a).stack j = s.stack j := State.mark_stack s a false j
@[simp] theorem State.clearPoison_package (s : State) (a : Nat) (j : Nat) : (s.clearPoison a).package j = s.package j := State.mark_package s a false j
@[simp] theorem State.clearPoison_me (s : State) (a : Nat) : (s.clearPoison a).me = s.me := State.mark_me s a false
@[simp] theorem State.clearPoison_byte (s : State) (a : Nat) (pa : Nat) : (s.clearPoison a).byte pa = s.byte pa := State.mark_byte s a false pa

@[simp] theorem State.setFull_agenda (s : State) (a : Nat) : (s.setFull a).agenda = s.agenda := rfl
@[simp] theorem State.setFull_cur (s : State) (a : Nat) : (s.setFull a).cur = s.cur := rfl
@[simp] theorem State.setFull_fresh (s : State) (a : Nat) : (s.setFull a).fresh = s.fresh := rfl
@[simp] theorem State.setFull_seq (s : State) (a : Nat) : (s.setFull a).seq = s.seq := rfl
@[simp] theorem State.setFull_out (s : State) (a : Nat) : (s.setFull a).out = s.out := rfl
@[simp] theorem State.setFull_time (s : State) (a : Nat) : (s.setFull a).time = s.time := rfl
@[simp] theorem State.setFull_threads (s : State) (a : Nat) : (s.setFull a).threads = s.threads := rfl
@[simp] theorem State.setFull_cores (s : State) (a : Nat) : (s.setFull a).cores = s.cores := rfl
@[simp] theorem State.setFull_polders (s : State) (a : Nat) : (s.setFull a).polders = s.polders := rfl
@[simp] theorem State.setFull_slices (s : State) (a : Nat) : (s.setFull a).slices = s.slices := rfl
@[simp] theorem State.setFull_stackRecs (s : State) (a : Nat) : (s.setFull a).stackRecs = s.stackRecs := rfl
@[simp] theorem State.setFull_packages (s : State) (a : Nat) : (s.setFull a).packages = s.packages := rfl
@[simp] theorem State.setFull_mem (s : State) (a : Nat) : (s.setFull a).mem = s.mem := rfl
@[simp] theorem State.setFull_poison (s : State) (a : Nat) : (s.setFull a).poison = s.poison := rfl
@[simp] theorem State.setFull_census (s : State) (a : Nat) : (s.setFull a).census = s.census := rfl
@[simp] theorem State.setFull_launches (s : State) (a : Nat) : (s.setFull a).launches = s.launches := rfl
@[simp] theorem State.setFull_members (s : State) (a : Nat) : (s.setFull a).members = s.members := rfl
@[simp] theorem State.setFull_ended (s : State) (a : Nat) : (s.setFull a).ended = s.ended := rfl
@[simp] theorem State.setFull_levels (s : State) (a : Nat) : (s.setFull a).levels = s.levels := rfl
@[simp] theorem State.setFull_tokens (s : State) (a : Nat) : (s.setFull a).tokens = s.tokens := rfl
@[simp] theorem State.setFull_jobs (s : State) (a : Nat) : (s.setFull a).jobs = s.jobs := rfl
@[simp] theorem State.setFull_thread (s : State) (a : Nat) (j : Nat) : (s.setFull a).thread j = s.thread j := rfl
@[simp] theorem State.setFull_core (s : State) (a : Nat) (j : Nat) : (s.setFull a).core j = s.core j := rfl
@[simp] theorem State.setFull_polder (s : State) (a : Nat) (j : Nat) : (s.setFull a).polder j = s.polder j := rfl
@[simp] theorem State.setFull_slice (s : State) (a : Nat) (j : Nat) : (s.setFull a).slice j = s.slice j := rfl
@[simp] theorem State.setFull_stack (s : State) (a : Nat) (j : Nat) : (s.setFull a).stack j = s.stack j := rfl
@[simp] theorem State.setFull_package (s : State) (a : Nat) (j : Nat) : (s.setFull a).package j = s.package j := rfl
@[simp] theorem State.setFull_me (s : State) (a : Nat) : (s.setFull a).me = s.me := rfl
@[simp] theorem State.setFull_byte (s : State) (a : Nat) (pa : Nat) : (s.setFull a).byte pa = s.byte pa := rfl

@[simp] theorem State.setEmpty_agenda (s : State) (a : Nat) : (s.setEmpty a).agenda = s.agenda := rfl
@[simp] theorem State.setEmpty_cur (s : State) (a : Nat) : (s.setEmpty a).cur = s.cur := rfl
@[simp] theorem State.setEmpty_fresh (s : State) (a : Nat) : (s.setEmpty a).fresh = s.fresh := rfl
@[simp] theorem State.setEmpty_seq (s : State) (a : Nat) : (s.setEmpty a).seq = s.seq := rfl
@[simp] theorem State.setEmpty_out (s : State) (a : Nat) : (s.setEmpty a).out = s.out := rfl
@[simp] theorem State.setEmpty_time (s : State) (a : Nat) : (s.setEmpty a).time = s.time := rfl
@[simp] theorem State.setEmpty_threads (s : State) (a : Nat) : (s.setEmpty a).threads = s.threads := rfl
@[simp] theorem State.setEmpty_cores (s : State) (a : Nat) : (s.setEmpty a).cores = s.cores := rfl
@[simp] theorem State.setEmpty_polders (s : State) (a : Nat) : (s.setEmpty a).polders = s.polders := rfl
@[simp] theorem State.setEmpty_slices (s : State) (a : Nat) : (s.setEmpty a).slices = s.slices := rfl
@[simp] theorem State.setEmpty_stackRecs (s : State) (a : Nat) : (s.setEmpty a).stackRecs = s.stackRecs := rfl
@[simp] theorem State.setEmpty_packages (s : State) (a : Nat) : (s.setEmpty a).packages = s.packages := rfl
@[simp] theorem State.setEmpty_mem (s : State) (a : Nat) : (s.setEmpty a).mem = s.mem := rfl
@[simp] theorem State.setEmpty_poison (s : State) (a : Nat) : (s.setEmpty a).poison = s.poison := rfl
@[simp] theorem State.setEmpty_census (s : State) (a : Nat) : (s.setEmpty a).census = s.census := rfl
@[simp] theorem State.setEmpty_launches (s : State) (a : Nat) : (s.setEmpty a).launches = s.launches := rfl
@[simp] theorem State.setEmpty_members (s : State) (a : Nat) : (s.setEmpty a).members = s.members := rfl
@[simp] theorem State.setEmpty_ended (s : State) (a : Nat) : (s.setEmpty a).ended = s.ended := rfl
@[simp] theorem State.setEmpty_levels (s : State) (a : Nat) : (s.setEmpty a).levels = s.levels := rfl
@[simp] theorem State.setEmpty_tokens (s : State) (a : Nat) : (s.setEmpty a).tokens = s.tokens := rfl
@[simp] theorem State.setEmpty_jobs (s : State) (a : Nat) : (s.setEmpty a).jobs = s.jobs := rfl
@[simp] theorem State.setEmpty_thread (s : State) (a : Nat) (j : Nat) : (s.setEmpty a).thread j = s.thread j := rfl
@[simp] theorem State.setEmpty_core (s : State) (a : Nat) (j : Nat) : (s.setEmpty a).core j = s.core j := rfl
@[simp] theorem State.setEmpty_polder (s : State) (a : Nat) (j : Nat) : (s.setEmpty a).polder j = s.polder j := rfl
@[simp] theorem State.setEmpty_slice (s : State) (a : Nat) (j : Nat) : (s.setEmpty a).slice j = s.slice j := rfl
@[simp] theorem State.setEmpty_stack (s : State) (a : Nat) (j : Nat) : (s.setEmpty a).stack j = s.stack j := rfl
@[simp] theorem State.setEmpty_package (s : State) (a : Nat) (j : Nat) : (s.setEmpty a).package j = s.package j := rfl
@[simp] theorem State.setEmpty_me (s : State) (a : Nat) : (s.setEmpty a).me = s.me := rfl
@[simp] theorem State.setEmpty_byte (s : State) (a : Nat) (pa : Nat) : (s.setEmpty a).byte pa = s.byte pa := rfl

@[simp] theorem State.emit_agenda (s : State) (x : Out) : (s.emit x).agenda = s.agenda := rfl
@[simp] theorem State.emit_cur (s : State) (x : Out) : (s.emit x).cur = s.cur := rfl
@[simp] theorem State.emit_fresh (s : State) (x : Out) : (s.emit x).fresh = s.fresh := rfl
@[simp] theorem State.emit_seq (s : State) (x : Out) : (s.emit x).seq = s.seq := rfl
@[simp] theorem State.emit_time (s : State) (x : Out) : (s.emit x).time = s.time := rfl
@[simp] theorem State.emit_threads (s : State) (x : Out) : (s.emit x).threads = s.threads := rfl
@[simp] theorem State.emit_cores (s : State) (x : Out) : (s.emit x).cores = s.cores := rfl
@[simp] theorem State.emit_polders (s : State) (x : Out) : (s.emit x).polders = s.polders := rfl
@[simp] theorem State.emit_slices (s : State) (x : Out) : (s.emit x).slices = s.slices := rfl
@[simp] theorem State.emit_stackRecs (s : State) (x : Out) : (s.emit x).stackRecs = s.stackRecs := rfl
@[simp] theorem State.emit_packages (s : State) (x : Out) : (s.emit x).packages = s.packages := rfl
@[simp] theorem State.emit_mem (s : State) (x : Out) : (s.emit x).mem = s.mem := rfl
@[simp] theorem State.emit_poison (s : State) (x : Out) : (s.emit x).poison = s.poison := rfl
@[simp] theorem State.emit_empties (s : State) (x : Out) : (s.emit x).empties = s.empties := rfl
@[simp] theorem State.emit_census (s : State) (x : Out) : (s.emit x).census = s.census := rfl
@[simp] theorem State.emit_launches (s : State) (x : Out) : (s.emit x).launches = s.launches := rfl
@[simp] theorem State.emit_members (s : State) (x : Out) : (s.emit x).members = s.members := rfl
@[simp] theorem State.emit_ended (s : State) (x : Out) : (s.emit x).ended = s.ended := rfl
@[simp] theorem State.emit_levels (s : State) (x : Out) : (s.emit x).levels = s.levels := rfl
@[simp] theorem State.emit_tokens (s : State) (x : Out) : (s.emit x).tokens = s.tokens := rfl
@[simp] theorem State.emit_jobs (s : State) (x : Out) : (s.emit x).jobs = s.jobs := rfl
@[simp] theorem State.emit_thread (s : State) (x : Out) (j : Nat) : (s.emit x).thread j = s.thread j := rfl
@[simp] theorem State.emit_core (s : State) (x : Out) (j : Nat) : (s.emit x).core j = s.core j := rfl
@[simp] theorem State.emit_polder (s : State) (x : Out) (j : Nat) : (s.emit x).polder j = s.polder j := rfl
@[simp] theorem State.emit_slice (s : State) (x : Out) (j : Nat) : (s.emit x).slice j = s.slice j := rfl
@[simp] theorem State.emit_stack (s : State) (x : Out) (j : Nat) : (s.emit x).stack j = s.stack j := rfl
@[simp] theorem State.emit_package (s : State) (x : Out) (j : Nat) : (s.emit x).package j = s.package j := rfl
@[simp] theorem State.emit_me (s : State) (x : Out) : (s.emit x).me = s.me := rfl
@[simp] theorem State.emit_byte (s : State) (x : Out) (pa : Nat) : (s.emit x).byte pa = s.byte pa := rfl

@[simp] theorem State.nextSeq_agenda (s : State) : (s.nextSeq).agenda = s.agenda := rfl
@[simp] theorem State.nextSeq_cur (s : State) : (s.nextSeq).cur = s.cur := rfl
@[simp] theorem State.nextSeq_fresh (s : State) : (s.nextSeq).fresh = s.fresh := rfl
@[simp] theorem State.nextSeq_out (s : State) : (s.nextSeq).out = s.out := rfl
@[simp] theorem State.nextSeq_time (s : State) : (s.nextSeq).time = s.time := rfl
@[simp] theorem State.nextSeq_threads (s : State) : (s.nextSeq).threads = s.threads := rfl
@[simp] theorem State.nextSeq_cores (s : State) : (s.nextSeq).cores = s.cores := rfl
@[simp] theorem State.nextSeq_polders (s : State) : (s.nextSeq).polders = s.polders := rfl
@[simp] theorem State.nextSeq_slices (s : State) : (s.nextSeq).slices = s.slices := rfl
@[simp] theorem State.nextSeq_stackRecs (s : State) : (s.nextSeq).stackRecs = s.stackRecs := rfl
@[simp] theorem State.nextSeq_packages (s : State) : (s.nextSeq).packages = s.packages := rfl
@[simp] theorem State.nextSeq_mem (s : State) : (s.nextSeq).mem = s.mem := rfl
@[simp] theorem State.nextSeq_poison (s : State) : (s.nextSeq).poison = s.poison := rfl
@[simp] theorem State.nextSeq_empties (s : State) : (s.nextSeq).empties = s.empties := rfl
@[simp] theorem State.nextSeq_census (s : State) : (s.nextSeq).census = s.census := rfl
@[simp] theorem State.nextSeq_launches (s : State) : (s.nextSeq).launches = s.launches := rfl
@[simp] theorem State.nextSeq_members (s : State) : (s.nextSeq).members = s.members := rfl
@[simp] theorem State.nextSeq_ended (s : State) : (s.nextSeq).ended = s.ended := rfl
@[simp] theorem State.nextSeq_levels (s : State) : (s.nextSeq).levels = s.levels := rfl
@[simp] theorem State.nextSeq_tokens (s : State) : (s.nextSeq).tokens = s.tokens := rfl
@[simp] theorem State.nextSeq_jobs (s : State) : (s.nextSeq).jobs = s.jobs := rfl
@[simp] theorem State.nextSeq_thread (s : State) (j : Nat) : (s.nextSeq).thread j = s.thread j := rfl
@[simp] theorem State.nextSeq_core (s : State) (j : Nat) : (s.nextSeq).core j = s.core j := rfl
@[simp] theorem State.nextSeq_polder (s : State) (j : Nat) : (s.nextSeq).polder j = s.polder j := rfl
@[simp] theorem State.nextSeq_slice (s : State) (j : Nat) : (s.nextSeq).slice j = s.slice j := rfl
@[simp] theorem State.nextSeq_stack (s : State) (j : Nat) : (s.nextSeq).stack j = s.stack j := rfl
@[simp] theorem State.nextSeq_package (s : State) (j : Nat) : (s.nextSeq).package j = s.package j := rfl
@[simp] theorem State.nextSeq_me (s : State) : (s.nextSeq).me = s.me := rfl
@[simp] theorem State.nextSeq_byte (s : State) (pa : Nat) : (s.nextSeq).byte pa = s.byte pa := rfl

/-! ## Registers (R191) -/

@[simp] theorem Thread.sreg_zero (t : Thread) : t.sreg 0 = Cell.zero 64 := rfl
@[simp] theorem Thread.setS_zero (t : Thread) (c : Cell 64) : t.setS 0 c = t := rfl

/-- A write of a scalar register is read back, and every other register keeps its state; `s0` stays full and zero. -/
theorem Thread.sreg_setS (t : Thread) (n m : Nat) (c : Cell 64) (h : SMap.wf t.s = true) :
    (t.setS n c).sreg m = if m = n ∧ n ≠ 0 then c else t.sreg m := by
  unfold Thread.setS Thread.sreg
  by_cases hn : n = 0
  · simp [hn]
  · by_cases hm : m = 0
    · simp [hm, hn, Ne.symm hn]
    · simp [hm, hn, SMap.getD_put h]

theorem Thread.vreg_setV (t : Thread) (n m : Nat) (c : Cell 1024) (h : SMap.wf t.v = true) :
    (t.setV n c).vreg m = if m = n then c else t.vreg m := by
  simp [Thread.setV, Thread.vreg, SMap.getD_put h]

/-- A write of a predicate is read back; `p0` stays all true. -/
theorem Thread.preg_setP (t : Thread) (n m : Nat) (c : Cell 32) (h : SMap.wf t.p = true) :
    (t.setP n c).preg m = if m = n ∧ n ≠ 0 then c else t.preg m := by
  unfold Thread.setP Thread.preg
  by_cases hn : n = 0
  · simp [hn]
  · by_cases hm : m = 0
    · simp [hm, hn, Ne.symm hn]
    · simp [hm, hn, SMap.getD_put h]

theorem Thread.setS_wf (t : Thread) (n : Nat) (c : Cell 64) (h : SMap.wf t.s = true) : SMap.wf (t.setS n c).s = true := by
  unfold Thread.setS; split
  · exact h
  · exact SMap.wf_put h

theorem Thread.setV_wf (t : Thread) (n : Nat) (c : Cell 1024) (h : SMap.wf t.v = true) : SMap.wf (t.setV n c).v = true :=
  SMap.wf_put h

theorem Thread.setP_wf (t : Thread) (n : Nat) (c : Cell 32) (h : SMap.wf t.p = true) : SMap.wf (t.setP n c).p = true := by
  unfold Thread.setP; split
  · exact h
  · exact SMap.wf_put h

@[simp] theorem Thread.setS_live (t : Thread) (n : Nat) (c : Cell 64) : (t.setS n c).live = t.live := by
  unfold Thread.setS; split <;> rfl
@[simp] theorem Thread.setV_live (t : Thread) (n : Nat) (c : Cell 1024) : (t.setV n c).live = t.live := rfl
@[simp] theorem Thread.setP_live (t : Thread) (n : Nat) (c : Cell 32) : (t.setP n c).live = t.live := by
  unfold Thread.setP; split <;> rfl
@[simp] theorem Thread.setS_pc (t : Thread) (n : Nat) (c : Cell 64) : (t.setS n c).pc = t.pc := by
  unfold Thread.setS; split <;> rfl
@[simp] theorem Thread.setV_pc (t : Thread) (n : Nat) (c : Cell 1024) : (t.setV n c).pc = t.pc := rfl
@[simp] theorem Thread.setP_pc (t : Thread) (n : Nat) (c : Cell 32) : (t.setP n c).pc = t.pc := by
  unfold Thread.setP; split <;> rfl
@[simp] theorem Thread.setS_img (t : Thread) (n : Nat) (c : Cell 64) : (t.setS n c).img = t.img := by
  unfold Thread.setS; split <;> rfl
@[simp] theorem Thread.setV_img (t : Thread) (n : Nat) (c : Cell 1024) : (t.setV n c).img = t.img := rfl
@[simp] theorem Thread.setP_img (t : Thread) (n : Nat) (c : Cell 32) : (t.setP n c).img = t.img := by
  unfold Thread.setP; split <;> rfl
@[simp] theorem Thread.setS_digest (t : Thread) (n : Nat) (c : Cell 64) : (t.setS n c).digest = t.digest := by
  unfold Thread.setS; split <;> rfl
@[simp] theorem Thread.setV_digest (t : Thread) (n : Nat) (c : Cell 1024) : (t.setV n c).digest = t.digest := rfl
@[simp] theorem Thread.setP_digest (t : Thread) (n : Nat) (c : Cell 32) : (t.setP n c).digest = t.digest := by
  unfold Thread.setP; split <;> rfl
@[simp] theorem Thread.setS_tag (t : Thread) (n : Nat) (c : Cell 64) : (t.setS n c).tag = t.tag := by
  unfold Thread.setS; split <;> rfl
@[simp] theorem Thread.setV_tag (t : Thread) (n : Nat) (c : Cell 1024) : (t.setV n c).tag = t.tag := rfl
@[simp] theorem Thread.setP_tag (t : Thread) (n : Nat) (c : Cell 32) : (t.setP n c).tag = t.tag := by
  unfold Thread.setP; split <;> rfl
@[simp] theorem Thread.setV_s (t : Thread) (n : Nat) (c : Cell 1024) : (t.setV n c).s = t.s := rfl
@[simp] theorem Thread.setP_s (t : Thread) (n : Nat) (c : Cell 32) : (t.setP n c).s = t.s := by
  unfold Thread.setP; split <;> rfl
@[simp] theorem Thread.setS_v (t : Thread) (n : Nat) (c : Cell 64) : (t.setS n c).v = t.v := by
  unfold Thread.setS; split <;> rfl
@[simp] theorem Thread.setP_v (t : Thread) (n : Nat) (c : Cell 32) : (t.setP n c).v = t.v := by
  unfold Thread.setP; split <;> rfl
@[simp] theorem Thread.setS_p (t : Thread) (n : Nat) (c : Cell 64) : (t.setS n c).p = t.p := by
  unfold Thread.setS; split <;> rfl
@[simp] theorem Thread.setV_p (t : Thread) (n : Nat) (c : Cell 1024) : (t.setV n c).p = t.p := rfl
@[simp] theorem Thread.setS_long (t : Thread) (n : Nat) (c : Cell 64) : (t.setS n c).long = t.long := by
  unfold Thread.setS; split <;> rfl
@[simp] theorem Thread.setV_long (t : Thread) (n : Nat) (c : Cell 1024) : (t.setV n c).long = t.long := rfl
@[simp] theorem Thread.setP_long (t : Thread) (n : Nat) (c : Cell 32) : (t.setP n c).long = t.long := by
  unfold Thread.setP; split <;> rfl
@[simp] theorem Thread.setS_bank1 (t : Thread) (n : Nat) (c : Cell 64) : (t.setS n c).bank1 = t.bank1 := by
  unfold Thread.setS; split <;> rfl
@[simp] theorem Thread.setV_bank1 (t : Thread) (n : Nat) (c : Cell 1024) : (t.setV n c).bank1 = t.bank1 := rfl
@[simp] theorem Thread.setP_bank1 (t : Thread) (n : Nat) (c : Cell 32) : (t.setP n c).bank1 = t.bank1 := by
  unfold Thread.setP; split <;> rfl
@[simp] theorem Thread.setS_bank0 (t : Thread) (n : Nat) (c : Cell 64) : (t.setS n c).bank0 = t.bank0 := by
  unfold Thread.setS; split <;> rfl
@[simp] theorem Thread.setV_bank0 (t : Thread) (n : Nat) (c : Cell 1024) : (t.setV n c).bank0 = t.bank0 := rfl
@[simp] theorem Thread.setP_bank0 (t : Thread) (n : Nat) (c : Cell 32) : (t.setP n c).bank0 = t.bank0 := by
  unfold Thread.setP; split <;> rfl
@[simp] theorem Thread.setS_level (t : Thread) (n : Nat) (c : Cell 64) : (t.setS n c).level = t.level := by
  unfold Thread.setS; split <;> rfl
@[simp] theorem Thread.setV_level (t : Thread) (n : Nat) (c : Cell 1024) : (t.setV n c).level = t.level := rfl
@[simp] theorem Thread.setP_level (t : Thread) (n : Nat) (c : Cell 32) : (t.setP n c).level = t.level := by
  unfold Thread.setP; split <;> rfl
@[simp] theorem Thread.setS_ack (t : Thread) (n : Nat) (c : Cell 64) : (t.setS n c).ack = t.ack := by
  unfold Thread.setS; split <;> rfl
@[simp] theorem Thread.setV_ack (t : Thread) (n : Nat) (c : Cell 1024) : (t.setV n c).ack = t.ack := rfl
@[simp] theorem Thread.setP_ack (t : Thread) (n : Nat) (c : Cell 32) : (t.setP n c).ack = t.ack := by
  unfold Thread.setP; split <;> rfl
@[simp] theorem Thread.setS_esc (t : Thread) (n : Nat) (c : Cell 64) : (t.setS n c).esc = t.esc := by
  unfold Thread.setS; split <;> rfl
@[simp] theorem Thread.setV_esc (t : Thread) (n : Nat) (c : Cell 1024) : (t.setV n c).esc = t.esc := rfl
@[simp] theorem Thread.setP_esc (t : Thread) (n : Nat) (c : Cell 32) : (t.setP n c).esc = t.esc := by
  unfold Thread.setP; split <;> rfl
@[simp] theorem Thread.setS_tvec (t : Thread) (n : Nat) (c : Cell 64) : (t.setS n c).tvec = t.tvec := by
  unfold Thread.setS; split <;> rfl
@[simp] theorem Thread.setV_tvec (t : Thread) (n : Nat) (c : Cell 1024) : (t.setV n c).tvec = t.tvec := rfl
@[simp] theorem Thread.setP_tvec (t : Thread) (n : Nat) (c : Cell 32) : (t.setP n c).tvec = t.tvec := by
  unfold Thread.setP; split <;> rfl
@[simp] theorem Thread.setS_task (t : Thread) (n : Nat) (c : Cell 64) : (t.setS n c).task = t.task := by
  unfold Thread.setS; split <;> rfl
@[simp] theorem Thread.setV_task (t : Thread) (n : Nat) (c : Cell 1024) : (t.setV n c).task = t.task := rfl
@[simp] theorem Thread.setP_task (t : Thread) (n : Nat) (c : Cell 32) : (t.setP n c).task = t.task := by
  unfold Thread.setP; split <;> rfl
@[simp] theorem Thread.setS_seed (t : Thread) (n : Nat) (c : Cell 64) : (t.setS n c).seed = t.seed := by
  unfold Thread.setS; split <;> rfl
@[simp] theorem Thread.setV_seed (t : Thread) (n : Nat) (c : Cell 1024) : (t.setV n c).seed = t.seed := rfl
@[simp] theorem Thread.setP_seed (t : Thread) (n : Nat) (c : Cell 32) : (t.setP n c).seed = t.seed := by
  unfold Thread.setP; split <;> rfl
@[simp] theorem Thread.setS_gen (t : Thread) (n : Nat) (c : Cell 64) : (t.setS n c).gen = t.gen := by
  unfold Thread.setS; split <;> rfl
@[simp] theorem Thread.setV_gen (t : Thread) (n : Nat) (c : Cell 1024) : (t.setV n c).gen = t.gen := rfl
@[simp] theorem Thread.setP_gen (t : Thread) (n : Nat) (c : Cell 32) : (t.setP n c).gen = t.gen := by
  unfold Thread.setP; split <;> rfl
@[simp] theorem Thread.setS_region (t : Thread) (n : Nat) (c : Cell 64) : (t.setS n c).region = t.region := by
  unfold Thread.setS; split <;> rfl
@[simp] theorem Thread.setV_region (t : Thread) (n : Nat) (c : Cell 1024) : (t.setV n c).region = t.region := rfl
@[simp] theorem Thread.setP_region (t : Thread) (n : Nat) (c : Cell 32) : (t.setP n c).region = t.region := by
  unfold Thread.setP; split <;> rfl
@[simp] theorem Thread.setS_roam (t : Thread) (n : Nat) (c : Cell 64) : (t.setS n c).roam = t.roam := by
  unfold Thread.setS; split <;> rfl
@[simp] theorem Thread.setV_roam (t : Thread) (n : Nat) (c : Cell 1024) : (t.setV n c).roam = t.roam := rfl
@[simp] theorem Thread.setP_roam (t : Thread) (n : Nat) (c : Cell 32) : (t.setP n c).roam = t.roam := by
  unfold Thread.setP; split <;> rfl
@[simp] theorem Thread.setS_roamTime (t : Thread) (n : Nat) (c : Cell 64) : (t.setS n c).roamTime = t.roamTime := by
  unfold Thread.setS; split <;> rfl
@[simp] theorem Thread.setV_roamTime (t : Thread) (n : Nat) (c : Cell 1024) : (t.setV n c).roamTime = t.roamTime := rfl
@[simp] theorem Thread.setP_roamTime (t : Thread) (n : Nat) (c : Cell 32) : (t.setP n c).roamTime = t.roamTime := by
  unfold Thread.setP; split <;> rfl
@[simp] theorem Thread.setS_twin (t : Thread) (n : Nat) (c : Cell 64) : (t.setS n c).twin = t.twin := by
  unfold Thread.setS; split <;> rfl
@[simp] theorem Thread.setV_twin (t : Thread) (n : Nat) (c : Cell 1024) : (t.setV n c).twin = t.twin := rfl
@[simp] theorem Thread.setP_twin (t : Thread) (n : Nat) (c : Cell 32) : (t.setP n c).twin = t.twin := by
  unfold Thread.setP; split <;> rfl
@[simp] theorem Thread.setS_held (t : Thread) (n : Nat) (c : Cell 64) : (t.setS n c).held = t.held := by
  unfold Thread.setS; split <;> rfl
@[simp] theorem Thread.setV_held (t : Thread) (n : Nat) (c : Cell 1024) : (t.setV n c).held = t.held := rfl
@[simp] theorem Thread.setP_held (t : Thread) (n : Nat) (c : Cell 32) : (t.setP n c).held = t.held := by
  unfold Thread.setP; split <;> rfl
@[simp] theorem Thread.setS_halted (t : Thread) (n : Nat) (c : Cell 64) : (t.setS n c).halted = t.halted := by
  unfold Thread.setS; split <;> rfl
@[simp] theorem Thread.setV_halted (t : Thread) (n : Nat) (c : Cell 1024) : (t.setV n c).halted = t.halted := rfl
@[simp] theorem Thread.setP_halted (t : Thread) (n : Nat) (c : Cell 32) : (t.setP n c).halted = t.halted := by
  unfold Thread.setP; split <;> rfl
@[simp] theorem Thread.setS_runs (t : Thread) (n : Nat) (c : Cell 64) : (t.setS n c).runs = t.runs := by
  unfold Thread.setS; split <;> rfl
@[simp] theorem Thread.setV_runs (t : Thread) (n : Nat) (c : Cell 1024) : (t.setV n c).runs = t.runs := rfl
@[simp] theorem Thread.setP_runs (t : Thread) (n : Nat) (c : Cell 32) : (t.setP n c).runs = t.runs := by
  unfold Thread.setP; split <;> rfl
@[simp] theorem Thread.setS_escal (t : Thread) (n : Nat) (c : Cell 64) : (t.setS n c).escal = t.escal := by
  unfold Thread.setS; split <;> rfl
@[simp] theorem Thread.setV_escal (t : Thread) (n : Nat) (c : Cell 1024) : (t.setV n c).escal = t.escal := rfl
@[simp] theorem Thread.setP_escal (t : Thread) (n : Nat) (c : Cell 32) : (t.setP n c).escal = t.escal := by
  unfold Thread.setP; split <;> rfl
@[simp] theorem Thread.setS_entry (t : Thread) (n : Nat) (c : Cell 64) : (t.setS n c).entry = t.entry := by
  unfold Thread.setS; split <;> rfl
@[simp] theorem Thread.setV_entry (t : Thread) (n : Nat) (c : Cell 1024) : (t.setV n c).entry = t.entry := rfl
@[simp] theorem Thread.setP_entry (t : Thread) (n : Nat) (c : Cell 32) : (t.setP n c).entry = t.entry := by
  unfold Thread.setP; split <;> rfl
@[simp] theorem Thread.setS_wait (t : Thread) (n : Nat) (c : Cell 64) : (t.setS n c).wait = t.wait := by
  unfold Thread.setS; split <;> rfl
@[simp] theorem Thread.setV_wait (t : Thread) (n : Nat) (c : Cell 1024) : (t.setV n c).wait = t.wait := rfl
@[simp] theorem Thread.setP_wait (t : Thread) (n : Nat) (c : Cell 32) : (t.setP n c).wait = t.wait := by
  unfold Thread.setP; split <;> rfl
@[simp] theorem Thread.setS_prog (t : Thread) (n : Nat) (c : Cell 64) : (t.setS n c).prog = t.prog := by
  unfold Thread.setS; split <;> rfl
@[simp] theorem Thread.setV_prog (t : Thread) (n : Nat) (c : Cell 1024) : (t.setV n c).prog = t.prog := rfl
@[simp] theorem Thread.setP_prog (t : Thread) (n : Nat) (c : Cell 32) : (t.setP n c).prog = t.prog := by
  unfold Thread.setP; split <;> rfl
@[simp] theorem Thread.setS_loadq (t : Thread) (n : Nat) (c : Cell 64) : (t.setS n c).loadq = t.loadq := by
  unfold Thread.setS; split <;> rfl
@[simp] theorem Thread.setV_loadq (t : Thread) (n : Nat) (c : Cell 1024) : (t.setV n c).loadq = t.loadq := rfl
@[simp] theorem Thread.setP_loadq (t : Thread) (n : Nat) (c : Cell 32) : (t.setP n c).loadq = t.loadq := by
  unfold Thread.setP; split <;> rfl
@[simp] theorem Thread.setS_fills (t : Thread) (n : Nat) (c : Cell 64) : (t.setS n c).fills = t.fills := by
  unfold Thread.setS; split <;> rfl
@[simp] theorem Thread.setV_fills (t : Thread) (n : Nat) (c : Cell 1024) : (t.setV n c).fills = t.fills := rfl
@[simp] theorem Thread.setP_fills (t : Thread) (n : Nat) (c : Cell 32) : (t.setP n c).fills = t.fills := by
  unfold Thread.setP; split <;> rfl
@[simp] theorem Thread.setS_deferred (t : Thread) (n : Nat) (c : Cell 64) : (t.setS n c).deferred = t.deferred := by
  unfold Thread.setS; split <;> rfl
@[simp] theorem Thread.setV_deferred (t : Thread) (n : Nat) (c : Cell 1024) : (t.setV n c).deferred = t.deferred := rfl
@[simp] theorem Thread.setP_deferred (t : Thread) (n : Nat) (c : Cell 32) : (t.setP n c).deferred = t.deferred := by
  unfold Thread.setP; split <;> rfl
@[simp] theorem Thread.setS_late (t : Thread) (n : Nat) (c : Cell 64) : (t.setS n c).late = t.late := by
  unfold Thread.setS; split <;> rfl
@[simp] theorem Thread.setV_late (t : Thread) (n : Nat) (c : Cell 1024) : (t.setV n c).late = t.late := rfl
@[simp] theorem Thread.setP_late (t : Thread) (n : Nat) (c : Cell 32) : (t.setP n c).late = t.late := by
  unfold Thread.setP; split <;> rfl
@[simp] theorem Thread.setS_xfault (t : Thread) (n : Nat) (c : Cell 64) : (t.setS n c).xfault = t.xfault := by
  unfold Thread.setS; split <;> rfl
@[simp] theorem Thread.setV_xfault (t : Thread) (n : Nat) (c : Cell 1024) : (t.setV n c).xfault = t.xfault := rfl
@[simp] theorem Thread.setP_xfault (t : Thread) (n : Nat) (c : Cell 32) : (t.setP n c).xfault = t.xfault := by
  unfold Thread.setP; split <;> rfl
@[simp] theorem Thread.setS_withdrawn (t : Thread) (n : Nat) (c : Cell 64) : (t.setS n c).withdrawn = t.withdrawn := by
  unfold Thread.setS; split <;> rfl
@[simp] theorem Thread.setV_withdrawn (t : Thread) (n : Nat) (c : Cell 1024) : (t.setV n c).withdrawn = t.withdrawn := rfl
@[simp] theorem Thread.setP_withdrawn (t : Thread) (n : Nat) (c : Cell 32) : (t.setP n c).withdrawn = t.withdrawn := by
  unfold Thread.setP; split <;> rfl
@[simp] theorem Thread.setS_hgot (t : Thread) (n : Nat) (c : Cell 64) : (t.setS n c).hgot = t.hgot := by
  unfold Thread.setS; split <;> rfl
@[simp] theorem Thread.setV_hgot (t : Thread) (n : Nat) (c : Cell 1024) : (t.setV n c).hgot = t.hgot := rfl
@[simp] theorem Thread.setP_hgot (t : Thread) (n : Nat) (c : Cell 32) : (t.setP n c).hgot = t.hgot := by
  unfold Thread.setP; split <;> rfl
@[simp] theorem Thread.setS_kills (t : Thread) (n : Nat) (c : Cell 64) : (t.setS n c).kills = t.kills := by
  unfold Thread.setS; split <;> rfl
@[simp] theorem Thread.setV_kills (t : Thread) (n : Nat) (c : Cell 1024) : (t.setV n c).kills = t.kills := rfl
@[simp] theorem Thread.setP_kills (t : Thread) (n : Nat) (c : Cell 32) : (t.setP n c).kills = t.kills := by
  unfold Thread.setP; split <;> rfl
@[simp] theorem Thread.setS_attrs (t : Thread) (n : Nat) (c : Cell 64) : (t.setS n c).attrs = t.attrs := by
  unfold Thread.setS; split <;> rfl
@[simp] theorem Thread.setV_attrs (t : Thread) (n : Nat) (c : Cell 1024) : (t.setV n c).attrs = t.attrs := rfl
@[simp] theorem Thread.setP_attrs (t : Thread) (n : Nat) (c : Cell 32) : (t.setP n c).attrs = t.attrs := by
  unfold Thread.setP; split <;> rfl
@[simp] theorem Thread.setS_swap (t : Thread) (n : Nat) (c : Cell 64) : (t.setS n c).swap = t.swap := by
  unfold Thread.setS; split <;> rfl
@[simp] theorem Thread.setV_swap (t : Thread) (n : Nat) (c : Cell 1024) : (t.setV n c).swap = t.swap := rfl
@[simp] theorem Thread.setP_swap (t : Thread) (n : Nat) (c : Cell 32) : (t.setP n c).swap = t.swap := by
  unfold Thread.setP; split <;> rfl
@[simp] theorem Thread.setS_was (t : Thread) (n : Nat) (c : Cell 64) : (t.setS n c).was = t.was := by
  unfold Thread.setS; split <;> rfl
@[simp] theorem Thread.setV_was (t : Thread) (n : Nat) (c : Cell 1024) : (t.setV n c).was = t.was := rfl
@[simp] theorem Thread.setP_was (t : Thread) (n : Nat) (c : Cell 32) : (t.setP n c).was = t.was := by
  unfold Thread.setP; split <;> rfl
@[simp] theorem Thread.setS_lvq (t : Thread) (n : Nat) (c : Cell 64) : (t.setS n c).lvq = t.lvq := by
  unfold Thread.setS; split <;> rfl
@[simp] theorem Thread.setV_lvq (t : Thread) (n : Nat) (c : Cell 1024) : (t.setV n c).lvq = t.lvq := rfl
@[simp] theorem Thread.setP_lvq (t : Thread) (n : Nat) (c : Cell 32) : (t.setP n c).lvq = t.lvq := by
  unfold Thread.setP; split <;> rfl

end Sys2Proof.Machine
end

