-- ==== Sys2Proof/Laws/Memory.lean ====
section
/-! SUPPORT. Sys2Proof/Laws/Memory.lean: bytes of memory read after they are written, and every memory operation keeps memory in
canonical form. -/

namespace Sys2Proof.Machine

/-- The canonical form in its two halves. -/
theorem memory_wf_iff (m : SMap Byte) : Memory.wf m = true ↔ SMap.wf m = true ∧ SMap.noDefault (0 : Byte) m = true := by
  simp [Memory.wf]

theorem memory_wf_reset : Memory.wf State.reset.mem = true := rfl

theorem memory_wf_put {m : SMap Byte} {a : Nat} {b : Byte} (h : Memory.wf m = true) : Memory.wf (m.put 0 a b) = true := by
  rw [memory_wf_iff] at h ⊢
  exact ⟨SMap.wf_put h.1, SMap.noDefault_put h.2⟩

theorem memory_wf_filter {m : SMap Byte} (p : Nat × Byte → Bool) (h : Memory.wf m = true) : Memory.wf (m.filter p) = true := by
  rw [memory_wf_iff] at h ⊢
  exact ⟨SMap.wf_filter p h.1, SMap.noDefault_filter p h.2⟩

/-- Writing one byte keeps memory in canonical form. -/
theorem State.setByte_wf {s : State} {a : Nat} {b : Byte} (h : Memory.wf s.mem = true) : Memory.wf (s.setByte a b).mem = true :=
  memory_wf_put h

/-- Writing bytes keeps memory in canonical form. -/
theorem State.setBytes_wf {bs : List Byte} : ∀ {s : State} {a : Nat}, Memory.wf s.mem = true →
    Memory.wf (s.setBytes a bs).mem = true := by
  induction bs with
  | nil => intro s a h; exact h
  | cons b bs ih => intro s a h; exact ih (State.setByte_wf h)

/-- The wipe of a region keeps memory in canonical form. -/
theorem State.clearMem_wf {s : State} {stk : Nat} {p : Region → Bool} (h : Memory.wf s.mem = true) :
    Memory.wf (s.clearMem stk p).mem = true :=
  memory_wf_filter _ h

/-- A byte that was written is read back, and every other byte reads as before. -/
theorem State.byte_setByte {s : State} {a c : Nat} {b : Byte} (h : SMap.wf s.mem = true) :
    (s.setByte a b).byte c = if c = a then b else s.byte c := by
  simp only [State.byte, State.setByte, SMap.getD_put h]

theorem State.setByte_order {s : State} {a : Nat} {b : Byte} (h : SMap.wf s.mem = true) : SMap.wf (s.setByte a b).mem = true :=
  SMap.wf_put h

theorem State.setBytes_order {bs : List Byte} : ∀ {s : State} {a : Nat}, SMap.wf s.mem = true →
    SMap.wf (s.setBytes a bs).mem = true := by
  induction bs with
  | nil => intro s a h; exact h
  | cons b bs ih => intro s a h; exact ih (State.setByte_order h)

/-- Bytes below a written run read as before. -/
theorem State.byte_setBytes_below {bs : List Byte} : ∀ {s : State} {a c : Nat}, SMap.wf s.mem = true → c < a →
    (s.setBytes a bs).byte c = s.byte c := by
  induction bs with
  | nil => intros; rfl
  | cons b bs ih =>
    intro s a c h hc
    rw [State.setBytes, ih (State.setByte_order h) (by omega), State.byte_setByte h, if_neg (by omega)]

/-- A run of bytes reads back as it was written, and every byte outside it as before. -/
theorem State.byte_setBytes {bs : List Byte} : ∀ {s : State} {a c : Nat}, SMap.wf s.mem = true →
    (s.setBytes a bs).byte c = if a ≤ c ∧ c < a + bs.length then bs.getD (c - a) 0 else s.byte c := by
  induction bs with
  | nil =>
    intro s a c _
    rw [State.setBytes, if_neg (by simp only [List.length_nil]; omega)]
  | cons b bs ih =>
    intro s a c h
    rw [State.setBytes]
    by_cases hc : c = a
    · subst hc
      rw [State.byte_setBytes_below (State.setByte_order h) (by omega), State.byte_setByte h]
      simp
    · rw [ih (State.setByte_order h), State.byte_setByte h, if_neg hc]
      by_cases h1 : a + 1 ≤ c ∧ c < a + 1 + bs.length
      · rw [if_pos h1, if_pos (by simp only [List.length_cons]; omega)]
        obtain ⟨n, hn⟩ : ∃ n, c - a = n + 1 := ⟨c - a - 1, by omega⟩
        rw [hn, show c - (a + 1) = n by omega]
        simp
      · rw [if_neg h1, if_neg (by simp only [List.length_cons]; omega)]

/-- Nothing but memory changes when bytes are written. -/
theorem State.setBytes_rest {bs : List Byte} : ∀ {s : State} {a : Nat},
    s.setBytes a bs = { s with mem := (s.setBytes a bs).mem } := by
  induction bs with
  | nil => intros; rfl
  | cons b bs ih => intro s a; rw [State.setBytes, ih]; rfl

/-! ## L2 bookkeeping writes no byte -/

theorem foldl_mem {α : Type} (f : State → α → State) (hf : ∀ s x, (f s x).mem = s.mem) (l : List α) :
    ∀ s : State, (l.foldl f s).mem = s.mem := by
  induction l with
  | nil => intro s; rfl
  | cons x l ih => intro s; rw [List.foldl_cons, ih, hf]

/-- A property of memory that each step of a fold keeps, the fold keeps. -/
theorem foldl_keeps {α : Type} (P : State → Prop) (f : State → α → State) (hf : ∀ s x, P s → P (f s x)) (l : List α) :
    ∀ s : State, P s → P (l.foldl f s) := by
  induction l with
  | nil => intro s h; exact h
  | cons x l ih => intro s h; exact ih _ (hf s x h)

@[simp] theorem State.accumulate_mem (s : State) (stk addr : Nat) : (s.accumulate stk addr).mem = s.mem := rfl
@[simp] theorem State.raiseT_mem (s : State) (stk t : Nat) : (s.raiseT stk t).mem = s.mem := rfl

@[simp] theorem State.freeSig_mem (s : State) (sl line : Nat) : (s.freeSig sl line).mem = s.mem := by
  unfold State.freeSig; split
  · split <;> rfl
  · rfl

@[simp] theorem State.invalidateReplicas_mem (s : State) (stk pa : Nat) : (s.invalidateReplicas stk pa).mem = s.mem := by
  unfold State.invalidateReplicas
  dsimp only
  split
  · split
    · rfl
    · rw [State.setLine_mem]
      exact foldl_mem _ (fun s n => by split <;> rfl) _ _
  · rfl

/-! ## Errors that a read meets write no byte -/

@[simp] theorem State.logSignal_mem (s : State) (stk kind : Nat) : (s.logSignal stk kind).mem = s.mem := by
  unfold State.logSignal; split <;> rfl

@[simp] theorem State.logError_mem (s : State) (stk addr kind agent sym attempts flags ep : Nat) :
    (s.logError stk addr kind agent sym attempts flags ep).mem = s.mem := by
  unfold State.logError
  dsimp only
  repeat' split
  all_goals simp

theorem State.takeUpsets_mem (s : State) (array fresh : Bool) (pa n : Nat) : (s.takeUpsets array fresh pa n).2.mem = s.mem := by
  unfold State.takeUpsets; dsimp only; split <;> rfl

@[simp] theorem State.passTransfer_mem (s : State) (sl : Nat) : (s.passTransfer sl).mem = s.mem := by
  unfold State.passTransfer; split <;> rfl

theorem State.arrayUpset_mem (s : State) (g agent ep : Nat) (u : Upset) : (s.arrayUpset g agent ep u).2.mem = s.mem := by
  unfold State.arrayUpset; dsimp only; split <;> simp

/-- What a read of an array sector meets changes no byte of memory (R170 to R173). -/
theorem State.arraySector_mem (s : State) (g agent ep : Nat) : (s.arraySector g agent ep).2.mem = s.mem := by
  have fold : ∀ (l : List Upset) (x : Bool × State), (l.foldl (fun (x : Bool × State) u =>
      (x.1 || (x.2.arrayUpset g agent ep u).1, (x.2.arrayUpset g agent ep u).2)) x).2.mem = x.2.mem := by
    intro l
    induction l with
    | nil => intro x; rfl
    | cons u l ih => intro x; rw [List.foldl_cons, ih]; exact State.arrayUpset_mem ..
  unfold State.arraySector
  dsimp only
  split
  · rfl
  · split
    · rw [State.logError_mem]; exact (fold _ _).trans ((State.takeUpsets_mem ..).trans (State.passTransfer_mem ..))
    · exact (fold _ _).trans ((State.takeUpsets_mem ..).trans (State.passTransfer_mem ..))

@[simp] theorem State.sramRead_mem (s : State) (pa n : Nat) (fresh : Bool) (agent ep : Nat) :
    (s.sramRead pa n fresh agent ep).mem = s.mem := by
  unfold State.sramRead
  exact (foldl_mem _ (fun s u => by split <;> simp) _ _).trans (State.takeUpsets_mem ..)

@[simp] theorem State.setHomeLine_mem (s : State) (pa : Nat) (l : Line) : (s.setHomeLine pa l).mem = s.mem := rfl

/-- A fill of a home line changes no byte: the line and the array are one memory in the model (R59, R60). -/
@[simp] theorem State.fillHome_mem (s : State) (pa agent ep : Nat) : (s.fillHome pa agent ep).mem = s.mem := by
  unfold State.fillHome
  dsimp only
  rw [State.sramRead_mem]
  have fold : ∀ (l : List Nat) (s : State), (l.foldl (fun s j =>
      match (s.arraySector (pa / 64 * 64 + 32 * j) agent ep).2.homeLine? pa with
      | some l => if ((s.arraySector (pa / 64 * 64 + 32 * j) agent ep).1 && !l.whole j) = true
          then (s.arraySector (pa / 64 * 64 + 32 * j) agent ep).2.setHomeLine pa (l.setBad (32 * j) true)
          else (s.arraySector (pa / 64 * 64 + 32 * j) agent ep).2
      | none => (s.arraySector (pa / 64 * 64 + 32 * j) agent ep).2) s).mem = s.mem := by
    refine fun l => foldl_mem _ (fun s j => ?_) l
    split
    · split
      · rw [State.setHomeLine_mem]; exact State.arraySector_mem ..
      · exact State.arraySector_mem ..
    · exact State.arraySector_mem ..
  split
  · rw [State.setHomeLine_mem]; exact fold _ _
  · exact fold _ _

/-! ## Writes at the home and writebacks -/

/-- A write at the home writes its bytes and no other, or nothing where the channel has failed (R59, R173). -/
theorem State.homePut_mem (s : State) (pa : Nat) (bs : List Byte) (agent ep : Nat) :
    (s.homePut pa bs agent ep).mem = s.mem ∨ ∃ t : State, t.mem = s.mem ∧ (s.homePut pa bs agent ep).mem = (t.setBytes pa bs).mem := by
  unfold State.homePut
  dsimp only
  split
  · split
    · rename_i l _ _ _ _
      refine .inr ⟨_, ?_, rfl⟩
      split <;> simp
    · refine .inr ⟨_, ?_, rfl⟩
      split <;> simp
  · have fold : ∀ (l : List Nat) (s : State), (l.foldl (fun s g =>
        if pa ≤ g ∧ g + 32 ≤ pa + bs.length then s
        else if ((s.arraySector g agent ep).1 && !((s.arraySector g agent ep).2.slice (proxyDev (stkOfPa pa) pa)).chan.failed) = true
          then (s.arraySector g agent ep).2.setPattern g true else (s.arraySector g agent ep).2) s).mem = s.mem := by
      refine fun l => foldl_mem _ (fun s g => ?_) l
      split
      · rfl
      · split
        · rw [State.setPattern_mem]; exact State.arraySector_mem ..
        · exact State.arraySector_mem ..
    split
    · exact .inl ((fold _ _).trans (by simp))
    · exact .inr ⟨_, (State.passTransfer_mem ..).trans ((fold _ _).trans (by simp)), rfl⟩

theorem State.setBytes_mem_congr {bs : List Byte} : ∀ {s t : State} {pa : Nat}, s.mem = t.mem →
    (s.setBytes pa bs).mem = (t.setBytes pa bs).mem := by
  induction bs with
  | nil => intro s t pa h; exact h
  | cons b bs ih => intro s t pa h; exact ih (by simp [State.setByte, h])

theorem State.homePut_wf {s : State} {pa : Nat} {bs : List Byte} {agent ep : Nat} (h : Memory.wf s.mem = true) :
    Memory.wf (s.homePut pa bs agent ep).mem = true := by
  rcases State.homePut_mem s pa bs agent ep with e | ⟨t, ht, e⟩
  · rw [e]; exact h
  · rw [e]; exact State.setBytes_wf (ht ▸ h)

/-- A writeback keeps memory in canonical form. -/
theorem State.writebackLine_wf {s : State} {stk line : Nat} (h : Memory.wf s.mem = true) :
    Memory.wf (s.writebackLine stk line).mem = true := by
  unfold State.writebackLine
  dsimp only
  split
  · split
    · rw [State.setLine_mem, State.accumulate_mem]
      split
      · refine foldl_keeps (fun s => Memory.wf s.mem = true) _ (fun s j hs => ?_) _ _
          (foldl_keeps (fun s => Memory.wf s.mem = true) _ (fun s w hs => ?_) _ _ h)
        · split
          · exact hs
          · split
            · rw [State.setPoison_mem]; exact hs
            · split
              · rw [State.clearPoison_mem]; exact hs
              · exact hs
        · exact State.homePut_wf hs
      · rename_i l _ _ _
        have hf := foldl_mem (fun (s : State) w => s.emit (.hostWrite ((line - 2 ^ 60) * 64 + 4 * w) l.attr
          ((List.range 4).map fun i => l.byte (4 * w + i)))) (fun _ _ => rfl) ((List.range 16).filter fun w => l.wd.getLsbD w) s
        rw [hf]; exact h
    · exact h
  · exact h

@[simp] theorem State.writebackHome_mem (s : State) (pa : Nat) : (s.writebackHome pa).mem = s.mem := by
  unfold State.writebackHome
  dsimp only
  split
  · rw [State.setHomeLine_mem]
    refine foldl_mem _ (fun s j => ?_) _ _
    split
    · rfl
    · split
      · rw [State.setPattern_mem, State.passTransfer_mem]
      · rw [State.setPattern_mem]; exact State.arraySector_mem ..
  · rfl

theorem State.dropFar_wf {s : State} {stk line : Nat} (h : Memory.wf s.mem = true) : Memory.wf (s.dropFar stk line).mem = true := by
  unfold State.dropFar
  dsimp only
  split
  · split
    · rw [State.dropLine_mem]; exact State.writebackLine_wf h
    · exact h
  · exact h

theorem State.writebackFar_wf {s : State} {stk : Nat} (h : Memory.wf s.mem = true) : Memory.wf (s.writebackFar stk).mem = true :=
  foldl_keeps (fun s => Memory.wf s.mem = true) _ (fun _ _ hs => State.writebackLine_wf hs) _ s h

theorem State.dropFarIf_wf {s : State} {stk : Nat} {p : Nat → Line → Bool} (h : Memory.wf s.mem = true) :
    Memory.wf (s.dropFarIf stk p).mem = true := by
  unfold State.dropFarIf
  refine foldl_keeps (fun s => Memory.wf s.mem = true) _ (fun s line hs => ?_) _ s h
  split
  · split
    · exact State.dropFar_wf hs
    · exact hs
  · exact hs

theorem State.evict_wf {s : State} {sl line : Nat} (h : Memory.wf s.mem = true) : Memory.wf (s.evict sl line).mem = true := by
  unfold State.evict
  split
  · dsimp only
    split
    · rw [State.dropLine_mem]; exact State.writebackLine_wf h
    · rw [State.dropLine_mem]; split <;> exact h
    · rw [State.dropLine_mem, State.writebackHome_mem, State.freeSig_mem, State.invalidateReplicas_mem]; exact h
  · exact h

theorem State.makeRoom_wf {s : State} {sl line : Nat} (h : Memory.wf s.mem = true) : Memory.wf (s.makeRoom sl line).mem = true := by
  unfold State.makeRoom
  split
  · exact h
  · split
    · exact State.evict_wf h
    · exact h

theorem State.alloc_wf {s : State} {sl line : Nat} {l : Line} (h : Memory.wf s.mem = true) :
    Memory.wf (s.alloc sl line l).mem = true := by
  unfold State.alloc; rw [State.setLine_mem]; exact State.makeRoom_wf h

end Sys2Proof.Machine
end

