-- ==== Sys2Proof/Laws/Ops.lean ====
section
/-! SUPPORT. Sys2Proof/Laws/Ops.lean: what the shared operations of an instruction can do: the gate, the step past an instruction,
a scalar result, the store buffer, and the way into a trap. -/

namespace Sys2Proof.Machine

/-! ## The gate (R191, R179, R213) -/

/-- What an instruction does behind its gate: it runs, it parks at its own offset, or it traps. -/
theorem State.withGate_cases (s : State) (srcs dsts : List Desig) (k : State → State) :
    (s.gate srcs dsts = .go ∧ s.withGate srcs dsts k = k s)
    ∨ (∃ why, s.gate srcs dsts = .park why ∧ s.withGate srcs dsts k = s.park why)
    ∨ (∃ c, s.gate srcs dsts = .illegal c ∧ s.withGate srcs dsts k = s.trap 0x01 c)
    ∨ (∃ m, s.gate srcs dsts = .late m ∧ s.withGate srcs dsts k = s.trapMark m)
    ∨ (s.gate srcs dsts = .roam ∧ s.withGate srcs dsts k = s.trapOpen 0x0D) := by
  unfold State.withGate
  cases h : s.gate srcs dsts <;> simp

theorem State.withGate_go {s : State} {srcs dsts : List Desig} (k : State → State) (h : s.gate srcs dsts = .go) :
    s.withGate srcs dsts k = k s := by
  simp [State.withGate, h]

theorem State.withGate_park {s : State} {srcs dsts : List Desig} {why : Park} (k : State → State)
    (h : s.gate srcs dsts = .park why) : s.withGate srcs dsts k = s.park why := by
  simp [State.withGate, h]

/-- The gate is open when nothing is owed, no block reads a destination, every source is full without a mark, and neither channel
end is named. -/
theorem State.gate_go {s : State} {srcs dsts : List Desig} (how : ∀ d ∈ srcs ++ dsts, (s.me.stOf d).isOwed = false)
    (hblk : ∀ d ∈ dsts, s.blockReads d = false) (hful : ∀ d ∈ srcs, s.me.stOf d ≠ .idle) (hmrk : ∀ d ∈ srcs, s.me.markOf d = none)
    (hin : Desig.s 28 ∉ srcs) (hout : Desig.s 29 ∉ dsts) : s.gate srcs dsts = .go := by
  unfold State.gate
  have h1 : (srcs ++ dsts).find? (fun d => (s.me.stOf d).isOwed) = none := by
    rw [List.find?_eq_none]; intro d hd; simp [how d hd]
  have h2 : dsts.any s.blockReads = false := by
    rw [List.any_eq_false]; intro d hd; simp [hblk d hd]
  have h3 : srcs.find? (fun d => s.me.stOf d == .idle) = none := by
    rw [List.find?_eq_none]; intro d hd; simp [hful d hd]
  have h4 : srcs.findSome? s.me.markOf = none := by
    rw [List.findSome?_eq_none_iff]; exact hmrk
  simp [h1, h2, h3, h4, hin, hout]

/-- A scalar operation with its operands there writes the value, takes `qin` once and goes to the next instruction. -/
theorem State.scalarOp_go {s : State} {srcs : List Nat} {d size : Nat} {val : State → W64}
    (h : s.gate (srcs.map Desig.s) [.s d] = .go) :
    s.scalarOp srcs d size val = ((s.putS d (val s)).popIf srcs).advance size := by
  rw [State.scalarOp, State.withGate_go _ h]

theorem State.popIf_of_not_mem {s : State} {srcs : List Nat} (h : 28 ∉ srcs) : s.popIf srcs = s := by
  simp [State.popIf, h]

theorem State.putS_register {s : State} {n : Nat} {x : W64} (h : n ≠ 29) :
    s.putS n x = s.modMe fun t => t.setS n (Cell.full x) := by
  simp [State.putS, h]

/-! ## What writes no memory -/

@[simp] theorem State.channelMoved_mem (s : State) : s.channelMoved.mem = s.mem := rfl
@[simp] theorem State.popQin_mem (s : State) : s.popQin.mem = s.mem := rfl

@[simp] theorem State.pushQout_mem (s : State) (x : W64) : (s.pushQout x).mem = s.mem := by
  unfold State.pushQout; split <;> rfl

@[simp] theorem State.popIf_mem (s : State) (srcs : List Nat) : (s.popIf srcs).mem = s.mem := by
  unfold State.popIf; split
  · rfl
  · rfl

@[simp] theorem State.putS_mem (s : State) (n : Nat) (x : W64) : (s.putS n x).mem = s.mem := by
  unfold State.putS; split
  · exact State.pushQout_mem s x
  · rfl

@[simp] theorem State.enterStore_mem (s : State) (kind : StoreKind) (va : Nat) (ps : List Piece) (data : List Byte) :
    (s.enterStore kind va ps data).mem = s.mem := rfl

@[simp] theorem State.enterStore_threads (s : State) (kind : StoreKind) (va : Nat) (ps : List Piece) (data : List Byte) :
    (s.enterStore kind va ps data).threads = s.threads := rfl

/-- A store takes the place behind the entries of its core. -/
theorem State.enterStore_sb (s : State) (kind : StoreKind) (va : Nat) (ps : List Piece) (data : List Byte) :
    ∃ e : StoreEnt, (s.enterStore kind va ps data).myCore.sb = s.myCore.sb ++ [e] ∧ e.slot = slotNo s.cur ∧ e.kind = kind
      ∧ e.pieces = ps ∧ e.data = data ∧ e.phase = .waiting ∧ e.va = va ∧ e.pc = s.me.pc :=
  ⟨{ slot := slotNo s.cur, seq := s.seq + 1, kind := kind, pieces := ps, data := data, phase := .waiting,
     released := false, va := va, pc := s.me.pc, img := s.me.img, epoch := s.myPolder.epoch,
     hepoch := s.myStack.hepoch },
   by simp only [State.enterStore, State.enterUnder, State.modMyCore_myCore]; rfl, rfl, rfl, rfl, rfl, rfl, rfl, rfl⟩

/-! ## Translation and reads at issue -/

/-- An access that lies in one piece of 2 KiB is one run. -/
theorem cutPages_one {fuel va n : Nat} (h : 0 < n) (hp : va % 2048 + n ≤ 2048) :
    cutPages (fuel + 1) 0 va n = [(0, va, n)] := by
  unfold cutPages
  rw [if_neg (by omega), Nat.min_eq_left (by omega)]
  dsimp only
  rw [Nat.sub_self]
  cases fuel <;> simp [cutPages]

/-- An address that translates goes on with its target. -/
theorem State.withX_ok {s s1 : State} {va : Nat} {wr : Bool} {tgt : Target} (k : Target → State → State)
    (h : s.xlate s.cur va wr = (.ok tgt, s1)) : s.withX va wr k = k tgt s1 := by
  simp [State.withX, State.reach, h]

/-- An access of one run that translates goes on with one piece. -/
theorem State.withPieces_one {s s1 : State} {va n : Nat} {wr : Bool} {tgt : Target} (k : List Piece → State → State) (hn : 0 < n)
    (hp : va % 2048 + n ≤ 2048) (h : s.xlate s.cur va wr = (.ok tgt, s1)) :
    s.withPieces va n wr k = k [{ lo := 0, len := n, tgt := tgt }] s1 := by
  rw [State.withPieces, cutPages_one hn hp]
  simp [State.withRuns, State.withX_ok _ h]

/-- A read of one run of device memory, with every older load of the slot performed and nothing held, gives the slot's own view. -/
theorem State.withBytes_dev {s : State} {n pa : Nat} {c m : Bool} (k : Got → State → State) (hl : s.me.loadsDone = true)
    (hm : s.memoryHeld [{ lo := 0, len := n, tgt := .dev pa c m }] = false)
    (hr : s.roamStale s.thr [{ lo := 0, len := n, tgt := .dev pa c m }] = []) :
    s.withBytes [{ lo := 0, len := n, tgt := .dev pa c m }] k
      = k (s.readOwn [{ lo := 0, len := n, tgt := .dev pa c m }]).1 (s.readOwn [{ lo := 0, len := n, tgt := .dev pa c m }]).2 := by
  have hp : s.farPinned (stkOf s.cur) (fun line _ => ([] : List Nat).contains line) = false := by
    unfold State.farPinned
    rw [List.any_eq_false]
    intro line _
    split <;> simp
  have hh : s.hostLacks [{ lo := 0, len := n, tgt := .dev pa c m }] = [] := by simp [State.hostLacks, State.hostMissing]
  unfold State.withBytes State.readOwn
  simp only [hl, hm, hr, hp, hh, List.foldl_nil, Bool.not_true, Bool.false_eq_true, or_self, if_false, ne_eq, not_true,
    List.zipIdx_cons, List.zipIdx_nil, List.filterMap_cons, List.filterMap_nil, List.filter_nil, List.map_nil, List.flatMap_nil,
    List.append_nil]

theorem State.withRead_dev {s s1 : State} {va n pa : Nat} {c m : Bool} (hn : 0 < n) (hp : va % 2048 + n ≤ 2048)
    (h : s.xlate s.cur va false = (.ok (.dev pa c m), s1)) (hl : s1.me.loadsDone = true)
    (hm : s1.memoryHeld [{ lo := 0, len := n, tgt := .dev pa c m }] = false)
    (hr : s1.roamStale s1.thr [{ lo := 0, len := n, tgt := .dev pa c m }] = [])
    (hb : (s1.readOwn [{ lo := 0, len := n, tgt := .dev pa c m }]).1.bad = []) (k : List Byte → State → State) :
    s.withRead va n k = k (s1.readOwn [{ lo := 0, len := n, tgt := .dev pa c m }]).1.data
      (s1.readOwn [{ lo := 0, len := n, tgt := .dev pa c m }]).2 := by
  rw [State.withRead, State.withPieces_one _ hn hp h, State.withBytes_dev _ hl hm hr, hb]
  rfl

/-- A trap record in device memory is read as the slot sees it. -/
theorem State.withTrapRecord_dev {s s1 : State} {va pa : Nat} {c m : Bool} (hp : va % 2048 + 64 ≤ 2048)
    (h : s.xlate s.cur va false = (.ok (.dev pa c m), s1))
    (hb : (s1.readOwn [{ lo := 0, len := 64, tgt := .dev pa c m }]).1.bad = []) (k : List Byte → State → State) :
    s.withTrapRecord va k = k (s1.readOwn [{ lo := 0, len := 64, tgt := .dev pa c m }]).1.data
      (s1.readOwn [{ lo := 0, len := 64, tgt := .dev pa c m }]).2 := by
  have hm : s1.hostMissing (stkOf s1.cur) [{ lo := 0, len := 64, tgt := .dev pa c m }] = [] := by simp [State.hostMissing]
  rw [State.withTrapRecord, State.withPieces_one _ (by omega) hp h]
  simp only [hm, if_true, hb, List.min?_nil]

/-- A shared object that translates, with every older access of the slot performed, nothing held or pinned, and no poison, is open. -/
theorem State.withObject_dev {s s1 : State} {va n pa : Nat} {c m : Bool} (h : s.xlate s.cur va true = (.ok (.dev pa c m), s1))
    (ha : ∀ k : State → State, s1.afterAccesses k = k s1)
    (hm : s1.memoryHeld [{ lo := 0, len := n, tgt := .dev pa c m }] = false)
    (hp : (s1.farPinned (stkOf s1.cur) fun line _ => line == devLine pa) = false)
    (hr : ¬(c = true ∧ s1.noRoom (proxyDev (stkOfPa pa) pa) (devLine pa) = true))
    (hb : ((s1.dropFar (stkOf s1.cur) (devLine pa)).readDev (stkOfPa pa) none pa n c true 0 s1.cur).1.bad = [])
    (k : Nat → State → State) :
    s.withObject va n k = k pa ((s1.dropFar (stkOf s1.cur) (devLine pa)).readDev (stkOfPa pa) none pa n c true 0 s1.cur).2 := by
  rw [State.withObject, State.withX_ok _ h]
  simp only [ha, hm, hp, hr, Bool.false_eq_true, if_false]
  generalize (s1.dropFar (stkOf s1.cur) (devLine pa)).readDev (stkOfPa pa) none pa n c true 0 s1.cur = r at hb ⊢
  obtain ⟨⟨data, bad⟩, s2⟩ := r
  cases hb
  rfl

/-! ## Into a trap (R420, R421) -/

/-- A trap at level 0, or at level 1 after `eack`, begins an entry: bank 1 is captured, and a nested entry keeps the old one in bank 0. -/
theorem State.takeTrap_enter {s : State} {i : TrapInfo} (hw : s.me.wait = .no)
    (hb : s.myCore.mcfgBusy ≠ some (slotNo s.cur)) (hl : s.me.level = 0 ∨ (s.me.level = 1 ∧ s.me.ack = true)) :
    s.takeTrap i = ((s.modMyCore fun c => c).modMe fun t =>
      { t with bank0 := if t.level = 1 then t.bank1 else t.bank0, bank1 := i.bank, prog := .none, xfault := none,
               hgot := [], late := none, entry := some { written := false, abandon := 0 } }).runEntry := by
  have hc : (s.modMyCore fun c => { c with mcfgBusy := if c.mcfgBusy = some (slotNo s.cur) then none else c.mcfgBusy })
      = s.modMyCore fun c => c := by
    have hx : (s.core (coreOf s.cur)).mcfgBusy ≠ some (slotNo s.cur) := hb
    simp only [State.modMyCore, State.modCore, hx, if_false]
  unfold State.takeTrap
  simp only [hc, State.modMyCore_me, hw, ne_eq, not_true, if_false, hl, if_true]

end Sys2Proof.Machine
end

