-- ==== Sys2Proof/Laws/PerInstr.lean ====
section
/-! SUPPORT. Sys2Proof/Laws/PerInstr.lean: statements about each instruction as syntax, one lemma per constructor. -/

namespace Sys2Proof.Laws

/-- R219, R220: an instruction is one word, or two where its major has a second word; an event has no words. -/
def Size.Statement (i : Instr) : Prop :=
  (i.isEvent = true ∧ encode i = [] ∧ i.size = 0)
  ∨ (i.isEvent = false ∧ ((∃ w, encode i = [w] ∧ i.size = 4) ∨ ∃ w w2, encode i = [w, w2] ∧ i.size = 8))

theorem Size.add (d a b : Nat) (sz : Sz) : Size.Statement (.add d a b sz) := .inr ⟨rfl, .inl ⟨_, rfl, rfl⟩⟩
theorem Size.sub (d a b : Nat) (sz : Sz) : Size.Statement (.sub d a b sz) := .inr ⟨rfl, .inl ⟨_, rfl, rfl⟩⟩
theorem Size.mul (d a b : Nat) (sz : Sz) : Size.Statement (.mul d a b sz) := .inr ⟨rfl, .inl ⟨_, rfl, rfl⟩⟩
theorem Size.mulh (d a b : Nat) (sz : Sz) : Size.Statement (.mulh d a b sz) := .inr ⟨rfl, .inl ⟨_, rfl, rfl⟩⟩
theorem Size.mulhu (d a b : Nat) (sz : Sz) : Size.Statement (.mulhu d a b sz) := .inr ⟨rfl, .inl ⟨_, rfl, rfl⟩⟩
theorem Size.div (d a b : Nat) (sz : Sz) : Size.Statement (.div d a b sz) := .inr ⟨rfl, .inl ⟨_, rfl, rfl⟩⟩
theorem Size.divu (d a b : Nat) (sz : Sz) : Size.Statement (.divu d a b sz) := .inr ⟨rfl, .inl ⟨_, rfl, rfl⟩⟩
theorem Size.rem (d a b : Nat) (sz : Sz) : Size.Statement (.rem d a b sz) := .inr ⟨rfl, .inl ⟨_, rfl, rfl⟩⟩
theorem Size.remu (d a b : Nat) (sz : Sz) : Size.Statement (.remu d a b sz) := .inr ⟨rfl, .inl ⟨_, rfl, rfl⟩⟩
theorem Size.and (d a b : Nat) : Size.Statement (.and d a b) := .inr ⟨rfl, .inl ⟨_, rfl, rfl⟩⟩
theorem Size.or (d a b : Nat) : Size.Statement (.or d a b) := .inr ⟨rfl, .inl ⟨_, rfl, rfl⟩⟩
theorem Size.xor (d a b : Nat) : Size.Statement (.xor d a b) := .inr ⟨rfl, .inl ⟨_, rfl, rfl⟩⟩
theorem Size.andn (d a b : Nat) : Size.Statement (.andn d a b) := .inr ⟨rfl, .inl ⟨_, rfl, rfl⟩⟩
theorem Size.sll (d a b : Nat) (sz : Sz) : Size.Statement (.sll d a b sz) := .inr ⟨rfl, .inl ⟨_, rfl, rfl⟩⟩
theorem Size.srl (d a b : Nat) (sz : Sz) : Size.Statement (.srl d a b sz) := .inr ⟨rfl, .inl ⟨_, rfl, rfl⟩⟩
theorem Size.sra (d a b : Nat) (sz : Sz) : Size.Statement (.sra d a b sz) := .inr ⟨rfl, .inl ⟨_, rfl, rfl⟩⟩
theorem Size.rol (d a b : Nat) (sz : Sz) : Size.Statement (.rol d a b sz) := .inr ⟨rfl, .inl ⟨_, rfl, rfl⟩⟩
theorem Size.ror (d a b : Nat) (sz : Sz) : Size.Statement (.ror d a b sz) := .inr ⟨rfl, .inl ⟨_, rfl, rfl⟩⟩
theorem Size.min (d a b : Nat) (sz : Sz) : Size.Statement (.min d a b sz) := .inr ⟨rfl, .inl ⟨_, rfl, rfl⟩⟩
theorem Size.max (d a b : Nat) (sz : Sz) : Size.Statement (.max d a b sz) := .inr ⟨rfl, .inl ⟨_, rfl, rfl⟩⟩
theorem Size.minu (d a b : Nat) (sz : Sz) : Size.Statement (.minu d a b sz) := .inr ⟨rfl, .inl ⟨_, rfl, rfl⟩⟩
theorem Size.maxu (d a b : Nat) (sz : Sz) : Size.Statement (.maxu d a b sz) := .inr ⟨rfl, .inl ⟨_, rfl, rfl⟩⟩
theorem Size.slt (d a b : Nat) (sz : Sz) : Size.Statement (.slt d a b sz) := .inr ⟨rfl, .inl ⟨_, rfl, rfl⟩⟩
theorem Size.sltu (d a b : Nat) (sz : Sz) : Size.Statement (.sltu d a b sz) := .inr ⟨rfl, .inl ⟨_, rfl, rfl⟩⟩
theorem Size.seq (d a b : Nat) (sz : Sz) : Size.Statement (.seq d a b sz) := .inr ⟨rfl, .inl ⟨_, rfl, rfl⟩⟩
theorem Size.clz (d a : Nat) (sz : Sz) : Size.Statement (.clz d a sz) := .inr ⟨rfl, .inl ⟨_, rfl, rfl⟩⟩
theorem Size.ctz (d a : Nat) (sz : Sz) : Size.Statement (.ctz d a sz) := .inr ⟨rfl, .inl ⟨_, rfl, rfl⟩⟩
theorem Size.popc (d a : Nat) (sz : Sz) : Size.Statement (.popc d a sz) := .inr ⟨rfl, .inl ⟨_, rfl, rfl⟩⟩
theorem Size.sext (d a : Nat) (sz : Sz) : Size.Statement (.sext d a sz) := .inr ⟨rfl, .inl ⟨_, rfl, rfl⟩⟩
theorem Size.zext (d a : Nat) (sz : Sz) : Size.Statement (.zext d a sz) := .inr ⟨rfl, .inl ⟨_, rfl, rfl⟩⟩
theorem Size.ixa (d a b : Nat) (sz : Sz) : Size.Statement (.ixa d a b sz) := .inr ⟨rfl, .inl ⟨_, rfl, rfl⟩⟩
theorem Size.bfx (d a b : Nat) (sz : Sz) : Size.Statement (.bfx d a b sz) := .inr ⟨rfl, .inl ⟨_, rfl, rfl⟩⟩
theorem Size.bfi (d a b : Nat) (sz : Sz) : Size.Statement (.bfi d a b sz) := .inr ⟨rfl, .inl ⟨_, rfl, rfl⟩⟩
theorem Size.addi (d a : Nat) (imm : BitVec 16) : Size.Statement (.addi d a imm) := .inr ⟨rfl, .inl ⟨_, rfl, rfl⟩⟩
theorem Size.andi (d a : Nat) (imm : BitVec 16) : Size.Statement (.andi d a imm) := .inr ⟨rfl, .inl ⟨_, rfl, rfl⟩⟩
theorem Size.ori (d a : Nat) (imm : BitVec 16) : Size.Statement (.ori d a imm) := .inr ⟨rfl, .inl ⟨_, rfl, rfl⟩⟩
theorem Size.xori (d a : Nat) (imm : BitVec 16) : Size.Statement (.xori d a imm) := .inr ⟨rfl, .inl ⟨_, rfl, rfl⟩⟩
theorem Size.slti (d a : Nat) (imm : BitVec 16) : Size.Statement (.slti d a imm) := .inr ⟨rfl, .inl ⟨_, rfl, rfl⟩⟩
theorem Size.sltiu (d a : Nat) (imm : BitVec 16) : Size.Statement (.sltiu d a imm) := .inr ⟨rfl, .inl ⟨_, rfl, rfl⟩⟩
theorem Size.shi (d a : Nat) (op : ShiftOp) (n : Nat) : Size.Statement (.shi d a op n) := .inr ⟨rfl, .inl ⟨_, rfl, rfl⟩⟩
theorem Size.lih (d : Nat) (imm : BitVec 16) : Size.Statement (.lih d imm) := .inr ⟨rfl, .inl ⟨_, rfl, rfl⟩⟩
theorem Size.addih (d a : Nat) (imm : BitVec 16) : Size.Statement (.addih d a imm) := .inr ⟨rfl, .inl ⟨_, rfl, rfl⟩⟩
theorem Size.muli (d a : Nat) (imm : BitVec 16) : Size.Statement (.muli d a imm) := .inr ⟨rfl, .inl ⟨_, rfl, rfl⟩⟩
theorem Size.limm (d : Nat) (k : BitVec 32) : Size.Statement (.limm d k) := .inr ⟨rfl, .inr ⟨_, _, rfl, rfl⟩⟩
theorem Size.limmh (d : Nat) (k : BitVec 32) : Size.Statement (.limmh d k) := .inr ⟨rfl, .inr ⟨_, _, rfl, rfl⟩⟩
theorem Size.addl (d : Nat) (k : BitVec 32) : Size.Statement (.addl d k) := .inr ⟨rfl, .inr ⟨_, _, rfl, rfl⟩⟩
theorem Size.br (cc : Cc) (a b : Nat) (disp : BitVec 12) : Size.Statement (.br cc a b disp) := .inr ⟨rfl, .inl ⟨_, rfl, rfl⟩⟩
theorem Size.jmp (disp : BitVec 26) : Size.Statement (.jmp disp) := .inr ⟨rfl, .inl ⟨_, rfl, rfl⟩⟩
theorem Size.jr (a : Nat) : Size.Statement (.jr a) := .inr ⟨rfl, .inl ⟨_, rfl, rfl⟩⟩
theorem Size.ret : Size.Statement .ret := .inr ⟨rfl, .inl ⟨_, rfl, rfl⟩⟩
theorem Size.callm (p n : Nat) : Size.Statement (.callm p n) := .inr ⟨rfl, .inl ⟨_, rfl, rfl⟩⟩
theorem Size.tailm (p n : Nat) : Size.Statement (.tailm p n) := .inr ⟨rfl, .inl ⟨_, rfl, rfl⟩⟩
theorem Size.here (d : Nat) : Size.Statement (.here d) := .inr ⟨rfl, .inl ⟨_, rfl, rfl⟩⟩
theorem Size.call (site imp : Nat) : Size.Statement (.call site imp) := .inr ⟨rfl, .inl ⟨_, rfl, rfl⟩⟩
theorem Size.tail (site imp : Nat) : Size.Statement (.tail site imp) := .inr ⟨rfl, .inl ⟨_, rfl, rfl⟩⟩
theorem Size.rpt (len a str : Nat) : Size.Statement (.rpt len a str) := .inr ⟨rfl, .inl ⟨_, rfl, rfl⟩⟩
theorem Size.trap (imm : BitVec 16) : Size.Statement (.trap imm) := .inr ⟨rfl, .inl ⟨_, rfl, rfl⟩⟩
theorem Size.ld (d a : Nat) (sz : Sz) (off : BitVec 11) : Size.Statement (.ld d a sz off) := .inr ⟨rfl, .inl ⟨_, rfl, rfl⟩⟩
theorem Size.ldAcq (d a : Nat) (sz : Sz) (off : BitVec 11) : Size.Statement (.ldAcq d a sz off) := .inr ⟨rfl, .inl ⟨_, rfl, rfl⟩⟩
theorem Size.ldSync (d a : Nat) (sz : Sz) (off : BitVec 11) : Size.Statement (.ldSync d a sz off) := .inr ⟨rfl, .inl ⟨_, rfl, rfl⟩⟩
theorem Size.ldTake (d a : Nat) (sz : Sz) (off : BitVec 11) : Size.Statement (.ldTake d a sz off) := .inr ⟨rfl, .inl ⟨_, rfl, rfl⟩⟩
theorem Size.st (d a : Nat) (sz : Sz) (off : BitVec 11) : Size.Statement (.st d a sz off) := .inr ⟨rfl, .inl ⟨_, rfl, rfl⟩⟩
theorem Size.stRel (d a : Nat) (sz : Sz) (off : BitVec 11) : Size.Statement (.stRel d a sz off) := .inr ⟨rfl, .inl ⟨_, rfl, rfl⟩⟩
theorem Size.stFill (d a : Nat) (sz : Sz) (off : BitVec 11) : Size.Statement (.stFill d a sz off) := .inr ⟨rfl, .inl ⟨_, rfl, rfl⟩⟩
theorem Size.stRelfill (d a : Nat) (sz : Sz) (off : BitVec 11) : Size.Statement (.stRelfill d a sz off) := .inr ⟨rfl, .inl ⟨_, rfl, rfl⟩⟩
theorem Size.vld (vd a pr : Nat) (off : BitVec 12) : Size.Statement (.vld vd a pr off) := .inr ⟨rfl, .inl ⟨_, rfl, rfl⟩⟩
theorem Size.vldBc32 (vd a pr : Nat) (off : BitVec 12) : Size.Statement (.vldBc32 vd a pr off) := .inr ⟨rfl, .inl ⟨_, rfl, rfl⟩⟩
theorem Size.vldBc16 (vd a pr : Nat) (off : BitVec 12) : Size.Statement (.vldBc16 vd a pr off) := .inr ⟨rfl, .inl ⟨_, rfl, rfl⟩⟩
theorem Size.vldBc8 (vd a pr : Nat) (off : BitVec 12) : Size.Statement (.vldBc8 vd a pr off) := .inr ⟨rfl, .inl ⟨_, rfl, rfl⟩⟩
theorem Size.vst (vd a pr : Nat) (off : BitVec 12) : Size.Statement (.vst vd a pr off) := .inr ⟨rfl, .inl ⟨_, rfl, rfl⟩⟩
theorem Size.gather (vd va b sc pr : Nat) : Size.Statement (.gather vd va b sc pr) := .inr ⟨rfl, .inl ⟨_, rfl, rfl⟩⟩
theorem Size.scatter (vd va b sc pr : Nat) : Size.Statement (.scatter vd va b sc pr) := .inr ⟨rfl, .inl ⟨_, rfl, rfl⟩⟩
theorem Size.amoAdd (d a b : Nat) (sz : Sz) : Size.Statement (.amoAdd d a b sz) := .inr ⟨rfl, .inl ⟨_, rfl, rfl⟩⟩
theorem Size.amoAnd (d a b : Nat) (sz : Sz) : Size.Statement (.amoAnd d a b sz) := .inr ⟨rfl, .inl ⟨_, rfl, rfl⟩⟩
theorem Size.amoOr (d a b : Nat) (sz : Sz) : Size.Statement (.amoOr d a b sz) := .inr ⟨rfl, .inl ⟨_, rfl, rfl⟩⟩
theorem Size.amoXor (d a b : Nat) (sz : Sz) : Size.Statement (.amoXor d a b sz) := .inr ⟨rfl, .inl ⟨_, rfl, rfl⟩⟩
theorem Size.amoMin (d a b : Nat) (sz : Sz) : Size.Statement (.amoMin d a b sz) := .inr ⟨rfl, .inl ⟨_, rfl, rfl⟩⟩
theorem Size.amoMax (d a b : Nat) (sz : Sz) : Size.Statement (.amoMax d a b sz) := .inr ⟨rfl, .inl ⟨_, rfl, rfl⟩⟩
theorem Size.amoMinu (d a b : Nat) (sz : Sz) : Size.Statement (.amoMinu d a b sz) := .inr ⟨rfl, .inl ⟨_, rfl, rfl⟩⟩
theorem Size.amoMaxu (d a b : Nat) (sz : Sz) : Size.Statement (.amoMaxu d a b sz) := .inr ⟨rfl, .inl ⟨_, rfl, rfl⟩⟩
theorem Size.amoSwap (d a b : Nat) (sz : Sz) : Size.Statement (.amoSwap d a b sz) := .inr ⟨rfl, .inl ⟨_, rfl, rfl⟩⟩
theorem Size.amoCas (d a b : Nat) (sz : Sz) : Size.Statement (.amoCas d a b sz) := .inr ⟨rfl, .inl ⟨_, rfl, rfl⟩⟩
theorem Size.amoFadd (d a b : Nat) : Size.Statement (.amoFadd d a b) := .inr ⟨rfl, .inl ⟨_, rfl, rfl⟩⟩
theorem Size.amoFmax (d a b : Nat) : Size.Statement (.amoFmax d a b) := .inr ⟨rfl, .inl ⟨_, rfl, rfl⟩⟩
theorem Size.fence (scope : Scope) : Size.Statement (.fence scope) := .inr ⟨rfl, .inl ⟨_, rfl, rfl⟩⟩
theorem Size.pf (a : Nat) : Size.Statement (.pf a) := .inr ⟨rfl, .inl ⟨_, rfl, rfl⟩⟩
theorem Size.clean (a : Nat) : Size.Statement (.clean a) := .inr ⟨rfl, .inl ⟨_, rfl, rfl⟩⟩
theorem Size.inval (a : Nat) : Size.Statement (.inval a) := .inr ⟨rfl, .inl ⟨_, rfl, rfl⟩⟩
theorem Size.zero (a : Nat) : Size.Statement (.zero a) := .inr ⟨rfl, .inl ⟨_, rfl, rfl⟩⟩
theorem Size.mkcont (d a : Nat) (kind : RegKind) : Size.Statement (.mkcont d a kind) := .inr ⟨rfl, .inl ⟨_, rfl, rfl⟩⟩
theorem Size.send (a b : Nat) : Size.Statement (.send a b) := .inr ⟨rfl, .inl ⟨_, rfl, rfl⟩⟩
theorem Size.qcfg (a b : Nat) : Size.Statement (.qcfg a b) := .inr ⟨rfl, .inl ⟨_, rfl, rfl⟩⟩
theorem Size.qstat (d : Nat) : Size.Statement (.qstat d) := .inr ⟨rfl, .inl ⟨_, rfl, rfl⟩⟩
theorem Size.vf32Add (vd va vb pr : Nat) : Size.Statement (.vf32Add vd va vb pr) := .inr ⟨rfl, .inl ⟨_, rfl, rfl⟩⟩
theorem Size.vf32Sub (vd va vb pr : Nat) : Size.Statement (.vf32Sub vd va vb pr) := .inr ⟨rfl, .inl ⟨_, rfl, rfl⟩⟩
theorem Size.vf32Mul (vd va vb pr : Nat) : Size.Statement (.vf32Mul vd va vb pr) := .inr ⟨rfl, .inl ⟨_, rfl, rfl⟩⟩
theorem Size.vf32Fma (vd va vb vc pr : Nat) : Size.Statement (.vf32Fma vd va vb vc pr) := .inr ⟨rfl, .inl ⟨_, rfl, rfl⟩⟩
theorem Size.vf32Fms (vd va vb vc pr : Nat) : Size.Statement (.vf32Fms vd va vb vc pr) := .inr ⟨rfl, .inl ⟨_, rfl, rfl⟩⟩
theorem Size.vf32Fnma (vd va vb vc pr : Nat) : Size.Statement (.vf32Fnma vd va vb vc pr) := .inr ⟨rfl, .inl ⟨_, rfl, rfl⟩⟩
theorem Size.vf32Min (vd va vb pr : Nat) : Size.Statement (.vf32Min vd va vb pr) := .inr ⟨rfl, .inl ⟨_, rfl, rfl⟩⟩
theorem Size.vf32Max (vd va vb pr : Nat) : Size.Statement (.vf32Max vd va vb pr) := .inr ⟨rfl, .inl ⟨_, rfl, rfl⟩⟩
theorem Size.vf32Abs (vd va pr : Nat) : Size.Statement (.vf32Abs vd va pr) := .inr ⟨rfl, .inl ⟨_, rfl, rfl⟩⟩
theorem Size.vf32Neg (vd va pr : Nat) : Size.Statement (.vf32Neg vd va pr) := .inr ⟨rfl, .inl ⟨_, rfl, rfl⟩⟩
theorem Size.vf32Cmpeq (vd va vb pr : Nat) : Size.Statement (.vf32Cmpeq vd va vb pr) := .inr ⟨rfl, .inl ⟨_, rfl, rfl⟩⟩
theorem Size.vf32Cmplt (vd va vb pr : Nat) : Size.Statement (.vf32Cmplt vd va vb pr) := .inr ⟨rfl, .inl ⟨_, rfl, rfl⟩⟩
theorem Size.vf32Cmple (vd va vb pr : Nat) : Size.Statement (.vf32Cmple vd va vb pr) := .inr ⟨rfl, .inl ⟨_, rfl, rfl⟩⟩
theorem Size.vf32Rcp (vd va pr : Nat) : Size.Statement (.vf32Rcp vd va pr) := .inr ⟨rfl, .inl ⟨_, rfl, rfl⟩⟩
theorem Size.vf32Rsqrt (vd va pr : Nat) : Size.Statement (.vf32Rsqrt vd va pr) := .inr ⟨rfl, .inl ⟨_, rfl, rfl⟩⟩
theorem Size.vf32Sqrt (vd va pr : Nat) : Size.Statement (.vf32Sqrt vd va pr) := .inr ⟨rfl, .inl ⟨_, rfl, rfl⟩⟩
theorem Size.vf32Exp2 (vd va pr : Nat) : Size.Statement (.vf32Exp2 vd va pr) := .inr ⟨rfl, .inl ⟨_, rfl, rfl⟩⟩
theorem Size.vf32Log2 (vd va pr : Nat) : Size.Statement (.vf32Log2 vd va pr) := .inr ⟨rfl, .inl ⟨_, rfl, rfl⟩⟩
theorem Size.vf32Tanh (vd va pr : Nat) : Size.Statement (.vf32Tanh vd va pr) := .inr ⟨rfl, .inl ⟨_, rfl, rfl⟩⟩
theorem Size.vf32Sig (vd va pr : Nat) : Size.Statement (.vf32Sig vd va pr) := .inr ⟨rfl, .inl ⟨_, rfl, rfl⟩⟩
theorem Size.vbf16Add (vd va vb pr : Nat) : Size.Statement (.vbf16Add vd va vb pr) := .inr ⟨rfl, .inl ⟨_, rfl, rfl⟩⟩
theorem Size.vbf16Sub (vd va vb pr : Nat) : Size.Statement (.vbf16Sub vd va vb pr) := .inr ⟨rfl, .inl ⟨_, rfl, rfl⟩⟩
theorem Size.vbf16Mul (vd va vb pr : Nat) : Size.Statement (.vbf16Mul vd va vb pr) := .inr ⟨rfl, .inl ⟨_, rfl, rfl⟩⟩
theorem Size.vbf16Fma (vd va vb vc pr : Nat) : Size.Statement (.vbf16Fma vd va vb vc pr) := .inr ⟨rfl, .inl ⟨_, rfl, rfl⟩⟩
theorem Size.vbf16Fms (vd va vb vc pr : Nat) : Size.Statement (.vbf16Fms vd va vb vc pr) := .inr ⟨rfl, .inl ⟨_, rfl, rfl⟩⟩
theorem Size.vbf16Fnma (vd va vb vc pr : Nat) : Size.Statement (.vbf16Fnma vd va vb vc pr) := .inr ⟨rfl, .inl ⟨_, rfl, rfl⟩⟩
theorem Size.vbf16Min (vd va vb pr : Nat) : Size.Statement (.vbf16Min vd va vb pr) := .inr ⟨rfl, .inl ⟨_, rfl, rfl⟩⟩
theorem Size.vbf16Max (vd va vb pr : Nat) : Size.Statement (.vbf16Max vd va vb pr) := .inr ⟨rfl, .inl ⟨_, rfl, rfl⟩⟩
theorem Size.vbf16Abs (vd va pr : Nat) : Size.Statement (.vbf16Abs vd va pr) := .inr ⟨rfl, .inl ⟨_, rfl, rfl⟩⟩
theorem Size.vbf16Neg (vd va pr : Nat) : Size.Statement (.vbf16Neg vd va pr) := .inr ⟨rfl, .inl ⟨_, rfl, rfl⟩⟩
theorem Size.vbf16Cmpeq (vd va vb pr : Nat) : Size.Statement (.vbf16Cmpeq vd va vb pr) := .inr ⟨rfl, .inl ⟨_, rfl, rfl⟩⟩
theorem Size.vbf16Cmplt (vd va vb pr : Nat) : Size.Statement (.vbf16Cmplt vd va vb pr) := .inr ⟨rfl, .inl ⟨_, rfl, rfl⟩⟩
theorem Size.vbf16Cmple (vd va vb pr : Nat) : Size.Statement (.vbf16Cmple vd va vb pr) := .inr ⟨rfl, .inl ⟨_, rfl, rfl⟩⟩
theorem Size.vf16Add (vd va vb pr : Nat) : Size.Statement (.vf16Add vd va vb pr) := .inr ⟨rfl, .inl ⟨_, rfl, rfl⟩⟩
theorem Size.vf16Sub (vd va vb pr : Nat) : Size.Statement (.vf16Sub vd va vb pr) := .inr ⟨rfl, .inl ⟨_, rfl, rfl⟩⟩
theorem Size.vf16Mul (vd va vb pr : Nat) : Size.Statement (.vf16Mul vd va vb pr) := .inr ⟨rfl, .inl ⟨_, rfl, rfl⟩⟩
theorem Size.vf16Fma (vd va vb vc pr : Nat) : Size.Statement (.vf16Fma vd va vb vc pr) := .inr ⟨rfl, .inl ⟨_, rfl, rfl⟩⟩
theorem Size.vf16Fms (vd va vb vc pr : Nat) : Size.Statement (.vf16Fms vd va vb vc pr) := .inr ⟨rfl, .inl ⟨_, rfl, rfl⟩⟩
theorem Size.vf16Fnma (vd va vb vc pr : Nat) : Size.Statement (.vf16Fnma vd va vb vc pr) := .inr ⟨rfl, .inl ⟨_, rfl, rfl⟩⟩
theorem Size.vf16Min (vd va vb pr : Nat) : Size.Statement (.vf16Min vd va vb pr) := .inr ⟨rfl, .inl ⟨_, rfl, rfl⟩⟩
theorem Size.vf16Max (vd va vb pr : Nat) : Size.Statement (.vf16Max vd va vb pr) := .inr ⟨rfl, .inl ⟨_, rfl, rfl⟩⟩
theorem Size.vf16Abs (vd va pr : Nat) : Size.Statement (.vf16Abs vd va pr) := .inr ⟨rfl, .inl ⟨_, rfl, rfl⟩⟩
theorem Size.vf16Neg (vd va pr : Nat) : Size.Statement (.vf16Neg vd va pr) := .inr ⟨rfl, .inl ⟨_, rfl, rfl⟩⟩
theorem Size.vf16Cmpeq (vd va vb pr : Nat) : Size.Statement (.vf16Cmpeq vd va vb pr) := .inr ⟨rfl, .inl ⟨_, rfl, rfl⟩⟩
theorem Size.vf16Cmplt (vd va vb pr : Nat) : Size.Statement (.vf16Cmplt vd va vb pr) := .inr ⟨rfl, .inl ⟨_, rfl, rfl⟩⟩
theorem Size.vf16Cmple (vd va vb pr : Nat) : Size.Statement (.vf16Cmple vd va vb pr) := .inr ⟨rfl, .inl ⟨_, rfl, rfl⟩⟩
theorem Size.vintAdd (vd va vb pr : Nat) (ty : IntTy) : Size.Statement (.vintAdd vd va vb pr ty) := .inr ⟨rfl, .inl ⟨_, rfl, rfl⟩⟩
theorem Size.vintSub (vd va vb pr : Nat) (ty : IntTy) : Size.Statement (.vintSub vd va vb pr ty) := .inr ⟨rfl, .inl ⟨_, rfl, rfl⟩⟩
theorem Size.vintMul (vd va vb pr : Nat) (ty : IntTy) : Size.Statement (.vintMul vd va vb pr ty) := .inr ⟨rfl, .inl ⟨_, rfl, rfl⟩⟩
theorem Size.vintMad (vd va vb vc pr : Nat) (ty : IntTy) : Size.Statement (.vintMad vd va vb vc pr ty) := .inr ⟨rfl, .inl ⟨_, rfl, rfl⟩⟩
theorem Size.vintMin (vd va vb pr : Nat) (ty : IntTy) : Size.Statement (.vintMin vd va vb pr ty) := .inr ⟨rfl, .inl ⟨_, rfl, rfl⟩⟩
theorem Size.vintMax (vd va vb pr : Nat) (ty : IntTy) : Size.Statement (.vintMax vd va vb pr ty) := .inr ⟨rfl, .inl ⟨_, rfl, rfl⟩⟩
theorem Size.vintMinu (vd va vb pr : Nat) (ty : IntTy) : Size.Statement (.vintMinu vd va vb pr ty) := .inr ⟨rfl, .inl ⟨_, rfl, rfl⟩⟩
theorem Size.vintMaxu (vd va vb pr : Nat) (ty : IntTy) : Size.Statement (.vintMaxu vd va vb pr ty) := .inr ⟨rfl, .inl ⟨_, rfl, rfl⟩⟩
theorem Size.vintAnd (vd va vb pr : Nat) (ty : IntTy) : Size.Statement (.vintAnd vd va vb pr ty) := .inr ⟨rfl, .inl ⟨_, rfl, rfl⟩⟩
theorem Size.vintOr (vd va vb pr : Nat) (ty : IntTy) : Size.Statement (.vintOr vd va vb pr ty) := .inr ⟨rfl, .inl ⟨_, rfl, rfl⟩⟩
theorem Size.vintXor (vd va vb pr : Nat) (ty : IntTy) : Size.Statement (.vintXor vd va vb pr ty) := .inr ⟨rfl, .inl ⟨_, rfl, rfl⟩⟩
theorem Size.vintSll (vd va vb pr : Nat) (ty : IntTy) : Size.Statement (.vintSll vd va vb pr ty) := .inr ⟨rfl, .inl ⟨_, rfl, rfl⟩⟩
theorem Size.vintSrl (vd va vb pr : Nat) (ty : IntTy) : Size.Statement (.vintSrl vd va vb pr ty) := .inr ⟨rfl, .inl ⟨_, rfl, rfl⟩⟩
theorem Size.vintSra (vd va vb pr : Nat) (ty : IntTy) : Size.Statement (.vintSra vd va vb pr ty) := .inr ⟨rfl, .inl ⟨_, rfl, rfl⟩⟩
theorem Size.vintCmpeq (vd va vb pr : Nat) (ty : IntTy) : Size.Statement (.vintCmpeq vd va vb pr ty) := .inr ⟨rfl, .inl ⟨_, rfl, rfl⟩⟩
theorem Size.vintCmplt (vd va vb pr : Nat) (ty : IntTy) : Size.Statement (.vintCmplt vd va vb pr ty) := .inr ⟨rfl, .inl ⟨_, rfl, rfl⟩⟩
theorem Size.vintCmpltu (vd va vb pr : Nat) (ty : IntTy) : Size.Statement (.vintCmpltu vd va vb pr ty) := .inr ⟨rfl, .inl ⟨_, rfl, rfl⟩⟩
theorem Size.vintAbs (vd va pr : Nat) (ty : IntTy) : Size.Statement (.vintAbs vd va pr ty) := .inr ⟨rfl, .inl ⟨_, rfl, rfl⟩⟩
theorem Size.bcast (vd sa pr : Nat) : Size.Statement (.bcast vd sa pr) := .inr ⟨rfl, .inl ⟨_, rfl, rfl⟩⟩
theorem Size.ins (vd sa lane : Nat) : Size.Statement (.ins vd sa lane) := .inr ⟨rfl, .inl ⟨_, rfl, rfl⟩⟩
theorem Size.ext (sd va lane : Nat) : Size.Statement (.ext sd va lane) := .inr ⟨rfl, .inl ⟨_, rfl, rfl⟩⟩
theorem Size.perm (vd va vb pr : Nat) : Size.Statement (.perm vd va vb pr) := .inr ⟨rfl, .inl ⟨_, rfl, rfl⟩⟩
theorem Size.rot (vd va n pr : Nat) : Size.Statement (.rot vd va n pr) := .inr ⟨rfl, .inl ⟨_, rfl, rfl⟩⟩
theorem Size.zip (vd va vb pr : Nat) : Size.Statement (.zip vd va vb pr) := .inr ⟨rfl, .inl ⟨_, rfl, rfl⟩⟩
theorem Size.unzip (vd va vb pr : Nat) : Size.Statement (.unzip vd va vb pr) := .inr ⟨rfl, .inl ⟨_, rfl, rfl⟩⟩
theorem Size.compress (vd va pr : Nat) : Size.Statement (.compress vd va pr) := .inr ⟨rfl, .inl ⟨_, rfl, rfl⟩⟩
theorem Size.expand (vd va pr : Nat) : Size.Statement (.expand vd va pr) := .inr ⟨rfl, .inl ⟨_, rfl, rfl⟩⟩
theorem Size.vredSumF32 (vd va pr : Nat) : Size.Statement (.vredSumF32 vd va pr) := .inr ⟨rfl, .inl ⟨_, rfl, rfl⟩⟩
theorem Size.vredMaxF32 (vd va pr : Nat) : Size.Statement (.vredMaxF32 vd va pr) := .inr ⟨rfl, .inl ⟨_, rfl, rfl⟩⟩
theorem Size.vredMinF32 (vd va pr : Nat) : Size.Statement (.vredMinF32 vd va pr) := .inr ⟨rfl, .inl ⟨_, rfl, rfl⟩⟩
theorem Size.vredSumI32 (vd va pr : Nat) : Size.Statement (.vredSumI32 vd va pr) := .inr ⟨rfl, .inl ⟨_, rfl, rfl⟩⟩
theorem Size.vredMaxI32 (vd va pr : Nat) : Size.Statement (.vredMaxI32 vd va pr) := .inr ⟨rfl, .inl ⟨_, rfl, rfl⟩⟩
theorem Size.vredMinI32 (vd va pr : Nat) : Size.Statement (.vredMinI32 vd va pr) := .inr ⟨rfl, .inl ⟨_, rfl, rfl⟩⟩
theorem Size.vredAnd (vd va pr : Nat) : Size.Statement (.vredAnd vd va pr) := .inr ⟨rfl, .inl ⟨_, rfl, rfl⟩⟩
theorem Size.vredOr (vd va pr : Nat) : Size.Statement (.vredOr vd va pr) := .inr ⟨rfl, .inl ⟨_, rfl, rfl⟩⟩
theorem Size.cvt (vd va pr : Nat) (w : CvtWord) : Size.Statement (.cvt vd va pr w) := .inr ⟨rfl, .inr ⟨_, _, rfl, rfl⟩⟩
theorem Size.qnt (vd va pr : Nat) (w : CvtWord) : Size.Statement (.qnt vd va pr w) := .inr ⟨rfl, .inr ⟨_, _, rfl, rfl⟩⟩
theorem Size.dqnt (vd va pr : Nat) (w : CvtWord) : Size.Statement (.dqnt vd va pr w) := .inr ⟨rfl, .inr ⟨_, _, rfl, rfl⟩⟩
theorem Size.vscl (vd va pr : Nat) : Size.Statement (.vscl vd va pr) := .inr ⟨rfl, .inl ⟨_, rfl, rfl⟩⟩
theorem Size.vmaxx (vd va : Nat) : Size.Statement (.vmaxx vd va) := .inr ⟨rfl, .inl ⟨_, rfl, rfl⟩⟩
theorem Size.comp (vd va vb pr : Nat) : Size.Statement (.comp vd va vb pr) := .inr ⟨rfl, .inl ⟨_, rfl, rfl⟩⟩
theorem Size.dcomp (vd va vb pr : Nat) : Size.Statement (.dcomp vd va vb pr) := .inr ⟨rfl, .inl ⟨_, rfl, rfl⟩⟩
theorem Size.vsel (vd va vb pr : Nat) : Size.Statement (.vsel vd va vb pr) := .inr ⟨rfl, .inl ⟨_, rfl, rfl⟩⟩
theorem Size.pand (pd pa pb : Nat) : Size.Statement (.pand pd pa pb) := .inr ⟨rfl, .inl ⟨_, rfl, rfl⟩⟩
theorem Size.por (pd pa pb : Nat) : Size.Statement (.por pd pa pb) := .inr ⟨rfl, .inl ⟨_, rfl, rfl⟩⟩
theorem Size.pxor (pd pa pb : Nat) : Size.Statement (.pxor pd pa pb) := .inr ⟨rfl, .inl ⟨_, rfl, rfl⟩⟩
theorem Size.pnot (pd pa : Nat) : Size.Statement (.pnot pd pa) := .inr ⟨rfl, .inl ⟨_, rfl, rfl⟩⟩
theorem Size.pcnt (sd pa : Nat) : Size.Statement (.pcnt sd pa) := .inr ⟨rfl, .inl ⟨_, rfl, rfl⟩⟩
theorem Size.pfirst (sd pa : Nat) : Size.Statement (.pfirst sd pa) := .inr ⟨rfl, .inl ⟨_, rfl, rfl⟩⟩
theorem Size.pset (pd sa : Nat) : Size.Statement (.pset pd sa) := .inr ⟨rfl, .inl ⟨_, rfl, rfl⟩⟩
theorem Size.vmodeShort : Size.Statement .vmodeShort := .inr ⟨rfl, .inl ⟨_, rfl, rfl⟩⟩
theorem Size.vmodeLong : Size.Statement .vmodeLong := .inr ⟨rfl, .inl ⟨_, rfl, rfl⟩⟩
theorem Size.gang (width : GangWidth) : Size.Statement (.gang width) := .inr ⟨rfl, .inl ⟨_, rfl, rfl⟩⟩
theorem Size.gangrel : Size.Statement .gangrel := .inr ⟨rfl, .inl ⟨_, rfl, rfl⟩⟩
theorem Size.vclr (d : Nat) : Size.Statement (.vclr d) := .inr ⟨rfl, .inl ⟨_, rfl, rfl⟩⟩
theorem Size.mcfg (a : Nat) : Size.Statement (.mcfg a) := .inr ⟨rfl, .inl ⟨_, rfl, rfl⟩⟩
theorem Size.mmul (n a b : Nat) : Size.Statement (.mmul n a b) := .inr ⟨rfl, .inl ⟨_, rfl, rfl⟩⟩
theorem Size.mzero (n : Nat) : Size.Statement (.mzero n) := .inr ⟨rfl, .inl ⟨_, rfl, rfl⟩⟩
theorem Size.mst (n a : Nat) : Size.Statement (.mst n a) := .inr ⟨rfl, .inl ⟨_, rfl, rfl⟩⟩
theorem Size.mld (n a : Nat) : Size.Statement (.mld n a) := .inr ⟨rfl, .inl ⟨_, rfl, rfl⟩⟩
theorem Size.mwait (d n : Nat) : Size.Statement (.mwait d n) := .inr ⟨rfl, .inl ⟨_, rfl, rfl⟩⟩
theorem Size.spawn (site imp : Nat) : Size.Statement (.spawn site imp) := .inr ⟨rfl, .inr ⟨_, _, rfl, rfl⟩⟩
theorem Size.join : Size.Statement .join := .inr ⟨rfl, .inl ⟨_, rfl, rfl⟩⟩
theorem Size.tnew (d a b : Nat) : Size.Statement (.tnew d a b) := .inr ⟨rfl, .inl ⟨_, rfl, rfl⟩⟩
theorem Size.tdep (a b : Nat) : Size.Statement (.tdep a b) := .inr ⟨rfl, .inl ⟨_, rfl, rfl⟩⟩
theorem Size.trel (a : Nat) : Size.Statement (.trel a) := .inr ⟨rfl, .inl ⟨_, rfl, rfl⟩⟩
theorem Size.tdone : Size.Statement .tdone := .inr ⟨rfl, .inl ⟨_, rfl, rfl⟩⟩
theorem Size.range (d a : Nat) : Size.Statement (.range d a) := .inr ⟨rfl, .inl ⟨_, rfl, rfl⟩⟩
theorem Size.yield : Size.Statement .yield := .inr ⟨rfl, .inl ⟨_, rfl, rfl⟩⟩
theorem Size.tcancel (lev : Level) : Size.Statement (.tcancel lev) := .inr ⟨rfl, .inl ⟨_, rfl, rfl⟩⟩
theorem Size.tlev (d : Nat) (lev : Level) : Size.Statement (.tlev d lev) := .inr ⟨rfl, .inl ⟨_, rfl, rfl⟩⟩
theorem Size.sol (d a b imp : Nat) (scope : Scope) (comb : Comb) : Size.Statement (.sol d a b imp scope comb) := .inr ⟨rfl, .inr ⟨_, _, rfl, rfl⟩⟩
theorem Size.reply (a : Nat) : Size.Statement (.reply a) := .inr ⟨rfl, .inr ⟨_, _, rfl, rfl⟩⟩
theorem Size.kput (a b len : Nat) : Size.Statement (.kput a b len) := .inr ⟨rfl, .inr ⟨_, _, rfl, rfl⟩⟩
theorem Size.kdel (a b : Nat) : Size.Statement (.kdel a b) := .inr ⟨rfl, .inr ⟨_, _, rfl, rfl⟩⟩
theorem Size.kmove (a b : Nat) : Size.Statement (.kmove a b) := .inr ⟨rfl, .inr ⟨_, _, rfl, rfl⟩⟩
theorem Size.kfind (d a : Nat) : Size.Statement (.kfind d a) := .inr ⟨rfl, .inr ⟨_, _, rfl, rfl⟩⟩
theorem Size.barinit (a b : Nat) : Size.Statement (.barinit a b) := .inr ⟨rfl, .inl ⟨_, rfl, rfl⟩⟩
theorem Size.arrive (d a : Nat) : Size.Statement (.arrive d a) := .inr ⟨rfl, .inl ⟨_, rfl, rfl⟩⟩
theorem Size.await (a b : Nat) : Size.Statement (.await a b) := .inr ⟨rfl, .inl ⟨_, rfl, rfl⟩⟩
theorem Size.barbytes (a b : Nat) : Size.Statement (.barbytes a b) := .inr ⟨rfl, .inl ⟨_, rfl, rfl⟩⟩
theorem Size.cpy (d a b bar tag : Nat) (trap : Bool) : Size.Statement (.cpy d a b bar tag trap) := .inr ⟨rfl, .inr ⟨_, _, rfl, rfl⟩⟩
theorem Size.cpyrep (a bar tag : Nat) (trap : Bool) : Size.Statement (.cpyrep a bar tag trap) := .inr ⟨rfl, .inr ⟨_, _, rfl, rfl⟩⟩
theorem Size.cpystat (d tag : Nat) : Size.Statement (.cpystat d tag) := .inr ⟨rfl, .inr ⟨_, _, rfl, rfl⟩⟩
theorem Size.cpykill (tag : Nat) : Size.Statement (.cpykill tag) := .inr ⟨rfl, .inr ⟨_, _, rfl, rfl⟩⟩
theorem Size.put (a : Nat) : Size.Statement (.put a) := .inr ⟨rfl, .inl ⟨_, rfl, rfl⟩⟩
theorem Size.get (a : Nat) : Size.Statement (.get a) := .inr ⟨rfl, .inl ⟨_, rfl, rfl⟩⟩
theorem Size.wpost (a b : Nat) : Size.Statement (.wpost a b) := .inr ⟨rfl, .inl ⟨_, rfl, rfl⟩⟩
theorem Size.wkill (a : Nat) : Size.Statement (.wkill a) := .inr ⟨rfl, .inl ⟨_, rfl, rfl⟩⟩
theorem Size.waitany (d a : Nat) : Size.Statement (.waitany d a) := .inr ⟨rfl, .inl ⟨_, rfl, rfl⟩⟩
theorem Size.waitall (a : Nat) : Size.Statement (.waitall a) := .inr ⟨rfl, .inl ⟨_, rfl, rfl⟩⟩
theorem Size.ffr (d a : Nat) : Size.Statement (.ffr d a) := .inr ⟨rfl, .inl ⟨_, rfl, rfl⟩⟩
theorem Size.tagclr (a : Nat) : Size.Statement (.tagclr a) := .inr ⟨rfl, .inl ⟨_, rfl, rfl⟩⟩
theorem Size.getc (d n : Nat) : Size.Statement (.getc d n) := .inr ⟨rfl, .inl ⟨_, rfl, rfl⟩⟩
theorem Size.setc (n a : Nat) : Size.Statement (.setc n a) := .inr ⟨rfl, .inl ⟨_, rfl, rfl⟩⟩
theorem Size.sysc (d a n : Nat) : Size.Statement (.sysc d a n) := .inr ⟨rfl, .inl ⟨_, rfl, rfl⟩⟩
theorem Size.eret : Size.Statement .eret := .inr ⟨rfl, .inl ⟨_, rfl, rfl⟩⟩
theorem Size.eack : Size.Statement .eack := .inr ⟨rfl, .inl ⟨_, rfl, rfl⟩⟩
theorem Size.park (a : Nat) : Size.Statement (.park a) := .inr ⟨rfl, .inl ⟨_, rfl, rfl⟩⟩
theorem Size.wake (a : Nat) : Size.Statement (.wake a) := .inr ⟨rfl, .inl ⟨_, rfl, rfl⟩⟩
theorem Size.halt : Size.Statement .halt := .inr ⟨rfl, .inl ⟨_, rfl, rfl⟩⟩
theorem Size.cinst (a : Nat) : Size.Statement (.cinst a) := .inr ⟨rfl, .inl ⟨_, rfl, rfl⟩⟩
theorem Size.cdrop (a : Nat) : Size.Statement (.cdrop a) := .inr ⟨rfl, .inl ⟨_, rfl, rfl⟩⟩
theorem Size.tlbi (a b : Nat) (whole : Bool) : Size.Statement (.tlbi a b whole) := .inr ⟨rfl, .inl ⟨_, rfl, rfl⟩⟩
theorem Size.scrub (a b : Nat) : Size.Statement (.scrub a b) := .inr ⟨rfl, .inl ⟨_, rfl, rfl⟩⟩
theorem Size.powerGovernorSample (stk : Nat) : Size.Statement (.powerGovernorSample stk) := .inl ⟨rfl, rfl, rfl⟩
theorem Size.coldReset (stk : Nat) : Size.Statement (.coldReset stk) := .inl ⟨rfl, rfl, rfl⟩
theorem Size.sramWipeDone (stk : Nat) : Size.Statement (.sramWipeDone stk) := .inl ⟨rfl, rfl, rfl⟩
theorem Size.dramWipeDone (stk : Nat) : Size.Statement (.dramWipeDone stk) := .inl ⟨rfl, rfl, rfl⟩
theorem Size.lifeCycleCommand (stk dst : Nat) (signed service : Bool) : Size.Statement (.lifeCycleCommand stk dst signed service) := .inl ⟨rfl, rfl, rfl⟩
theorem Size.trainingComplete (stk : Nat) (failed : List Nat) : Size.Statement (.trainingComplete stk failed) := .inl ⟨rfl, rfl, rfl⟩
theorem Size.managementRegisterWrite (stk : Nat) (w : MgmtWrite) : Size.Statement (.managementRegisterWrite stk w) := .inl ⟨rfl, rfl, rfl⟩
theorem Size.dikeRecordRevalidate (stk dike : Nat) : Size.Statement (.dikeRecordRevalidate stk dike) := .inl ⟨rfl, rfl, rfl⟩
theorem Size.hostAppend (stk q off : Nat) (data : List Byte) : Size.Statement (.hostAppend stk q off data) := .inl ⟨rfl, rfl, rfl⟩
theorem Size.bar2PlainWrite (stk : Nat) : Size.Statement (.bar2PlainWrite stk) := .inl ⟨rfl, rfl, rfl⟩
theorem Size.launchRecordRead (stk q : Nat) : Size.Statement (.launchRecordRead stk q) := .inl ⟨rfl, rfl, rfl⟩
theorem Size.completionRecordWrite (stk q : Nat) : Size.Statement (.completionRecordWrite stk q) := .inl ⟨rfl, rfl, rfl⟩
theorem Size.translationCompletion (stk i status ta size : Nat) (r w n u : Bool) : Size.Statement (.translationCompletion stk i status ta size r w n u) := .inl ⟨rfl, rfl, rfl⟩
theorem Size.prgResponse (stk prgi code : Nat) : Size.Statement (.prgResponse stk prgi code) := .inl ⟨rfl, rfl, rfl⟩
theorem Size.prgResponseTimeout (stk prgi : Nat) : Size.Statement (.prgResponseTimeout stk prgi) := .inl ⟨rfl, rfl, rfl⟩
theorem Size.priStoppedClear (stk : Nat) : Size.Statement (.priStoppedClear stk) := .inl ⟨rfl, rfl, rfl⟩
theorem Size.hostReadCompletion (stk i : Nat) (data : List Byte) (bad : Bool) : Size.Statement (.hostReadCompletion stk i data bad) := .inl ⟨rfl, rfl, rfl⟩
theorem Size.atsInvalidateRequest (stk itag pasid ua size : Nat) : Size.Statement (.atsInvalidateRequest stk itag pasid ua size) := .inl ⟨rfl, rfl, rfl⟩
theorem Size.invalidateCompletion (stk : Nat) : Size.Statement (.invalidateCompletion stk) := .inl ⟨rfl, rfl, rfl⟩
theorem Size.codeQueueDoorbell (stk dike : Nat) : Size.Statement (.codeQueueDoorbell stk dike) := .inl ⟨rfl, rfl, rfl⟩
theorem Size.walkerStart (stk : Nat) : Size.Statement (.walkerStart stk) := .inl ⟨rfl, rfl, rfl⟩
theorem Size.walkComplete (stk i : Nat) : Size.Statement (.walkComplete stk i) := .inl ⟨rfl, rfl, rfl⟩
theorem Size.polderInvalidation (pol : Nat) : Size.Statement (.polderInvalidation pol) := .inl ⟨rfl, rfl, rfl⟩
theorem Size.epochDrained (pol : Nat) : Size.Statement (.epochDrained pol) := .inl ⟨rfl, rfl, rfl⟩
theorem Size.sliceRequest (ep : Nat) (who : Requester) : Size.Statement (.sliceRequest ep who) := .inl ⟨rfl, rfl, rfl⟩
theorem Size.replicaInvalidationDone (core : Nat) : Size.Statement (.replicaInvalidationDone core) := .inl ⟨rfl, rfl, rfl⟩
theorem Size.mergingFill (ep : Nat) : Size.Statement (.mergingFill ep) := .inl ⟨rfl, rfl, rfl⟩
theorem Size.bankAccess (ep : Nat) (store : Bool) : Size.Statement (.bankAccess ep store) := .inl ⟨rfl, rfl, rfl⟩
theorem Size.waitTableResend (ep : Nat) : Size.Statement (.waitTableResend ep) := .inl ⟨rfl, rfl, rfl⟩
theorem Size.storeBufferSend (core : Nat) : Size.Statement (.storeBufferSend core) := .inl ⟨rfl, rfl, rfl⟩
theorem Size.storeAck (core : Nat) : Size.Statement (.storeAck core) := .inl ⟨rfl, rfl, rfl⟩
theorem Size.longLatencyFill (ep k : Nat) : Size.Statement (.longLatencyFill ep k) := .inl ⟨rfl, rfl, rfl⟩
theorem Size.farLineSweep (sl : Nat) : Size.Statement (.farLineSweep sl) := .inl ⟨rfl, rfl, rfl⟩
theorem Size.accumulatorRenewal (stk : Nat) : Size.Statement (.accumulatorRenewal stk) := .inl ⟨rfl, rfl, rfl⟩
theorem Size.accumulatorRenewalDone (stk : Nat) : Size.Statement (.accumulatorRenewalDone stk) := .inl ⟨rfl, rfl, rfl⟩
theorem Size.releaseWritebackDone (core : Nat) : Size.Statement (.releaseWritebackDone core) := .inl ⟨rfl, rfl, rfl⟩
theorem Size.acquireSliceInvalidate (stk i sl : Nat) : Size.Statement (.acquireSliceInvalidate stk i sl) := .inl ⟨rfl, rfl, rfl⟩
theorem Size.acquireComplete (stk i : Nat) : Size.Statement (.acquireComplete stk i) := .inl ⟨rfl, rfl, rfl⟩
theorem Size.sluicePacketReceive (stk : Nat) (src : SluiceSource) : Size.Statement (.sluicePacketReceive stk src) := .inl ⟨rfl, rfl, rfl⟩
theorem Size.enrikFlitReceive (pkg port : Nat) (flit : List Byte) : Size.Statement (.enrikFlitReceive pkg port flit) := .inl ⟨rfl, rfl, rfl⟩
theorem Size.enrikNakReceive (pkg port seq : Nat) : Size.Statement (.enrikNakReceive pkg port seq) := .inl ⟨rfl, rfl, rfl⟩
theorem Size.enrikAckTimeout (pkg port : Nat) : Size.Statement (.enrikAckTimeout pkg port) := .inl ⟨rfl, rfl, rfl⟩
theorem Size.runPadTimeout (pkg port : Nat) : Size.Statement (.runPadTimeout pkg port) := .inl ⟨rfl, rfl, rfl⟩
theorem Size.retrainComplete (pkg port : Nat) : Size.Statement (.retrainComplete pkg port) := .inl ⟨rfl, rfl, rfl⟩
theorem Size.retrainTimeout (pkg port : Nat) : Size.Statement (.retrainTimeout pkg port) := .inl ⟨rfl, rfl, rfl⟩
theorem Size.linkKeyInstall (pkg port index key : Nat) (sends : Bool) : Size.Statement (.linkKeyInstall pkg port index key sends) := .inl ⟨rfl, rfl, rfl⟩
theorem Size.keyRetireSend (pkg port : Nat) : Size.Statement (.keyRetireSend pkg port) := .inl ⟨rfl, rfl, rfl⟩
theorem Size.keyRetireReceive (pkg port : Nat) : Size.Statement (.keyRetireReceive pkg port) := .inl ⟨rfl, rfl, rfl⟩
theorem Size.runCounterExhausted (pkg port : Nat) : Size.Statement (.runCounterExhausted pkg port) := .inl ⟨rfl, rfl, rfl⟩
theorem Size.timeBeaconSend (pkg : Nat) : Size.Statement (.timeBeaconSend pkg) := .inl ⟨rfl, rfl, rfl⟩
theorem Size.timeBeaconReceive (pkg port time : Nat) : Size.Statement (.timeBeaconReceive pkg port time) := .inl ⟨rfl, rfl, rfl⟩
theorem Size.linkDelayMeasure (pkg port delay : Nat) : Size.Statement (.linkDelayMeasure pkg port delay) := .inl ⟨rfl, rfl, rfl⟩
theorem Size.farRequestTimeout (ep : Nat) (store : Bool) : Size.Statement (.farRequestTimeout ep store) := .inl ⟨rfl, rfl, rfl⟩
theorem Size.guestReservation (ep : Nat) : Size.Statement (.guestReservation ep) := .inl ⟨rfl, rfl, rfl⟩
theorem Size.reservationReply (ep : Nat) : Size.Statement (.reservationReply ep) := .inl ⟨rfl, rfl, rfl⟩
theorem Size.reservationExpiry (core : Nat) : Size.Statement (.reservationExpiry core) := .inl ⟨rfl, rfl, rfl⟩
theorem Size.migrationDrainDone (ep : Nat) : Size.Statement (.migrationDrainDone ep) := .inl ⟨rfl, rfl, rfl⟩
theorem Size.contextPacketArrival (ep : Nat) : Size.Statement (.contextPacketArrival ep) := .inl ⟨rfl, rfl, rfl⟩
theorem Size.censusPacketCombine (sl : Nat) : Size.Statement (.censusPacketCombine sl) := .inl ⟨rfl, rfl, rfl⟩
theorem Size.combineEntryForward (sl : Nat) : Size.Statement (.combineEntryForward sl) := .inl ⟨rfl, rfl, rfl⟩
theorem Size.putDataPacket (stk i : Nat) : Size.Statement (.putDataPacket stk i) := .inl ⟨rfl, rfl, rfl⟩
theorem Size.putFinalWrite (stk i : Nat) : Size.Statement (.putFinalWrite stk i) := .inl ⟨rfl, rfl, rfl⟩
theorem Size.getRequestPacket (stk i : Nat) (data : List Byte) (bad : Bool) : Size.Statement (.getRequestPacket stk i data bad) := .inl ⟨rfl, rfl, rfl⟩
theorem Size.getDataPacket (stk : Nat) (x : Landing) : Size.Statement (.getDataPacket stk x) := .inl ⟨rfl, rfl, rfl⟩
theorem Size.remoteAck (stk i : Nat) : Size.Statement (.remoteAck stk i) := .inl ⟨rfl, rfl, rfl⟩
theorem Size.notReadyReply (stk i : Nat) : Size.Statement (.notReadyReply stk i) := .inl ⟨rfl, rfl, rfl⟩
theorem Size.resendBackoffExpiry (stk j k : Nat) : Size.Statement (.resendBackoffExpiry stk j k) := .inl ⟨rfl, rfl, rfl⟩
theorem Size.remoteAgeStop (stk j : Nat) : Size.Statement (.remoteAgeStop stk j) := .inl ⟨rfl, rfl, rfl⟩
theorem Size.channelRecordRefill (stk c : Nat) : Size.Statement (.channelRecordRefill stk c) := .inl ⟨rfl, rfl, rfl⟩
theorem Size.loaderSourceAnswer (pol digest : Nat) : Size.Statement (.loaderSourceAnswer pol digest) := .inl ⟨rfl, rfl, rfl⟩
theorem Size.sourceWaitTimeout (pol digest : Nat) : Size.Statement (.sourceWaitTimeout pol digest) := .inl ⟨rfl, rfl, rfl⟩
theorem Size.signatureVerified (pol digest : Nat) : Size.Statement (.signatureVerified pol digest) := .inl ⟨rfl, rfl, rfl⟩
theorem Size.installRetry (pol digest : Nat) : Size.Statement (.installRetry pol digest) := .inl ⟨rfl, rfl, rfl⟩
theorem Size.installWaitTimeout (pol : Nat) (who : Installer) : Size.Statement (.installWaitTimeout pol who) := .inl ⟨rfl, rfl, rfl⟩
theorem Size.tagReplaceTimeout (pol digest : Nat) : Size.Statement (.tagReplaceTimeout pol digest) := .inl ⟨rfl, rfl, rfl⟩
theorem Size.vbusParityFailure (x : Transfer) (fails : List (Option Nat)) : Size.Statement (.vbusParityFailure x fails) := .inl ⟨rfl, rfl, rfl⟩
theorem Size.laneSwapDone (sl : Nat) : Size.Statement (.laneSwapDone sl) := .inl ⟨rfl, rfl, rfl⟩
theorem Size.patrolScrub (sl : Nat) : Size.Statement (.patrolScrub sl) := .inl ⟨rfl, rfl, rfl⟩
theorem Size.sleepDepthTimer (core : Nat) : Size.Statement (.sleepDepthTimer core) := .inl ⟨rfl, rfl, rfl⟩
theorem Size.coreWake (core : Nat) : Size.Statement (.coreWake core) := .inl ⟨rfl, rfl, rfl⟩
theorem Size.dividerComplete (core : Nat) : Size.Statement (.dividerComplete core) := .inl ⟨rfl, rfl, rfl⟩
theorem Size.sequencerReplayStart (core : Nat) : Size.Statement (.sequencerReplayStart core) := .inl ⟨rfl, rfl, rfl⟩
theorem Size.gangBindDone (ep : Nat) : Size.Statement (.gangBindDone ep) := .inl ⟨rfl, rfl, rfl⟩
theorem Size.matrixCommandStart (pol : Nat) : Size.Statement (.matrixCommandStart pol) := .inl ⟨rfl, rfl, rfl⟩
theorem Size.matrixCommandDone (core : Nat) : Size.Statement (.matrixCommandDone core) := .inl ⟨rfl, rfl, rfl⟩
theorem Size.copySectorPerformed (core i j : Nat) (late : Bool) (data : List Byte) (bad : Bool) : Size.Statement (.copySectorPerformed core i j late data bad) := .inl ⟨rfl, rfl, rfl⟩
theorem Size.censusDirectoryProcess (pol c : Nat) : Size.Statement (.censusDirectoryProcess pol c) := .inl ⟨rfl, rfl, rfl⟩
theorem Size.censusReport (stk : Nat) : Size.Statement (.censusReport stk) := .inl ⟨rfl, rfl, rfl⟩
theorem Size.censusCompletionBroadcast (pol c : Nat) : Size.Statement (.censusCompletionBroadcast pol c) := .inl ⟨rfl, rfl, rfl⟩
theorem Size.censusSlotFree (dike c : Nat) : Size.Statement (.censusSlotFree dike c) := .inl ⟨rfl, rfl, rfl⟩
theorem Size.kmoveHoldAck (pol i : Nat) : Size.Statement (.kmoveHoldAck pol i) := .inl ⟨rfl, rfl, rfl⟩
theorem Size.kmoveCommit (pol i : Nat) : Size.Statement (.kmoveCommit pol i) := .inl ⟨rfl, rfl, rfl⟩
theorem Size.slotDispatch (ep first : Nat) : Size.Statement (.slotDispatch ep first) := .inl ⟨rfl, rfl, rfl⟩
theorem Size.stealRequest (ep first : Nat) : Size.Statement (.stealRequest ep first) := .inl ⟨rfl, rfl, rfl⟩
theorem Size.stealRetryTimer (core first : Nat) : Size.Statement (.stealRetryTimer core first) := .inl ⟨rfl, rfl, rfl⟩
theorem Size.loadTokenVisit (dike : Nat) : Size.Statement (.loadTokenVisit dike) := .inl ⟨rfl, rfl, rfl⟩
theorem Size.tokenHoldExpiry (dike : Nat) : Size.Statement (.tokenHoldExpiry dike) := .inl ⟨rfl, rfl, rfl⟩
theorem Size.releaseUnitWalk (sl : Nat) : Size.Statement (.releaseUnitWalk sl) := .inl ⟨rfl, rfl, rfl⟩
theorem Size.entryAttributeLookup (stk dike task : Nat) : Size.Statement (.entryAttributeLookup stk dike task) := .inl ⟨rfl, rfl, rfl⟩
theorem Size.pendingResponderCreate (pol : Nat) : Size.Statement (.pendingResponderCreate pol) := .inl ⟨rfl, rfl, rfl⟩
theorem Size.responderWiden (stk : Nat) : Size.Statement (.responderWiden stk) := .inl ⟨rfl, rfl, rfl⟩
theorem Size.gangDrainTimeout (pol : Nat) : Size.Statement (.gangDrainTimeout pol) := .inl ⟨rfl, rfl, rfl⟩
theorem Size.gangDrainDone (pol : Nat) : Size.Statement (.gangDrainDone pol) := .inl ⟨rfl, rfl, rfl⟩
theorem Size.jobSwitch (pol dike : Nat) (handlers : List (Bool × List Byte)) : Size.Statement (.jobSwitch pol dike handlers) := .inl ⟨rfl, rfl, rfl⟩
theorem Size.polderKillWrite (pol ep cause : Nat) : Size.Statement (.polderKillWrite pol ep cause) := .inl ⟨rfl, rfl, rfl⟩
theorem Size.polderSwapWrite (pol ep : Nat) : Size.Statement (.polderSwapWrite pol ep) := .inl ⟨rfl, rfl, rfl⟩
theorem Size.polderResumeWrite (pol ep idx : Nat) : Size.Statement (.polderResumeWrite pol ep idx) := .inl ⟨rfl, rfl, rfl⟩
theorem Size.inboxPop (pol : Nat) : Size.Statement (.inboxPop pol) := .inl ⟨rfl, rfl, rfl⟩
theorem Size.inboxEntryArrival (pol : Nat) : Size.Statement (.inboxEntryArrival pol) := .inl ⟨rfl, rfl, rfl⟩
theorem Size.pendingInboxWrite (pol : Nat) : Size.Statement (.pendingInboxWrite pol) := .inl ⟨rfl, rfl, rfl⟩
theorem Size.sendFillArrival (pol : Nat) : Size.Statement (.sendFillArrival pol) := .inl ⟨rfl, rfl, rfl⟩
theorem Size.channelDeadlockSample (pol : Nat) : Size.Statement (.channelDeadlockSample pol) := .inl ⟨rfl, rfl, rfl⟩
theorem Size.twinSignatureCheck (ep : Nat) (mismatch : Bool) : Size.Statement (.twinSignatureCheck ep mismatch) := .inl ⟨rfl, rfl, rfl⟩

end Sys2Proof.Laws
end

