-- ==== Sys2Proof/Tests/Slice0.lean ====
section
/-! SUPPORT. Sys2Proof/Tests/Slice0.lean: words of the spec that decode, operands that are refused, single steps on a small machine, and for
each statement a machine that meets its hypotheses. -/

set_option Elab.async false

namespace Sys2Proof.Tests

open Sys2Proof.Machine

/-! ## A small machine -/

/-- An image with a digest, its code, its imports and its call sites. -/
def tImage (digest : Nat) (code : List (BitVec 32)) (imports : List Nat) (sites : List (Nat × Nat)) : Image :=
  { digest := digest, tag := 0, transl := false, attrs := 16, frame := 128, code := code, imports := imports,
    pool := [1, 2, 3, 4, 5, 6, 7, 8], sites := sites, nsite := sites.length, blocks := 1, users := 1, frames := 0, lastUse := 0,
    pinned := false }

/-- A callee, and the image that runs: eight one-word instructions, one import and one call site. -/
def tCallee : Image := tImage 77 [0x08630005] [] []
def tRunning : Image := tImage 99 (List.replicate 8 0x08630005) [77] [(8, 8)]

/-- One gigabyte of dike 1 from 0x4000_0000, on cached, writable, pinned pages at the same physical addresses. -/
def tLeaf : Leaf := { out := 0x40000000, size := 30, cached := true, mig := false, host := false, pin := true, ptrap := false, wr := true }

/-- Bytes at addresses. -/
def tMem (l : List (Nat × List Byte)) (m : SMap Byte) : SMap Byte := l.foldl (fun m e => putBytes m e.1 e.2) m

/-- The page tables of the leaf: a root table at 0x10_0000 and one entry of the table at 0x20_0000; and the entry of `SOFTWARE` in a trap
table at offset 0x1000 of the TCM, which names the callee. -/
def tTables : SMap Byte :=
  tMem [(0x100000, leBytes 8 (0x200000 + 1)), (0x200008, leBytes 8 (0x40000000 + 2 + 2 ^ 57 + 2 ^ 58 + 2 ^ 59 + 2 ^ 62)),
        (tcmPa 0 0x11E0, leBytes 32 77)] []

/-- The record of dike 1: valid, with its root, no host pages, 16 units of stack SRAM, a pool of 4 task blocks and copy records. -/
def tDike : SMap Byte :=
  tMem [(256, leBytes 2 1 ++ [1, 0] ++ leBytes 4 0 ++ leBytes 8 0x100000 ++ leBytes 8 0 ++ leBytes 2 0 ++ leBytes 2 16)] []

/-- Scalar registers, full and without marks. -/
def tRegs (l : List (Nat × Nat)) : SMap (Cell 64) := l.foldl (fun m e => m.put (Cell.zero 64) e.1 (Cell.full (BitVec.ofNat 64 e.2))) []

/-- A thread that runs `tRunning` from offset 8, with values in `s1` to `s4`, a frame and a stack pointer in the TCM window. -/
def tThread : Thread :=
  { Thread.none with live := true, pc := 8, img := 0, digest := 99, tvec := 0xFFFFFF8001000,
                     s := tRegs [(1, 5), (2, 7), (3, 0xFFFFFFFFF8000100), (4, 0xFFFFFFFFFFFFFFFE), (5, 8),
                                 (30, 0xFFFFFFFFF8000200), (31, 0xFFFFFFFFF8000400)] }

/-- One stack in full service, one polder of dike 1 with two images, and the thread in slot 0 of its first core, which issues. -/
def tState : State :=
  { ((State.reset.setStack 0 { Stack.reset with service := 2, wiping := 0, drec := tDike }).setPolder 0
    { Polder.reset with dike := 1, code := [(0, tRunning), (1, tCallee)], tlb := [{ dike := 1, vpn := 1, leaf := tLeaf, kept := false }] }).setThread 0
    tThread with mem := tTables }

/-- The machine with other values in scalar registers, with another memory, and with another record of the thread, of its core, of its
polder and of its stack. -/
def tWith (l : List (Nat × Nat)) : State :=
  tState.modMe fun t => l.foldl (fun t e => t.setS e.1 (Cell.full (BitVec.ofNat 64 e.2))) t
def tBytes (l : List (Nat × List Byte)) (s : State) : State := { s with mem := tMem l s.mem }

/-- The state that an outcome goes on with. -/
def tNext : Host.Outcome State Fault Refusal → State
  | .next s => s
  | _ => State.reset

/-! ## How premises are met -/

theorem translates {s : State} {va : Nat} {wr : Bool} {tgt : Target} (h : (s.xlate s.cur va wr).1 = .ok tgt) :
    Claims.Translates s va wr tgt (s.xlate s.cur va wr).2 := by
  unfold Claims.Translates; rw [← h]

/-- A pair is its two parts. -/
theorem pair {α β : Type} {p : α × β} {a : α} (h : p.1 = a) : p = (a, p.2) := by rw [← h]

theorem pairOk {ε α β : Type} {p : Except ε α × β} {a : α} (h : p.1.toOption = some a) : p = (.ok a, p.2) := by
  obtain ⟨e, b⟩ := p
  cases e with
  | error e => cases h
  | ok x => cases h; rfl

/-- The pieces of some runs, and the state behind their translations. -/
def tRuns (s : State) (wr : Bool) : List (Nat × Nat × Nat) → Option (List Piece × State)
  | [] => some ([], s)
  | r :: rs =>
    match s.xlate s.cur r.2.1 wr with
    | (.ok tgt, s2) => (tRuns s2 wr rs).map fun q => ({ lo := r.1, len := r.2.2, tgt := tgt } :: q.1, q.2)
    | _ => none

theorem runs_of {wr : Bool} : ∀ (l : List (Nat × Nat × Nat)) (s : State) (q : List Piece × State), tRuns s wr l = some q →
    Claims.TranslatesRuns s wr l q.1 q.2
  | [], s, q, h => by cases h; exact ⟨rfl, rfl⟩
  | r :: rs, s, q, h => by
    unfold tRuns at h
    split at h
    · rename_i tgt s2 hx
      match hq : tRuns s2 wr rs with
      | none => rw [hq] at h; cases h
      | some q2 => rw [hq] at h; cases h; exact ⟨tgt, s2, q2.1, hx, rfl, runs_of rs s2 q2 hq⟩
    · cases h

theorem runs_some {s : State} {wr : Bool} {l : List (Nat × Nat × Nat)} (h : (tRuns s wr l).isSome = true) :
    Claims.TranslatesRuns s wr l ((tRuns s wr l).getD ([], s)).1 ((tRuns s wr l).getD ([], s)).2 := by
  match hq : tRuns s wr l with
  | none => rw [hq] at h; cases h
  | some q => exact runs_of l s q hq

/-- The object at an address as the slot reads it, and the state behind that. -/
def tGot (c : Bool) (s : State) (va pa n : Nat) : Got × State :=
  (s.xlate s.cur va false).2.readOwn [{ lo := 0, len := n, tgt := .dev pa c false }]

/-- A run of bytes is read at once: it translates, older loads have performed, nothing holds its memory, and no byte of it is bad. -/
def tReadable (c : Bool) (s : State) (va pa n : Nat) : Bool :=
  let s1 := (s.xlate s.cur va false).2
  let ps : List Piece := [{ lo := 0, len := n, tgt := .dev pa c false }]
  decide (0 < n ∧ va % 2048 + n ≤ 2048 ∧ (s.xlate s.cur va false).1 = .ok (.dev pa c false) ∧ s1.loadsDone = true ∧ s1.memoryHeld ps = false
    ∧ s1.roamStale s1.thr ps = [] ∧ (tGot c s va pa n).1.bad = [])

theorem reads_of (c : Bool) (pa : Nat) {s : State} {va n : Nat} (h : tReadable c s va pa n = true) :
    Claims.Reads s va n (tGot c s va pa n).1.data (tGot c s va pa n).2 := by
  obtain ⟨hn, hp, hx, hl, hm, hr, hb⟩ := of_decide_eq_true h
  exact State.withRead_dev hn hp (pair hx) hl hm hr hb

/-- The state at which a shared object of 64 bytes or fewer is open. -/
def tOpen (c : Bool) (s : State) (va pa n : Nat) : State :=
  (((s.xlate s.cur va true).2.dropFar (stkOf (s.xlate s.cur va true).2.cur) (devLine pa)).readDev (stkOfPa pa) none pa n c true 0
    (s.xlate s.cur va true).2.cur).2

/-- A shared object is open to an atomic at once. -/
def tOpenable (c : Bool) (s : State) (va pa n : Nat) : Bool :=
  let s1 := (s.xlate s.cur va true).2
  decide ((s.xlate s.cur va true).1 = .ok (.dev pa c false) ∧ s1.loadsDone = true ∧ s1.storesDone = true
    ∧ s1.memoryHeld [{ lo := 0, len := n, tgt := .dev pa c false }] = false ∧ (s1.farPinned (stkOf s1.cur) fun line _ => line == devLine pa) = false
    ∧ ¬(c = true ∧ s1.noRoom (proxyDev (stkOfPa pa) pa) (devLine pa) = true)
    ∧ ((s1.dropFar (stkOf s1.cur) (devLine pa)).readDev (stkOfPa pa) none pa n c true 0 s1.cur).1.bad = [])

theorem opens_of (c : Bool) (pa : Nat) {s : State} {va n : Nat} (h : tOpenable c s va pa n = true) : Claims.Opens s va n pa (tOpen c s va pa n) := by
  obtain ⟨hx, hl, hs, hm, hf, hr, hb⟩ := of_decide_eq_true h
  exact State.withObject_dev (pair hx) (fun k => by simp [State.afterAccesses, hl, hs]) hm hf hr hb

end Sys2Proof.Tests

open Sys2Proof Sys2Proof.Machine Sys2Proof.Claims Sys2Proof.Tests

/-! ## Words of the spec (expected from the examples of chapters 12 to 16 and 18; the bits are those of R222) -/

theorem test_decode_int : decodeWords 0x04834803 0 = .ok (.add 4 3 9 .d) := rfl
theorem test_decode_immediate : decodeWords 0x08630005 0 = .ok (.addi 3 3 5) := rfl
theorem test_decode_long : decodeWords 0xF8A00000 0x12345678 = .ok (.limm 5 0x12345678) := rfl
theorem test_decode_branch : decodeWords 0x41045FFD 0 = .ok (.br .ltu 2 5 0xFFD) := rfl
theorem test_decode_jump : decodeWords 0x44000008 0 = .ok (.jmp 8) := rfl
theorem test_decode_call : decodeWords 0x4C020001 0 = .ok (.call 2 1) := rfl
theorem test_decode_ret : decodeWords 0x4800000B 0 = .ok .ret := rfl
theorem test_decode_rpt : decodeWords 0x54122000 0 = .ok (.rpt 1 9 1) := rfl
theorem test_decode_trap : decodeWords 0x58000007 0 = .ok (.trap 7) := rfl
theorem test_decode_load : decodeWords 0x60645004 0 = .ok (.ldAcq 3 4 .w 4) := rfl
theorem test_decode_vld : decodeWords 0x68D00002 0 = .ok (.vld 3 8 0 2) := rfl
theorem test_decode_gather : decodeWords 0x70851000 0 = .ok (.gather 2 1 8 2 0) := rfl
theorem test_decode_amo : decodeWords 0x7468304B 0 = .ok (.amoCas 3 8 6 .d) := rfl
theorem test_decode_fence : decodeWords 0x78002003 0 = .ok (.fence .pod) := rfl
theorem test_decode_mkcont : decodeWords 0x7CE60003 0 = .ok (.mkcont 7 6 .scalar) := rfl
theorem test_decode_send : decodeWords 0x7C07280B 0 = .ok (.send 7 5) := rfl
theorem test_decode_vf32 : decodeWords 0x808D1483 0 = .ok (.vf32Fma 2 3 4 5 1) := rfl
theorem test_decode_vint : decodeWords 0x8D558024 0 = .ok (.vintOr 5 5 6 0 .i32) := rfl
theorem test_decode_rot : decodeWords 0x91981804 0 = .ok (.rot 6 6 6 0) := rfl
theorem test_decode_ext : decodeWords 0x91D00002 0 = .ok (.ext 7 4 0) := rfl
theorem test_decode_qnt : (decodeWords 0x98840081 0x01941320).map encode = .ok [0x98840081, 0x01941320] := rfl
theorem test_decode_vscl : decodeWords 0x9D080000 0 = .ok (.vscl 4 2 0) := rfl
theorem test_decode_pset : decodeWords 0xA0640007 0 = .ok (.pset 1 9) := rfl
theorem test_decode_view : decodeWords 0xA4040000 0 = .ok .vmodeLong := rfl
theorem test_decode_gang : decodeWords 0xA4080001 0 = .ok (.gang .x4) := rfl
theorem test_decode_gangrel : decodeWords 0xA4000002 0 = .ok .gangrel := rfl
theorem test_decode_vclr : decodeWords 0xA4C00003 0 = .ok (.vclr 3) := rfl
theorem test_decode_mcfg : decodeWords 0xC0080000 0 = .ok (.mcfg 8) := rfl
theorem test_decode_mmul : decodeWords 0xC4095002 0 = .ok (.mmul 2 9 10) := rfl
theorem test_decode_spawn : decodeWords 0xD0000000 0x00010002 = .ok (.spawn 1 2) := rfl
theorem test_decode_tnew : decodeWords 0xD0684840 0 = .ok (.tnew 3 8 9) := rfl
theorem test_decode_kput : decodeWords 0xD4084840 0x00001000 = .ok (.kput 8 9 4096) := rfl
theorem test_decode_barinit : decodeWords 0xD8084800 0 = .ok (.barinit 8 9) := rfl
theorem test_decode_cpystat : decodeWords 0xE0600040 0x3 = .ok (.cpystat 3 3) := rfl
theorem test_decode_wpost : decodeWords 0xE4084840 0 = .ok (.wpost 8 9) := rfl
theorem test_decode_waitany : decodeWords 0xE8680000 0 = .ok (.waitany 3 8) := rfl
theorem test_decode_getc : decodeWords 0xF0600018 0 = .ok (.getc 3 0x018) := rfl
theorem test_decode_sysc : decodeWords 0xF0E70041 0 = .ok (.sysc 7 7 1) := rfl
theorem test_decode_tlbi : decodeWords 0xF0000141 0 = .ok (.tlbi 0 0 true) := rfl
theorem test_decode_scrub : decodeWords 0xF0084960 0 = .ok (.scrub 8 9) := rfl

/-- Bytes lie lowest first, and the table's numbering begins with the first word (R219). -/
theorem test_decode_bytes : decodeBytes [0x03, 0x48, 0x83, 0x04] = .ok (.add 4 3 9 .d) := rfl
theorem test_decode_table_word : decodeTableWord 64 0x12345678F8A00000 = some (.limm 5 0x12345678) := rfl

/-- Words that R222 and R243 refuse: an unused major, bits that must be zero, a reserved size. -/
theorem test_decode_zero : (decodeWords 0 0).toOption = none := rfl
theorem test_decode_bad_size : (decodeWords 0x04834805 0).toOption = none := rfl
theorem test_decode_privileged : decodeFor false 0xF00000E0 0 = .error .privileged := rfl

/-! ## Operands that are refused, one for each check of WellFormed -/

theorem test_wf_source : (Instr.add 4 29 9 .d).wf = false := rfl
theorem test_wf_destination : (Instr.add 28 3 9 .d).wf = false := rfl
theorem test_wf_destination_no_channel : (Instr.div 29 3 9 .d).wf = false := rfl
theorem test_wf_register_range : (Instr.add 32 3 9 .d).wf = false := rfl
theorem test_wf_width : (Instr.add 4 3 9 .b).wf = false := rfl
theorem test_wf_narrow : (Instr.sext 4 3 .d).wf = false := rfl
theorem test_wf_store_size : (Instr.st 4 3 .ws 0).wf = false := rfl
theorem test_wf_full_load_size : (Instr.ldSync 4 3 .b 0).wf = false := rfl
theorem test_wf_shift : (Instr.shi 4 3 .sll 64).wf = false := rfl
theorem test_wf_branch_state : (Instr.br .full 4 3 0).wf = false := rfl
theorem test_wf_site : (Instr.call 1024 0).wf = false := rfl
theorem test_wf_block : (Instr.rpt 17 4 0).wf = false := rfl
theorem test_wf_vector : (Instr.vf32Add 16 1 2 0).wf = false := rfl
theorem test_wf_predicate : (Instr.vf32Add 1 1 2 8).wf = false := rfl
theorem test_wf_predicate_destination : (Instr.vf32Cmpeq 0 1 2 0).wf = false := rfl
theorem test_wf_scalar_destination : (Instr.ext 0 1 2).wf = false := rfl
theorem test_wf_pair : (Instr.amoCas 4 3 27 .d).wf = false := rfl
theorem test_wf_continuation : (Instr.mkcont 28 3 .scalar).wf = false := rfl
theorem test_wf_continuation_self : (Instr.mkcont 3 3 .scalar).wf = false := rfl
theorem test_wf_format : (Fmt.b8 8 false false).wf = false := rfl

/-! ## Single steps and operations -/

/-- 5 + (2^64 - 2) wraps to 3 (R284, add modulo 2^64). -/
theorem test_add_wraps : (tNext (exec (.add 3 1 4 .d) tState)).me.sreg 3 = Cell.full 3 := by decide +kernel

/-- 7 / -2 is -3 and the remainder 1: truncation toward zero (R285); a 32-bit result is sign-extended (R284). -/
theorem test_div_truncates : (tNext (exec (.div 3 2 4 .w) tState)).myCore.divq.map (·.val) = [0xFFFFFFFFFFFFFFFD] := by decide +kernel
theorem test_rem_sign : (tNext (exec (.rem 3 2 4 .d) tState)).myCore.divq.map (·.val) = [1] := by decide +kernel

/-- A shift by more than the width takes the amount modulo the width (R284). -/
theorem test_sll_modulo : (tNext (exec (.sll 3 1 31 .w) (tWith [(31, 33)]))).me.sreg 3 = Cell.full 10 := by decide +kernel

/-- A source that is also the destination is read first (R191). -/
theorem test_sub_self : (tNext (exec (.sub 1 2 1 .d) tState)).me.sreg 1 = Cell.full 2 := by decide +kernel

/-- A store and a load of 4 bytes meet in the buffer: the load sees the store's low word, sign-extended (R64, R308, R309). -/
theorem test_store_forwards :
    (tNext (exec (.ld 6 3 .ws 0) (tNext (exec (.st 4 3 .d 0) tState)))).me.sreg 6 = Cell.full 0xFFFFFFFFFFFFFFFE := by decide +kernel

/-- A misaligned load raises MISALIGN with the address (R307), and with no table entry for it the thread is killed (R420). -/
theorem test_misaligned : ((tNext (exec (.ld 6 1 .d 0) tState)).thread 0).live = false := by decide +kernel

/-- `trap 7` enters the handler of the table: cause 0x0F, `c.addr` 7, level 1 (R304, R420). -/
theorem test_trap : let t := (tNext (exec (.trap 7) tState)).me
    (t.bank1.cause, t.bank1.addr, t.bank1.epc, t.level, t.img, t.pc) = (0x0F, 7, 8, 1, 1, 0) := by decide +kernel

/-- The last byte of DRAM, and the first beyond it (R20). -/
theorem test_region : region (dramPa 0 0xBFFFFFFFF) = .dram ∧ region (dramPa 0 0xC00000000) = .reserved := by decide

/-- `s0` discards and keeps reading zero (R191). -/
theorem test_s0 : ((Thread.none.setS 0 (Cell.full 5)).sreg 0).val = 0 := rfl

/-- The table that `tTables` holds maps 0x4000_0000 (R21, R22). -/
theorem test_walk : (tState.walkNow 0 1 0x40001234).1 = .leaf tLeaf 0x200008 := by decide +kernel
theorem test_dike_valid : tState.myStack.dikeValid 1 = true := by decide +kernel

/-- A step from the state that `withFetchWord` places runs the word (R188). -/
theorem test_fetch_word : ((State.reset.withFetchWord 32 0x08630005).fetch 14).toOption.map (·.1) = some (.addi 3 3 5) := by
  decide +kernel

/-! ## Machines that meet the premises of the statements

Each theorem below applies a part of a statement at one machine: every premise is discharged there, so no premise is empty. -/

/-! ### Scalar and control instructions -/

theorem test_meets_RegisterFunctionResults (h : RegisterFunctionResults) :
    exec (.add 3 1 2 .d) tState = .next (result tState [1, 2] 3 4 12) :=
  h (.add 3 1 2 .d) _ tState rfl (by decide +kernel)

theorem test_meets_ImmediateResults (h : ImmediateResults) :
    exec (.limmh 3 7) tState = .next (result tState [3] 3 8 0x7F8000100) :=
  h (.limmh 3 7) _ tState rfl (by decide +kernel)

theorem test_meets_ScalarResultFrame (h : ScalarResultFrame) : OnlyThread tState (result tState [1, 2] 3 4 12) tState.thr :=
  (h tState [1, 2] 3 4 12 ⟨rfl, rfl, rfl⟩ (by decide) (by decide)).2.2.2.2.2.1

/-- Core 0 sends to core 1 and receives from core 2, with two entries waiting. -/
def tChan : State :=
  ((tState.modCore 0 fun c => { c with down := 1, up := 2, chan := [11, 12] }).modCore 1 fun c => { c with up := 0 }).modCore 2
    fun c => { c with down := 0 }

theorem test_meets_ChannelEnds (h : ChannelEnds) :
    (result tChan [1] 29 4 5).me.pc = 12 ∧ (result tChan [28, 28] 3 4 5).myCore.chan = [12] := by
  have h := h tChan 5 1 (by decide +kernel) (by decide +kernel)
  exact ⟨(h.1 [1] (by decide)).2.2.1, (h.2 3 [28, 28] (by decide) (by decide)).1⟩

/-- `s6` is owed to a load. -/
def tOwed : State := tState.modMe fun t => t.setSt (.s 6) (.owed .result)

theorem test_meets_OperandGate (h : OperandGate) :
    Ready tState [.s 1] [.s 6] ∧ ∃ d ∈ [Desig.s 1, .s 6], tOwed.gate [.s 1] [.s 6] = .park (.reg d.code) :=
  ⟨(h tState [.s 1] [.s 6] (by decide +kernel) (by decide) (by decide)).1.mpr (by decide +kernel),
   (h tOwed [.s 1] [.s 6] (by decide +kernel) (by decide) (by decide)).2 (by decide +kernel)⟩

theorem test_meets_DivisionsEnterTheDivider (h : DivisionsEnterTheDivider) : ∃ t, exec (.div 3 1 2 .d) tState = .next t :=
  (h tState 3 1 2 .d (by decide +kernel) (by decide +kernel) ⟨rfl, rfl, rfl⟩).1.imp fun _ h => h.1

def tDivq : State := tOwed.modCore 0 fun c => { c with divq := [{ slot := 0, dst := 6, val := 9 }] }

theorem test_meets_DividerCompletes (h : DividerCompletes) : ∃ t, exec (.dividerComplete 0) tDivq = .next t :=
  (h tDivq 0 { slot := 0, dst := 6, val := 9 } [] (by decide +kernel) ⟨rfl, rfl, rfl⟩).imp fun _ h => h.1

theorem test_meets_Transfers_compare (h : Transfers) :
    exec (.br .ltu 1 2 3) tState = .next (tState.goto 20) ∧ exec (.br .ge 1 2 3) tState = .next (tState.advance 4) :=
  ⟨(h.1 tState .ltu 1 2 3 (by decide) (by decide) (by decide +kernel) (by decide +kernel)).1
     (by show (tState.sval 1).toNat < (tState.sval 2).toNat; decide +kernel),
   (h.1 tState .ge 1 2 3 (by decide) (by decide) (by decide +kernel) (by decide +kernel)).2
     (by show ¬(tState.sval 2).toInt ≤ (tState.sval 1).toInt; decide +kernel)⟩

theorem test_meets_Transfers_state (h : Transfers) :
    exec (.br .full 1 0 3) tState = .next (tState.goto 20) ∧ exec (.br .empty 6 0 3) tOwed = .next (tOwed.goto 20) :=
  ⟨((h.2.1 tState 1 0 3 (by decide +kernel)).1 (by show (tState.me.sreg 1).st = .full; decide +kernel)).1,
   ((h.2.1 tOwed 6 0 3 (by decide +kernel)).2 (by show ¬(tOwed.me.sreg 6).st = .full; decide +kernel)).2⟩

theorem test_meets_Transfers_jump (h : Transfers) :
    exec (.jmp 3) tState = .next (tState.goto 20) ∧ exec (.jr 5) tState = .next (tState.goto 8) :=
  ⟨h.2.2.1 tState 3 (by decide +kernel), h.2.2.2 tState 5 (by decide +kernel) (by decide +kernel) (by decide +kernel)⟩

/-- 2,047 words on is past the image's end, the largest displacement of a branch. -/
theorem test_meets_BadTargetsTrap (h : BadTargetsTrap) :
    exec (.br .eq 1 2 0x7FF) tState = .next (tState.trap 0x01 8196) ∧ exec (.br .full 1 0 0x7FF) tState = .next (tState.trap 0x01 8196)
      ∧ exec (.jmp 0x7FF) tState = .next (tState.trap 0x01 8196) ∧ exec (.jr 1) tState = .next (tState.trap 0x03 5)
      ∧ exec (.jr 1) (tWith [(1, 64)]) = .next ((tWith [(1, 64)]).trap 0x01 64) :=
  ⟨h.1 tState .eq 1 2 0x7FF (by decide +kernel) (by decide +kernel), (h.2.1 tState 1 0 0x7FF (by decide +kernel)).1,
   h.2.2.1 tState 0x7FF (by decide +kernel), (h.2.2.2 tState 1 (by decide +kernel)).1 (by decide +kernel),
   (h.2.2.2 (tWith [(1, 64)]) 1 (by decide +kernel)).2 (by decide +kernel) (by decide +kernel)⟩

theorem test_meets_TranslationOnlyTouchesTlbs (h : TranslationOnlyTouchesTlbs) :
    (tState.xlate 0 0x40000040 false).2.out = tState.out :=
  (h tState _ 0 0x40000040 false _ rfl).2.2.1

/-- 64 bytes of the TCM at the frame pointer, as the slot reads them. -/
def tFrame (s : State) : Got × State := tGot false s 0xFFFFFFFFF8000200 (tcmPa 0 0x200) 64

theorem test_meets_ReadsKeepThreads (h : ReadsKeepThreads) : UnitsSame tState (tFrame tState).2 :=
  (h tState _ _ _ _ (reads_of false (tcmPa 0 0x200) (by decide +kernel))).1

theorem test_meets_CallsEnterTheirCallee_call (h : CallsEnterTheirCallee) : ∃ t, exec (.call 0 0) tState = .next t :=
  (h.1 tState _ 0 0 1 tRunning tCallee (.dev (tcmPa 0 0x3C0) false false) (by decide +kernel) (by decide) (by decide)
    (by decide +kernel) ⟨rfl, rfl, rfl⟩ (by decide +kernel) (by decide +kernel) (translates (by decide +kernel))
    (by decide +kernel)).imp fun _ h => h.1

/-- `s3` points at the callee's digest. -/
def tPtr : State := tBytes [(tcmPa 0 0x100, leBytes 32 77)] tState

/-- The digest that `s3` points at, as the slot reads it. -/
def tDigest (s : State) : Got × State := tGot false s 0xFFFFFFFFF8000100 (tcmPa 0 0x100) 32

theorem reads_digest : Reads tPtr (tPtr.sval 3).toNat 32 (tDigest tPtr).1.data (tDigest tPtr).2 := by
  have h3 : (tPtr.sval 3).toNat = 0xFFFFFFFFF8000100 := by decide +kernel
  rw [h3]
  exact reads_of false (tcmPa 0 0x100) (by decide +kernel)

theorem test_meets_CallsEnterTheirCallee_callm (h : CallsEnterTheirCallee) : ∃ t, exec (.callm 3 0) tPtr = .next t :=
  (h.2 tPtr _ _ 3 0 1 tRunning tCallee _ (.dev (tcmPa 0 0x3C0) false false) (by decide +kernel) (by decide)
    (by decide +kernel) ⟨rfl, rfl, rfl⟩ (by decide +kernel) (by decide +kernel) reads_digest (by decide +kernel)
    (by decide +kernel) (translates (by decide +kernel)) (by decide +kernel)).imp fun _ h => h.1

theorem test_meets_TailsEnterTheirCallee (h : TailsEnterTheirCallee) :
    (∃ t, exec (.tail 0 0) tState = .next t) ∧ ∃ t, exec (.tailm 3 0) tPtr = .next t :=
  ⟨(h.1 tState 0 0 1 tRunning tCallee (by decide +kernel) (by decide) (by decide) (by decide +kernel) ⟨rfl, rfl, rfl⟩
      (by decide +kernel) (by decide +kernel)).imp fun _ h => h.1,
   (h.2 tPtr _ 3 0 1 tRunning tCallee _ (by decide +kernel) (by decide) (by decide +kernel) ⟨rfl, rfl, rfl⟩ (by decide +kernel)
      (by decide +kernel) reads_digest (by decide +kernel) (by decide +kernel)).imp fun _ h => h.1⟩

/-- A frame record of the running image, site 0, at the frame pointer. -/
def tRet : State := tBytes [(tcmPa 0 0x200, leBytes 32 99 ++ leBytes 8 0 ++ leBytes 4 8)] tState

/-- A record of the same place whose ordinal the image has not, and one whose return offset begins no instruction. -/
def tRetSite : State := tBytes [(tcmPa 0 0x220, [3])] tRet
def tRetOff : State := tBytes [(tcmPa 0 0x228, leBytes 4 64)] tRet

theorem test_meets_ReturnsEnterTheCaller (h : ReturnsEnterTheCaller) :
    (∃ t, exec .ret tRet = .next t) ∧ ∃ t, exec .ret (tBytes [(tcmPa 0 0x23F, [1])] tState) = .next t := by
  refine ⟨((h tRet _ _ (by decide +kernel) ⟨rfl, rfl, rfl⟩ ?_ (reads_of false (tcmPa 0 0x200) ?_)).2 0 tRunning ?_ ?_ ?_ ?_ ?_).2.2 ?_ ?_ |>.imp fun _ h => h.1,
    ⟨_, (h (tBytes [(tcmPa 0 0x23F, [1])] tState) _ _ (by decide +kernel) ⟨rfl, rfl, rfl⟩ ?_ (reads_of false (tcmPa 0 0x200) ?_)).1 ?_⟩⟩ <;> decide +kernel

theorem test_meets_ReturnsEnterTheCaller_checked (h : ReturnsEnterTheCaller) :
    (∃ t, exec .ret tRetSite = .next t) ∧ ∃ t, exec .ret tRetOff = .next t := by
  refine ⟨⟨_, ((h tRetSite _ _ (by decide +kernel) ⟨rfl, rfl, rfl⟩ ?_ (reads_of false (tcmPa 0 0x200) ?_)).2 0 tRunning ?_ ?_ ?_ ?_ ?_).1 ?_⟩,
    ⟨_, ((h tRetOff _ _ (by decide +kernel) ⟨rfl, rfl, rfl⟩ ?_ (reads_of false (tcmPa 0 0x200) ?_)).2 0 tRunning ?_ ?_ ?_ ?_ ?_).2.1 ?_ ?_⟩⟩ <;> decide +kernel

/-- The trap that `trap 7` takes. -/
def tTrap : TrapInfo := { cause := 0x0F, addr := 7, epc := 8, origin := 8, efn := 0, late := false }

theorem test_meets_TrapsEnterTheirHandler (h : TrapsEnterTheirHandler) : (tState.takeTrap tTrap).me.pc = 0 :=
  (h tState _ _ tTrap (leBytes 32 77) 1 tCallee (.dev (tcmPa 0 0x3C0) false false) (by decide +kernel) ⟨rfl, rfl, rfl⟩ (by decide +kernel)
    (pair (by decide +kernel)) (by decide) (pair (by decide +kernel)) (by decide +kernel) (by decide +kernel) (by decide)).1

/-- The same from a handler that has acknowledged. -/
def tNested : State := tState.modMe fun t => { t with level := 1, ack := true }

theorem test_meets_TrapsEnterTheirHandler_nested (h : TrapsEnterTheirHandler) : (tNested.takeTrap tTrap).me.level = 2 :=
  (h tNested _ _ tTrap (leBytes 32 77) 1 tCallee (.dev (tcmPa 0 0x3C0) false false) (by decide +kernel) ⟨rfl, rfl, rfl⟩ (by decide +kernel)
    (pair (by decide +kernel)) (by decide) (pair (by decide +kernel)) (by decide +kernel) (by decide +kernel) (by decide)).2.1

def tNoTable : State := tState.modMe fun t => { t with tvec := 0 }

theorem test_meets_TrapsWithoutAHandlerKill (h : TrapsWithoutAHandlerKill) : (tNoTable.takeTrap tTrap).thread 0 = Thread.none :=
  h tNoTable _ tTrap [] (by decide +kernel) (by decide +kernel) (pair (by decide +kernel)) (by decide +kernel)

theorem test_meets_TrapInstructionEntersItsHandler (h : TrapInstructionEntersItsHandler) : ∃ t, exec (.trap 7) tState = .next t :=
  (h tState _ _ 7 (leBytes 32 77) 1 tCallee (.dev (tcmPa 0 0x3C0) false false) (by decide +kernel) ⟨rfl, rfl, rfl⟩ (by decide +kernel)
    (pair (by decide +kernel)) (by decide) (pair (by decide +kernel)) (by decide +kernel) (by decide +kernel) (by decide)).imp
    fun _ h => h.1

/-- A handler whose trap record lies at the frame pointer. -/
def tHandler : State :=
  (tBytes [(tcmPa 0 0x200, leBytes 32 99 ++ [0xFF, 0xFF])] tState).modMe fun t =>
    { t with level := 1, img := 1, digest := 77, pc := 0, runs := [(0xFFFFFFFFF8000200, 0)] }

theorem test_meets_HandlersReturn_eack (h : HandlersReturn) :
    exec .eack tState = .next (tState.trap 0x01 0xF0000080) ∧ exec .eret tState = .next (tState.trap 0x01 0xF0000060)
      ∧ exec .eack tNested = .next (tNested.trap 0x01 0xF0000080) ∧ ∃ t, exec .eack tHandler = .next t :=
  ⟨((h.1 tState).1 (by decide +kernel)).1, ((h.1 tState).1 (by decide +kernel)).2,
   (h.1 tNested).2.1 (by decide +kernel) (by decide +kernel),
   ((h.1 tHandler).2.2 (by decide +kernel) (by decide +kernel)).imp fun _ h => h.1⟩

theorem record_of {s : State} {va : Nat} (h : va % 2048 + 64 ≤ 2048 ∧ (s.xlate s.cur va false).1 = .ok (.dev (tcmPa 0 0x200) false false)
    ∧ (tGot false s va (tcmPa 0 0x200) 64).1.bad = []) (k : List Byte → State → State) :
    s.withTrapRecord va k = k (tGot false s va (tcmPa 0 0x200) 64).1.data (tGot false s va (tcmPa 0 0x200) 64).2 :=
  State.withTrapRecord_dev h.1 (pair h.2.1) h.2.2 k

theorem test_meets_HandlersReturn_eret (h : HandlersReturn) : ∃ t, exec .eret tHandler = .next t := by
  have h30 : (tHandler.me.sreg 30).val.toNat = 0xFFFFFFFFF8000200 := by decide +kernel
  refine (h.2 tHandler (tFrame tHandler).2 (tFrame tHandler).1.data 0xFFFFFFFFF8000200 0 tRunning [] (by decide +kernel)
    ?_ ⟨rfl, rfl, rfl⟩ ?_ (by rw [h30]; exact record_of (by decide +kernel)) ?_ ?_ ?_ ?_ ?_).imp fun _ h => h.1 <;> decide +kernel

/-! ### Loads and stores -/

/-- `s3` points into a page of DRAM, `s5` at a TCM word and `s6` at the last element that a page holds. -/
def tData : State := tWith [(3, 0x40000100), (5, 0xFFFFFFFFF8000100), (6, 0x7FFFFFF8)]

theorem test_meets_LoadsEnterTheQueue_plain (h : LoadsEnterTheQueue) : ∃ t, exec (.ld 7 3 .d 0) tData = .next t := by
  obtain ⟨t, _, h, _⟩ := h (.ld 7 3 .d 0) _ tData _ (.dev 0x40000100 true false) rfl (by decide +kernel) ⟨rfl, rfl, rfl⟩
    (by decide +kernel) (translates (by decide +kernel)) (by decide +kernel) (fun _ _ h => by cases h)
    (.inr (.inl ⟨_, .head _, fun pa c m h => by cases h; decide +kernel⟩))
  exact ⟨t, h⟩

/-- The last element before a page's end. -/
theorem test_meets_LoadsEnterTheQueue_edge (h : LoadsEnterTheQueue) : ∃ t, exec (.ldAcq 7 6 .d 0) tData = .next t := by
  obtain ⟨t, _, h, _⟩ := h (.ldAcq 7 6 .d 0) _ tData _ (.dev 0x7FFFFFF8 true false) rfl (by decide +kernel) ⟨rfl, rfl, rfl⟩
    (by decide +kernel) (translates (by decide +kernel)) (by decide +kernel) trivial
    (.inr (.inl ⟨_, .head _, fun pa c m h => by cases h; decide +kernel⟩))
  exact ⟨t, h⟩

theorem test_meets_LoadsEnterTheQueue_take (h : LoadsEnterTheQueue) :
    (∃ t, exec (.ldTake 7 5 .w 0) tData = .next t) ∧ ∃ t, exec (.ldSync 7 5 .w 0) tData = .next t := by
  obtain ⟨t, _, h1, _⟩ := h (.ldTake 7 5 .w 0) _ tData _ (.dev (tcmPa 0 0x100) false false) rfl (by decide +kernel) ⟨rfl, rfl, rfl⟩
    (by decide +kernel) (translates (by decide +kernel)) (by decide +kernel) ⟨_, _, _, rfl, .inl (by decide +kernel)⟩
    (.inl ⟨by decide, by decide⟩)
  obtain ⟨u, _, h2, _⟩ := h (.ldSync 7 5 .w 0) _ tData _ (.dev (tcmPa 0 0x100) false false) rfl (by decide +kernel) ⟨rfl, rfl, rfl⟩
    (by decide +kernel) (translates (by decide +kernel)) (by decide +kernel) ⟨_, _, _, rfl, .inl (by decide +kernel)⟩
    (.inl ⟨by decide, by decide⟩)
  exact ⟨⟨t, h1⟩, ⟨u, h2⟩⟩

theorem test_meets_LoadsEnterTheQueue_amo (h : LoadsEnterTheQueue) :
    (∃ t, exec (.amoCas 7 3 1 .w) tData = .next t) ∧ ∃ t, exec (.amoFadd 7 3 1) tData = .next t := by
  obtain ⟨t, _, h1, _⟩ := h (.amoCas 7 3 1 .w) _ tData _ (.dev 0x40000100 true false) rfl (by decide +kernel) ⟨rfl, rfl, rfl⟩
    (by decide +kernel) (translates (by decide +kernel)) (by decide +kernel)
    ⟨by decide +kernel, by decide +kernel, nofun⟩ (.inl ⟨nofun, nofun⟩)
  obtain ⟨u, _, h2, _⟩ := h (.amoFadd 7 3 1) _ tData _ (.dev 0x40000100 true false) rfl (by decide +kernel) ⟨rfl, rfl, rfl⟩
    (by decide +kernel) (translates (by decide +kernel)) (by decide +kernel)
    ⟨by decide +kernel, by decide +kernel, nofun⟩ (.inl ⟨nofun, nofun⟩)
  exact ⟨⟨t, h1⟩, ⟨u, h2⟩⟩

theorem test_meets_TcmLoadsComplete (h : TcmLoadsComplete) :
    (∃ t, exec (.ld 7 5 .ws 0) tData = .next t) ∧ ∃ t, exec (.ldAcq 7 5 .b 0) tData = .next t := by
  have run (i : Instr) (f : LoadForm) (hf : loadForm i = some f) (hk : f.kind tData = .plain ∨ f.kind tData = .acq)
      (hr : Ready tData (f.srcs.map Desig.s) [.s f.d]) (ha : f.ea tData % f.n = 0)
      (hx : (tData.xlate tData.cur (f.ea tData) f.wr).1 = .ok (.dev (tcmPa 0 0x100) false false))
      (hp : ∀ j < f.n, tData.poisoned (tcmPa 0 0x100 + j) = false)
      (ht : targetAllowed tData (f.kind tData) f.d (.dev (tcmPa 0 0x100) false false)) : ∃ t, exec i tData = .next t :=
    (h i f tData _ _ _ _ hf hk hr ⟨rfl, rfl, rfl⟩ ha (translates hx) (by decide +kernel) (by decide +kernel) (by decide +kernel)
      (by decide +kernel) (by decide +kernel) hp (by rfl) (by rfl) ht).imp fun _ h => h.1
  exact ⟨run _ _ rfl (.inl rfl) (by decide +kernel) (by decide +kernel) (by decide +kernel) (by decide +kernel) nofun,
    run _ _ rfl (.inr rfl) (by decide +kernel) (by decide +kernel) (by decide +kernel) (by decide +kernel) trivial⟩

theorem test_meets_MisalignedAccessesTrap (h : MisalignedAccessesTrap) :
    (∃ t, exec (.ld 7 1 .d 0) tData = .next t) ∧ (∃ t, exec (.st 2 1 .h 0) tData = .next t) ∧ (∃ t, exec (.zero 6) tData = .next t)
      ∧ ∃ t, exec (.amoAdd 7 1 2 .w) tData = .next t :=
  ⟨⟨_, h (.ld 7 1 .d 0) _ _ _ _ tData rfl (by decide +kernel) (by decide +kernel)⟩,
   ⟨_, h (.st 2 1 .h 0) _ _ _ _ tData rfl (by decide +kernel) (by decide +kernel)⟩,
   ⟨_, h (.zero 6) _ _ _ _ tData rfl (by decide +kernel) (by decide +kernel)⟩,
   ⟨_, h (.amoAdd 7 1 2 .w) _ _ _ _ tData rfl (by decide +kernel) (by decide +kernel)⟩⟩

theorem test_meets_StoresEnterTheBuffer (h : StoresEnterTheBuffer) :
    (∃ t, exec (.st 1 3 .d 0) tData = .next t) ∧ (∃ t, exec (.stRelfill 1 5 .w 0) tData = .next t)
      ∧ (∃ t, exec (.zero 3) tData = .next t) ∧ ∃ t, exec (.inval 3) tData = .next t := by
  obtain ⟨t, _, h1, _⟩ := h (.st 1 3 .d 0) _ tData _ (.dev 0x40000100 true false) rfl (by decide +kernel) (by decide +kernel)
    (translates (by decide +kernel)) (fun h => by rcases h with h | h <;> cases h) (by decide +kernel)
  obtain ⟨u, _, h2, _⟩ := h (.stRelfill 1 5 .w 0) _ tData _ (.dev (tcmPa 0 0x100) false false) rfl (by decide +kernel)
    (by decide +kernel) (translates (by decide +kernel)) (fun _ => ⟨_, _, _, rfl, .inl (by decide +kernel)⟩) (by decide +kernel)
  obtain ⟨v, _, h3, _⟩ := h (.zero 3) _ tData _ (.dev 0x40000100 true false) rfl (by decide +kernel) (by decide +kernel)
    (translates (by decide +kernel)) (fun h => by rcases h with h | h <;> cases h) (by decide +kernel)
  obtain ⟨w, _, h4, _⟩ := h (.inval 3) _ tData _ (.dev 0x40000100 true false) rfl (by decide +kernel) (by decide +kernel)
    (translates (by decide +kernel)) (fun h => by rcases h with h | h <;> cases h) (by decide +kernel)
  exact ⟨⟨t, h1⟩, ⟨u, h2⟩, ⟨v, h3⟩, ⟨w, h4⟩⟩

/-- `v1` is full, `v2` holds two indices, and `p1` is true in lanes 0 and 3 only. -/
def tLanes : State :=
  tData.modMe fun t => ((t.setV 1 (Cell.full 0x33333333222222221111111100000000)).setV 2 (Cell.full (5 + 9 * 2 ^ 96))).setP 1 (Cell.full 9)

theorem runs_one {s : State} {wr : Bool} {lo va n : Nat} {tgt : Target} (h : (s.xlate s.cur va wr).1 = .ok tgt) :
    TranslatesRuns s wr [(lo, va, n)] [{ lo := lo, len := n, tgt := tgt }] (s.xlate s.cur va wr).2 :=
  ⟨tgt, _, [], pair h, rfl, rfl, rfl⟩

theorem runs_two {s : State} {wr : Bool} {lo va n lo2 va2 n2 : Nat} {tgt tgt2 : Target} (h : (s.xlate s.cur va wr).1 = .ok tgt)
    (h2 : ((s.xlate s.cur va wr).2.xlate (s.xlate s.cur va wr).2.cur va2 wr).1 = .ok tgt2) :
    TranslatesRuns s wr [(lo, va, n), (lo2, va2, n2)] [{ lo := lo, len := n, tgt := tgt }, { lo := lo2, len := n2, tgt := tgt2 }]
      ((s.xlate s.cur va wr).2.xlate (s.xlate s.cur va wr).2.cur va2 wr).2 :=
  ⟨tgt, _, _, pair h, rfl, runs_one h2⟩

/-- The store of every lane is one run; that of two lanes is two. -/
theorem test_meets_VectorStoresEnterTheBuffer (h : VectorStoresEnterTheBuffer) :
    (∃ t, exec (.vst 1 3 0 0) tLanes = .next t) ∧ ∃ t, exec (.vst 1 3 1 0) tLanes = .next t := by
  refine ⟨?_, ?_⟩
  · obtain ⟨t, _, h1, _⟩ := h.1 tLanes _ 1 3 0 0 _ (by decide +kernel) (by decide +kernel) (by decide +kernel) (by decide +kernel)
      (runs_some (by decide +kernel))
    exact ⟨t, h1⟩
  · obtain ⟨t, _, h1, _⟩ := h.1 tLanes _ 1 3 1 0 _ (by decide +kernel) (by decide +kernel) (by decide +kernel) (by decide +kernel)
      (runs_some (by decide +kernel))
    exact ⟨t, h1⟩

theorem test_meets_VectorStoresEnterTheBuffer_scatter (h : VectorStoresEnterTheBuffer) : ∃ t, exec (.scatter 1 2 3 2 1) tLanes = .next t := by
  obtain ⟨t, _, h1, _⟩ := h.2 tLanes _ 1 2 3 2 1 _ (by decide +kernel) (by decide +kernel) nofun (by decide +kernel) (by decide +kernel)
    (runs_some (by decide +kernel))
  exact ⟨t, h1⟩

theorem slow_dram {s : State} {lo n pa : Nat} {c m : Bool} {rest : List Piece} (h : region pa ≠ .tcm) :
    slowLoad s .plain ({ lo := lo, len := n, tgt := .dev pa c m } :: rest) :=
  .inr (.inl ⟨_, .head _, fun pa c m h' => by cases h'; exact h⟩)

theorem test_meets_VectorLoadsEnterTheQueue (h : VectorLoadsEnterTheQueue) :
    ((∃ t, exec (.vld 2 3 0 0) tLanes = .next t) ∧ (∃ t, exec (.vldBc32 2 3 0 0) tLanes = .next t))
      ∧ (∃ t, exec (.vldBc16 2 3 0 0) tLanes = .next t) ∧ ∃ t, exec (.vldBc8 2 3 0 0) tLanes = .next t := by
  have run (s1 : State) (ps : List Piece) :=
    (h tLanes s1 2 0 3 0 0 0 ps (by decide +kernel) (by decide +kernel)).1 (by decide +kernel)
  exact ⟨⟨((run _ _).1 (by decide +kernel) (runs_some (by decide +kernel))).imp fun _ h => h.1,
      ((run _ _).2.1 (by decide +kernel) (runs_some (by decide +kernel))).imp fun _ h => h.1⟩,
    ((run _ _).2.2.1 (by decide +kernel) (runs_some (by decide +kernel))).imp fun _ h => h.1,
    ((run _ _).2.2.2 (runs_some (by decide +kernel))).imp fun _ h => h.1⟩

/-- A gather into a register that is also its index. -/
theorem test_meets_VectorLoadsEnterTheQueue_gather (h : VectorLoadsEnterTheQueue) : ∃ t, exec (.gather 2 2 3 2 1) tLanes = .next t :=
  ((h tLanes _ 2 2 3 2 1 0 _ (by decide +kernel) (by decide +kernel)).2 (by decide +kernel) (by decide +kernel)
    (runs_some (by decide +kernel))).imp fun _ h => h.1

/-! ### What becomes of loads and stores -/

/-- A store of slot 0, a load of it, and a piece of device memory. -/
def tStore (kind : StoreKind) (ps : List Piece) (data : List Byte) (phase : StorePhase) : StoreEnt :=
  { slot := 0, seq := 1, kind := kind, pieces := ps, data := data, phase := phase, released := false, va := 0x40000100, pc := 8,
    img := 0, epoch := false, hepoch := false }

def tLoad (kind : LoadKind) (dest : LoadDest) (ps : List Piece) (phase : LoadPhase) (data : List Byte) : LoadEnt :=
  { seq := 1, kind := kind, dest := dest, pieces := ps, phase := phase, data := data, mark := none,
    vas := ps.map fun p => (p.lo, 0x40000100 + p.lo, p.len), pc := 8, img := 0, epoch := false, hepoch := false, held := false, level := 0, got := [] }

def tPiece (pa n : Nat) : Piece := { lo := 0, len := n, tgt := .dev pa false false }

/-- The machine with stores in the buffer of core 0, and with loads in the queue of slot 0. -/
def tStores (l : List StoreEnt) : State := tOwed.modCore 0 fun c => { c with sb := l }
def tLoads (l : List LoadEnt) : State := tOwed.modThread 0 fun t => { t with loadq := l }

theorem test_meets_StoresLeaveInOrder_send (h : StoresLeaveInOrder) :
    (∃ t, exec (.storeBufferSend 0) (tStores [tStore .plain [tPiece 0x40000100 4] [1, 2, 3, 4] .waiting]) = .next t)
      ∧ ∃ t, exec (.storeBufferSend 0) (tStores [tStore (.send (6 * 2 ^ 32) 9) [] [] .waiting]) = .next t := by
  obtain ⟨t, h1, _⟩ := h.1 (tStores [tStore .plain [tPiece 0x40000100 4] [1, 2, 3, 4] .waiting]) 0 [] _ (by rfl) (.inl rfl)
    (by decide +kernel) (.inl (by decide +kernel)) (fun c val he => by cases he)
  obtain ⟨u, h2, _⟩ := h.1 (tStores [tStore (.send (6 * 2 ^ 32) 9) [] [] .waiting]) 0 [] _ (by rfl) (.inl rfl)
    (by decide +kernel) (.inl (by decide +kernel)) (fun c val he => by cases he; decide +kernel)
  exact ⟨⟨t, h1⟩, ⟨u, h2⟩⟩

/-- A store behind a sent one goes when both are of one serving memory. -/
theorem test_meets_StoresLeaveInOrder_passing (h : StoresLeaveInOrder) :
    ∃ t, exec (.storeBufferSend 0) (tStores [{ tStore .plain [tPiece 0x40000100 4] [1, 2, 3, 4] .sent with seq := 0 },
      tStore .plain [tPiece 0x40000104 4] [1, 2, 3, 4] .waiting]) = .next t := by
  obtain ⟨t, h1, _⟩ := h.1 (tStores [{ tStore .plain [tPiece 0x40000100 4] [1, 2, 3, 4] .sent with seq := 0 },
      tStore .plain [tPiece 0x40000104 4] [1, 2, 3, 4] .waiting]) 0 [_] _ (by rfl) (.inr ⟨by decide +kernel, by decide +kernel⟩)
      (by decide +kernel) (.inl (by decide +kernel)) (fun c val he => by cases he)
  exact ⟨t, h1⟩

theorem test_meets_StoresLeaveInOrder_ack (h : StoresLeaveInOrder) :
    ∃ t, exec (.storeAck 0) (tStores [tStore .plain [tPiece 0x40000100 4] [1, 2, 3, 4] .performed]) = .next t :=
  (h.2 (tStores [tStore .plain [tPiece 0x40000100 4] [1, 2, 3, 4] .performed]) 0 _ [] (by rfl) rfl).imp fun _ h => h.1

theorem clean_of {s : State} {pa n : Nat} (h : ∀ j < n, s.poisoned (pa + j) = false) : clean s pa n := h
theorem quiet_of {s : State} {stk : Nat}
    (h : (s.stack stk).injctl.getLsbD 63 = false ∧ (s.stack stk).upsets = [] ∧ (s.stack stk).wiping = 0) : quiet s stk := h
theorem room_of {s : State} {pa : Nat} (h : (s.waysOf (proxyDev (stkOfPa pa) pa) (devLine pa)).length < 16) : hasRoom s pa := .inr h
theorem agrees_of {s : State} {pa n : Nat} (h : s.homeLine? pa = none) : fillAgrees s pa n := fun l hl => by rw [h] at hl; cases hl

/-- The last four bytes of a line of DRAM, and a word of the TCM. -/
theorem test_meets_StoresPerform (h : StoresPerform) :
    (∃ t, Served (tStores [tStore .plain [tPiece 0x4000013C 4] [1, 2, 3, 4] .sent]) 0 0x4000013C true t)
      ∧ ∃ t, Served (tStores [tStore .plain [tPiece (tcmPa 0 0x100) 4] [1, 2, 3, 4] .sent]) 0 (tcmPa 0 0x100) true t := by
  obtain ⟨t, h1, _⟩ := h (tStores [tStore .plain [tPiece 0x4000013C 4] [1, 2, 3, 4] .sent]) 0 0x4000013C 4 false false
    (tStore .plain [tPiece 0x4000013C 4] [1, 2, 3, 4] .sent) (by unfold openStore; decide +kernel) rfl (.inl rfl) rfl rfl (by decide)
    (by decide) ⟨by decide, .inr (.inr (.inr ⟨by decide, by decide +kernel, room_of (by decide +kernel), agrees_of (by decide +kernel),
      by decide +kernel, by decide +kernel⟩))⟩ (quiet_of (by decide +kernel)) (by decide +kernel) (by decide +kernel)
  obtain ⟨u, h2, _⟩ := h (tStores [tStore .plain [tPiece (tcmPa 0 0x100) 4] [1, 2, 3, 4] .sent]) 0 (tcmPa 0 0x100) 4 false false
    (tStore .plain [tPiece (tcmPa 0 0x100) 4] [1, 2, 3, 4] .sent) (by unfold openStore; decide +kernel) rfl (.inl rfl) rfl rfl
    (by decide) (by decide) ⟨by decide, .inl (by decide)⟩ (quiet_of (by decide +kernel)) (by decide +kernel) (by decide +kernel)
  exact ⟨⟨t, h1⟩, ⟨u, h2⟩⟩

theorem test_meets_FillStoresFillWords (h : FillStoresFillWords) :
    ∃ t, exec (.bankAccess 0 true) (tStores [tStore .fill [tPiece (tcmPa 0 0x100) 4] [1, 2, 3, 4] .sent]) = .next t :=
  (h (tStores [tStore .fill [tPiece (tcmPa 0 0x100) 4] [1, 2, 3, 4] .sent]) 0 (tcmPa 0 0x100) 4 false false
    (tStore .fill [tPiece (tcmPa 0 0x100) 4] [1, 2, 3, 4] .sent) (by unfold openStore; decide +kernel) rfl rfl rfl rfl (.inl rfl)
    (by decide) (.inl (by decide)) (by decide) (quiet_of (by decide +kernel)) (by decide +kernel) (by decide +kernel) (by decide +kernel)
    (by decide +kernel)).imp fun _ h => h.1

/-- One queued load of 4 bytes. -/
def tQueued (kind : LoadKind) (pa : Nat) : LoadEnt := tLoad kind (.scalar 6 .ws) [tPiece pa 4] .queued []

theorem goes_of {s : State} {ep : Nat} {e : LoadEnt} (h : (s.thread (thrOf ep)).nextLoad = some e
    ∧ mayPass (stkOf ep) ((s.thread (thrOf ep)).unperformed e) e = true) : goesNow s ep e := h

theorem no_far_of {s : State} {stk pa : Nat} (h : s.line? (proxyOf stk (devLine pa)) (devLine pa) = none) : noFarLine s stk pa :=
  fun l hl => by rw [h] at hl; cases hl

theorem dram_of {s : State} {ep pa n : Nat}
    (h : region pa = .dram ∧ (s.slice (proxyDev (stkOf ep) pa)).chan.failed = false ∧ (s.slice (proxyDev (stkOf ep) pa)).chan.holding = false
      ∧ (s.waysOf (proxyDev (stkOfPa pa) pa) (devLine pa)).length < 16 ∧ s.replica? (some (sliceOf ep)) pa n = none
      ∧ s.line? (proxyDev (stkOf ep) pa) (devLine pa) = none) :
    region pa = .dram ∧ (s.slice (proxyDev (stkOf ep) pa)).chan.failed = false ∧ (s.slice (proxyDev (stkOf ep) pa)).chan.holding = false
      ∧ hasRoom s pa ∧ (∀ l, s.replica? (some (sliceOf ep)) pa n = some l → l.poison = 0)
      ∧ ∀ l, s.line? (proxyDev (stkOf ep) pa) (devLine pa) = some l → l.wv = 0xFFFF :=
  ⟨h.1, h.2.1, h.2.2.1, room_of h.2.2.2.1, (fun l hl => by rw [h.2.2.2.2.1] at hl; cases hl), (fun l hl => by rw [h.2.2.2.2.2] at hl; cases hl)⟩

theorem test_meets_LoadsAreServed (h : LoadsAreServed) :
    (∃ t, Served (tLoads [tQueued .plain 0x4000013C]) 0 0x4000013C false t)
      ∧ (∃ t, Served (tLoads [tQueued .take (tcmPa 0 0x100)]) 0 (tcmPa 0 0x100) false t)
      ∧ ∃ t, Served (tLoads [tQueued (.amo .cas false 3 4) 0x4000013C]) 0 0x4000013C false t := by
  have run (kind : LoadKind) (pa : Nat) (hg : goesNow (tLoads [tQueued kind pa]) 0 (tQueued kind pa)) (hp : pa % 64 + 4 ≤ 64)
      (hc : clean (tLoads [tQueued kind pa]) pa 4) (hs : stkOfPa pa = 0)
      (hf : (tLoads [tQueued kind pa]).line? (proxyOf 0 (devLine pa)) (devLine pa) = none)
      (hx : ((tLoads [tQueued kind pa]).farPinned 0 fun line _ => line == devLine pa) = false) (hq : quiet (tLoads [tQueued kind pa]) 0) :=
    h (tLoads [tQueued kind pa]) 0 pa 4 false false (tQueued kind pa) hg rfl rfl (by decide) hp (by rfl) hc
      (by rw [hs]; exact hq) (by rfl) rfl (no_far_of hf) hs (fun _ _ => rfl) hx
  obtain ⟨t, h1, _⟩ := (run .plain 0x4000013C (goes_of (by decide +kernel)) (by decide) (clean_of (by decide +kernel)) (by decide)
    (by decide +kernel) (by decide +kernel) (quiet_of (by decide +kernel)) (.inr (dram_of (by decide +kernel)))).1 rfl
  obtain ⟨u, h2, _⟩ := (run .take (tcmPa 0 0x100) (goes_of (by decide +kernel)) (by decide) (clean_of (by decide +kernel)) (by decide)
    (by decide +kernel) (by decide +kernel) (quiet_of (by decide +kernel)) (.inl (.inl (by decide)))).2.1 (.inr rfl) (.inl (by decide)) (fun _ _ => by rfl)
    (by decide +kernel)
  obtain ⟨v, h3, _⟩ := (run (.amo .cas false 3 4) 0x4000013C (goes_of (by decide +kernel)) (by decide) (clean_of (by decide +kernel))
    (by decide) (by decide +kernel) (by decide +kernel) (quiet_of (by decide +kernel))
    (.inr (dram_of (by decide +kernel)))).2.2 .cas false 3 4 rfl rfl nofun
    (by decide) (by decide) (by decide +kernel)
  exact ⟨⟨t, h1⟩, ⟨u, h2⟩, ⟨v, h3⟩⟩

def tFills : State := tOwed.modThread 0 fun t => { t with fills := [{ dst := .s 6, val := .s 9, mark := none }] }

/-- A load of 4 bytes whose memory has answered. -/
def tBound : LoadEnt := tLoad .plain (.scalar 6 .ws) [tPiece 0x40000100 4] .bound [1, 2, 3, 0x84]

theorem banks_of {t : Thread} (h : SMap.wf t.s = true ∧ SMap.wf t.v = true ∧ SMap.wf t.p = true) : BanksOk t := h

theorem test_meets_LongLatencyResultsArrive (h : LongLatencyResultsArrive) :
    (∃ t, exec (.longLatencyFill 0 0) (tLoads [tBound]) = .next t) ∧ ∃ t, exec (.longLatencyFill 0 0) tFills = .next t :=
  ⟨(h.1 (tLoads [tBound]) 0 6 .ws tBound (by decide +kernel) rfl (by decide) rfl rfl (banks_of (by decide +kernel))).imp fun _ h => h.1,
   (h.2 tFills 0 _ [] (by decide +kernel) rfl (banks_of (by decide +kernel))).imp fun _ h => h.1⟩

/-- The third byte of the word is in a poisoned granule; `s6` holds a mark. -/
def tPoison : State := (tLoads [tQueued .plain (tcmPa 0 0x100)]).setPoison (tcmPa 0 0x102)

def tMark : Mark := { cause := 0x07, addr := 0x40000102, origin := 8, efn := 0 }
def tMarked : State := tState.modMe fun t => t.setS 6 { st := .full, val := 1, mark := some tMark }

theorem test_meets_PoisonIsRaisedWhereItIsRead (h : PoisonIsRaisedWhereItIsRead) :
    (∃ t, exec (.bankAccess 0 false) tPoison = .next t) ∧ ∃ t, exec (.add 3 6 1 .d) tMarked = .next t := by
  obtain ⟨t, _, h1, _⟩ := h.1 tPoison 0 (tcmPa 0 0x100) 4 0x40000100 false false (tQueued .plain (tcmPa 0 0x100))
    (goes_of (by decide +kernel)) rfl rfl rfl rfl (by decide) (by decide) (by decide) (.inl (by decide)) (by decide) (by decide) (by rfl)
    (by rfl) (quiet_of (by decide +kernel)) ⟨2, by decide, by decide +kernel⟩
  exact ⟨⟨t, h1⟩, ⟨_, h.2 tMarked 3 6 1 .d tMark (by decide +kernel) (by decide +kernel) (by decide +kernel) (by decide +kernel)
    (by decide +kernel)⟩⟩

/-! ### Lines, releases and acquires -/

/-- A line with the words of 4 bytes at offset 0 valid. -/
def tLine (kind : LineKind) : Line := { Line.blank kind with wv := 1 }

/-- The home line of 0x4000_0100 with a replica in slice 5, and a store that waits for it. -/
def tReplica (phase : StorePhase) : State :=
  (tStores [tStore .plain [{ lo := 0, len := 4, tgt := .dev 0x40000100 true false }] [1, 2, 3, 4] phase]).modSlice
    (proxyDev 0 0x40000100) fun x => { x with lines := [(devLine 0x40000100, { tLine .home with dir := 32 })] }

theorem test_meets_ReplicasGoBeforeAStore (h : ReplicasGoBeforeAStore) :
    (∃ t, exec (.sliceRequest 0 .store) (tReplica .sent) = .next t)
      ∧ ∃ t, exec (.replicaInvalidationDone 0) (tReplica .invalidating) = .next t :=
  ⟨(h.1 (tReplica .sent) 0 0x40000100 4 false
      (tStore .plain [{ lo := 0, len := 4, tgt := .dev 0x40000100 true false }] [1, 2, 3, 4] .sent) { tLine .home with dir := 32 }
      (by unfold openStore; decide +kernel) rfl rfl rfl (by decide) (by decide) (by decide) (by decide)
      (quiet_of (by decide +kernel)) (by decide +kernel) (by decide +kernel) (by decide) (by decide)).imp fun _ h => h.1,
   (h.2 (tReplica .invalidating) 0 0x40000100 4 true false
      (tStore .plain [{ lo := 0, len := 4, tgt := .dev 0x40000100 true false }] [1, 2, 3, 4] .invalidating) (by decide +kernel) rfl rfl
      rfl (by decide) (by decide) (by decide) (by decide) (by decide +kernel) (.inl (by decide +kernel)) (by decide +kernel)).imp fun _ h => h.1⟩

/-- A load that waits for a merging fill of a home line. -/
def tMerging : State :=
  (tLoads [tLoad .plain (.scalar 6 .ws) [{ lo := 0, len := 4, tgt := .dev 0x40000104 true false }] .merging []]).modSlice
    (proxyDev 0 0x40000104) fun x => { x with lines := [(devLine 0x40000104, tLine .home)] }

theorem test_meets_LoadsAreSentAgain (h : LoadsAreSentAgain) :
    (∃ t, exec (.mergingFill 0) tMerging = .next t)
      ∧ ∃ t, exec (.waitTableResend 0) (tLoads [tLoad .sync (.scalar 6 .ws) [tPiece (tcmPa 0 0x100) 4] .refused []]) = .next t :=
  ⟨(h.1 tMerging 0 0x40000104 4 false
      (tLoad .plain (.scalar 6 .ws) [{ lo := 0, len := 4, tgt := .dev 0x40000104 true false }] .merging []) (tLine .home)
      (by unfold nextOf; decide +kernel) rfl rfl (by decide) (by decide) (by decide) (by decide) (by decide +kernel) rfl
      (quiet_of (by decide +kernel)) (by decide +kernel) (by decide +kernel)).imp
      fun _ h => h.1,
   (h.2 (tLoads [tLoad .sync (.scalar 6 .ws) [tPiece (tcmPa 0 0x100) 4] .refused []]) 0
      (tLoad .sync (.scalar 6 .ws) [tPiece (tcmPa 0 0x100) 4] .refused []) (by unfold nextOf; decide +kernel) rfl).imp fun _ h => h.1⟩

theorem noFar_tState : noFar (tStores [tStore .rel [tPiece 0x40000100 4] [1, 2, 3, 4] .waiting]) 0 := by
  intro n _ e he; cases he

theorem test_meets_ReleasesWaitForWritebacks (h : ReleasesWaitForWritebacks) :
    ∃ t, exec (.releaseWritebackDone 0) (tStores [tStore .rel [tPiece 0x40000100 4] [1, 2, 3, 4] .waiting]) = .next t :=
  (h (tStores [tStore .rel [tPiece 0x40000100 4] [1, 2, 3, 4] .waiting]) 0
    (tStore .rel [tPiece 0x40000100 4] [1, 2, 3, 4] .waiting) [] (by rfl) rfl (by decide +kernel) (by decide +kernel) (by decide +kernel)
    noFar_tState).imp fun _ h => h.1

/-- The line of the first byte of stack 1 as a far line of stack 0, clean, at a pod time. -/
def tFar (time pins : Nat) : State :=
  { tState.modSlice (proxyDev 0 (2 ^ 44)) fun x => { x with lines := [(devLine (2 ^ 44), { tLine .far with pins := pins })] } with
    time := time }

/-- 31,250 stamp units are 8 ms: the line goes; one unit less and it stays; a pinned one stays. -/
theorem test_meets_OldFarLinesAreDropped (h : OldFarLinesAreDropped) :
    (∃ t, exec (.farLineSweep (proxyDev 0 (2 ^ 44))) (tFar (31250 * 1024) 0) = .next t
        ∧ (t.slice (proxyDev 0 (2 ^ 44))).lines = [])
      ∧ (∃ t, exec (.farLineSweep (proxyDev 0 (2 ^ 44))) (tFar (31249 * 1024) 0) = .next t
        ∧ (t.slice (proxyDev 0 (2 ^ 44))).lines ≠ [])
      ∧ ∃ t, exec (.farLineSweep (proxyDev 0 (2 ^ 44))) (tFar (31250 * 1024) 1) = .next t
        ∧ (t.slice (proxyDev 0 (2 ^ 44))).lines ≠ [] := by
  have run (time pins : Nat) (ho : onlyFar (tFar time pins) (proxyDev 0 (2 ^ 44)) (devLine (2 ^ 44)) { tLine .far with pins := pins }) :=
    h (tFar time pins) (proxyDev 0 (2 ^ 44)) (devLine (2 ^ 44)) { tLine .far with pins := pins } ho (by decide +kernel) (by decide +kernel) (by decide +kernel) rfl
  obtain ⟨t, h1, _, h2, _⟩ := run (31250 * 1024) 0 ⟨by decide +kernel, rfl⟩
  obtain ⟨u, h3, _, _, h4⟩ := run (31249 * 1024) 0 ⟨by decide +kernel, rfl⟩
  obtain ⟨v, h5, _, _, h6⟩ := run (31250 * 1024) 1 ⟨by decide +kernel, rfl⟩
  refine ⟨⟨t, h1, h2 (by decide +kernel) rfl⟩, ⟨u, h3, ?_⟩, ⟨v, h5, ?_⟩⟩
  · rw [h4 (.inl (by decide +kernel))]; nofun
  · rw [h6 (.inr (by decide))]; nofun

/-- 256 microseconds are 1,024,000 ticks. -/
def tAcc (time : Nat) (old : Option (BitVec 1024)) : State :=
  { tState.modStack 0 fun k => { k with acc := { k.acc with old := old } } with time := time }

theorem test_meets_AccumulatorRenews (h : AccumulatorRenews) :
    (∃ t, exec (.accumulatorRenewal 0) (tAcc 1024000 none) = .next t) ∧ (∃ t, exec (.accumulatorRenewalDone 0) (tAcc 0 (some 1)) = .next t)
      ∧ exec (.accumulatorRenewal 0) (tAcc 1023999 none) = .next (tAcc 1023999 none)
      ∧ exec (.accumulatorRenewalDone 0) (tAcc 0 none) = .next (tAcc 0 none) :=
  ⟨((h (tAcc 1024000 none) 0).1 rfl (.inl (by decide +kernel))).imp fun _ h => h.1,
   ((h (tAcc 0 (some 1)) 0).2.1 1 rfl).imp fun _ h => h.1,
   (h (tAcc 1023999 none) 0).2.2.1 (.inr ⟨by decide +kernel, by decide +kernel⟩), (h (tAcc 0 none) 0).2.2.2 rfl⟩

/-- An acquire whose signature is full and whose time is the far line's, waiting for the line's slice; and one that every slice answered. -/
def tAcq (left : List Nat) : State :=
  { (tLoads [tLoad .acq (.scalar 6 .ws) [tPiece 0x40000100 4] .acquiring [1, 2, 3, 4]]).modStack 0 fun k =>
      { k with acqs := [{ thr := 0, seq := 1, sig := some (BitVec.allOnes 1024, 0), left := left }] } with
    slices := (tFar 0 0).slices }

theorem test_meets_AcquiresComplete (h : AcquiresComplete) :
    (∃ t, exec (.acquireSliceInvalidate 0 0 (proxyDev 0 (2 ^ 44))) (tAcq [proxyDev 0 (2 ^ 44)]) = .next t)
      ∧ ∃ t, exec (.acquireComplete 0 0) (tAcq []) = .next t :=
  ⟨(h.1 (tAcq [proxyDev 0 (2 ^ 44)]) 0 0 (proxyDev 0 (2 ^ 44)) (devLine (2 ^ 44)) _ { tLine .far with pins := 0 } (by rfl) (by decide)
      (by decide) ⟨by decide +kernel, rfl⟩ (by decide +kernel) (by decide +kernel) (by decide +kernel) rfl rfl).imp fun _ h => h.1,
   (h.2 (tAcq []) 0 0 _ (tLoad .acq (.scalar 6 .ws) [tPiece 0x40000100 4] .acquiring [1, 2, 3, 4]) (by rfl) rfl (by decide +kernel)
      rfl).imp fun _ h => h.1⟩

/-- A fill for `s6`, owed to a continuation at a trap level, on its way to the polder. -/
def tFill : Fill :=
  { ep := 0, dst := .s 6, due := .cont, val := 9, val2 := 0, mark := none, time := 0, cross := false }
def tArriving (due : Due) (level : Nat) : State :=
  (tState.modMe fun t => { t.setSt (.s 6) (.owed due) with level := level }).modPolder 0 fun p => { p with inflight := [tFill] }

theorem test_meets_FillsArrive (h : FillsArrive) :
    (∃ t, exec (.sendFillArrival 0) (tArriving .cont 0) = .next t ∧ (t.thread 0).sreg 6 = { st := .full, val := 9, mark := none })
      ∧ (∃ t, exec (.sendFillArrival 0) (tArriving .cont 1) = .next t ∧ (t.polder 0).arriving ≠ [])
      ∧ ∃ t, exec (.sendFillArrival 0) (tArriving .result 0) = .next t ∧ (t.polder 0).arriving ≠ [] := by
  have run (due : Due) (level : Nat) (hi : ((tArriving due level).polder 0).inflight = [tFill])
      (hb : BanksOk ((tArriving due level).thread 0)) := h (tArriving due level) 0 6 tFill [] hi rfl rfl rfl (by decide) (by decide) hb
  obtain ⟨t, h1, _, _, _, h2, _⟩ := run .cont 0 (by decide +kernel) (banks_of (by decide +kernel))
  obtain ⟨u, h3, _, _, _, _, h4⟩ := run .cont 1 (by decide +kernel) (banks_of (by decide +kernel))
  obtain ⟨v, h5, _, _, _, _, h6⟩ := run .result 0 (by decide +kernel) (banks_of (by decide +kernel))
  refine ⟨⟨t, h1, (h2 (by decide +kernel) (by decide +kernel) (by decide +kernel) (by decide +kernel)).1⟩, ⟨u, h3, ?_⟩, ⟨v, h5, ?_⟩⟩
  · obtain ⟨_, x, hx, _⟩ := h4 (.inr (.inr (.inr (by decide +kernel))))
    rw [hx]; simp
  · obtain ⟨_, x, hx, _⟩ := h6 (.inr (.inr (.inl (by decide +kernel))))
    rw [hx]; simp

theorem test_meets_FarAccessesTimeOut (h : FarAccessesTimeOut) :
    (∃ t, exec (.farRequestTimeout 0 false) (tLoads [tQueued .plain (2 ^ 44)]) = .next t)
      ∧ ∃ t, exec (.farRequestTimeout 0 true) (tStores [tStore .plain [tPiece (2 ^ 44) 4] [1, 2, 3, 4] .sent]) = .next t := by
  refine ⟨(h.1 (tLoads [tQueued .plain (2 ^ 44)]) 0 0x40000100 4 _ (tQueued .plain (2 ^ 44)) ?_ ?_ rfl ?_ ?_ rfl rfl (by decide) (by decide)
      (.inr ⟨_, _, _, rfl, by decide⟩)).imp fun _ h => h.1,
   (h.2 (tStores [tStore .plain [tPiece (2 ^ 44) 4] [1, 2, 3, 4] .sent]) 0 4 _ (tStore .plain [tPiece (2 ^ 44) 4] [1, 2, 3, 4] .sent)
      (by unfold openStore; decide +kernel) rfl rfl (.inr ⟨_, _, _, rfl, by decide⟩) (by decide +kernel)).imp fun _ h => h.1⟩
  all_goals decide +kernel

/-! ### Gathers, fences, continuations and channels -/

/-- `v3` holds byte offsets 4 and -4 in lanes 0 and 3, the active lanes of `p1`; `v4` a misaligned one in lane 0. -/
def tIndex : State :=
  tLanes.modMe fun t => (t.setV 3 (Cell.full 0xFFFFFFFC000000000000000000000004)).setV 4 (Cell.full 2)

theorem test_meets_GatherAndScatter (h : GatherAndScatter) :
    (∃ t, exec (.gather 2 3 3 0 1) tIndex = .next t) ∧ ∃ t, exec (.scatter 1 3 3 0 1) tIndex = .next t := by
  obtain ⟨t, _, h1, _⟩ := (h.1 tIndex _ 2 3 3 0 1 _ (by decide +kernel)).1 (by decide +kernel) (by decide +kernel)
    (runs_some (by decide +kernel)) (by decide +kernel)
  obtain ⟨u, _, h2, _⟩ := (h.1 tIndex _ 1 3 3 0 1 _ (by decide +kernel)).2.1 (by decide +kernel) (by decide +kernel)
    (runs_some (by decide +kernel)) nofun
  exact ⟨⟨t, h1⟩, ⟨u, h2⟩⟩

theorem test_meets_GatherAndScatter_misaligned (h : GatherAndScatter) :
    (∃ t, exec (.gather 2 4 3 0 1) tIndex = .next t) ∧ ∃ t, exec (.scatter 1 4 3 0 1) tIndex = .next t := by
  have split : (lanesOn (tIndex.lanes tIndex.thr) (tIndex.me.preg 1).val).map (laneAddress tIndex 3 4 0) = [] ++ 0x40000102 :: [0x40000100] := by
    decide +kernel
  exact ⟨⟨_, ((h.1 tIndex _ 2 4 3 0 1 _ (by decide +kernel)).2.2 [] 0x40000102 [0x40000100] split (by decide) nofun).1 (by decide +kernel)
      (runs_some (by decide +kernel))⟩,
   ⟨_, ((h.1 tIndex _ 1 4 3 0 1 _ (by decide +kernel)).2.2 [] 0x40000102 [0x40000100] split (by decide) nofun).2 (by decide +kernel)
      (runs_some (by decide +kernel)) nofun⟩⟩

/-- A scatter of which one lane has not entered. -/
theorem test_meets_GatherAndScatter_rest (h : GatherAndScatter) :
    ∃ t, exec (.scatter 1 3 3 0 1)
      (tIndex.modMe fun t => { t with prog := .scatter [(0x40000100, .dev 0x40000100 true false, [1, 2, 3, 4])] false false }) = .next t := by
  obtain ⟨t, _, h1, _⟩ := h.2 (tIndex.modMe fun t => { t with prog := .scatter [(0x40000100, .dev 0x40000100 true false, [1, 2, 3, 4])] false false })
    1 3 3 0 1 _ _ _ (.inl (by decide +kernel)) rfl (by decide +kernel)
  exact ⟨t, h1⟩

/-- A store to the TCM that has not performed. -/
def tPending : State := tStores [tStore .plain [tPiece (tcmPa 0 0x100) 4] [1, 2, 3, 4] .sent]

theorem none_to {s : State} {p : Nat → Prop} (h : s.myCore.pending (slotNo s.cur) = []) : noneTo s p := fun e he => by
  rw [h] at he; cases he

theorem some_to {p : Nat → Prop} (h : p (tcmPa 0 0x100)) : ¬noneTo tPending p := fun hn =>
  hn (tStore .plain [tPiece (tcmPa 0 0x100) 4] [1, 2, 3, 4] .sent) (by decide +kernel) _ (.head _) _ _ _ rfl h

theorem test_meets_FencesComplete_local (h : FencesComplete) :
    ((∃ t, exec (.fence .core) tState = .next t) ∧ ∃ t, exec (.fence .polder) tState = .next t)
      ∧ exec (.fence .core) tPending = .next (tPending.park .stores) ∧ exec (.fence .polder) tPending = .next (tPending.park .stores) :=
  ⟨⟨((h.1 tState).1 (none_to (by decide +kernel))).imp fun _ h => h.1, ((h.2.1 tState).1 (none_to (by decide +kernel))).imp fun _ h => h.1⟩,
   (h.1 tPending).2 (some_to (by decide)), (h.2.1 tPending).2 (some_to (.inl (by decide)))⟩

/-- A far line of the package's stack 1, pinned or not. -/
theorem test_meets_FencesComplete (h : FencesComplete) :
    ((∃ t, exec (.fence .stack) tState = .next t) ∧ ∃ t, exec (.fence .package) (tFar 0 0) = .next t)
      ∧ (∃ t, exec (.fence .pod) (tLoads [tQueued .plain 0x40000100]) = .next t) ∧ ∃ t, exec (.fence .host) tPending = .next t :=
  ⟨⟨(h.2.2.1 tState ⟨by decide +kernel, by decide +kernel⟩).imp fun _ h => h.1,
    (h.2.2.2.2 (tFar 0 0) .package _ ⟨by decide +kernel, by decide +kernel⟩ (.inl ⟨rfl, rfl⟩) (by decide +kernel)).imp fun _ h => h.1⟩,
   ⟨_, (h.2.2.2.1 (tLoads [tQueued .plain 0x40000100]) .pod (.inr (.inr (.inl rfl)))).1 (by decide +kernel)⟩,
   ⟨_, (h.2.2.2.1 tPending .host (.inr (.inr (.inr rfl)))).2 (by decide +kernel) (by decide +kernel)⟩⟩

theorem test_meets_PrefetchCompletes (h : PrefetchCompletes) : ∃ t, exec (.pf 5) tData = .next t ∧ t = (tData.popIf [5]).advance 4 :=
  (h tData 5 (by decide +kernel)).imp fun _ h => ⟨h.1, h.2.2.2.2.2.2.2.2.2.2.1 (by decide +kernel)⟩

/-- The line that `s3` names comes into its home slice. -/
def tPf : State := (tData.popIf [3]).advance 4

theorem test_meets_PrefetchCompletes_line (h : PrefetchCompletes) : ∃ t l, exec (.pf 3) tData = .next t ∧ t.homeLine? 0x40000100 = some l := by
  obtain ⟨t, h1, _, _, _, _, _, _, _, _, _, _, h2⟩ := h tData 3 (by decide +kernel)
  obtain ⟨l, h3, _⟩ := h2 (tPf.xlateNow (tData.sval 3).toNat false).2 0x40000100 (by decide +kernel) (pair (by decide +kernel)) (by decide)
    (by decide) (by decide +kernel) (by decide +kernel) (by decide +kernel) (by decide +kernel)
  exact ⟨t, l, h1, h3⟩

/-- Continuations of `s6` of slot 0: in this dike, malformed, of a polder of no dike, and of slot 7. -/
def tConts : State := tWith [(6, 7 * 2 ^ 32), (7, 2 ^ 38), (8, 7 * 2 ^ 32 + 128), (9, 7 * 2 ^ 32 + 14)]

theorem test_meets_ContinuationsAreMadeAndSent (h : ContinuationsAreMadeAndSent) :
    (∃ t, exec (.mkcont 7 6 .scalar) tState = .next t) ∧ (∃ t, exec (.mkcont 7 15 .vector) tState = .next t)
      ∧ ∃ t, exec (.send 6 1) tConts = .next t := by
  have send : ∃ t, exec (.send 6 1) tConts = .next t := by
    refine (h.2.1 tConts 6 1 ?_ ?_ ?_ ?_ ?_ ?_ ?_ ?_ ?_).imp fun t x => x.elim fun _ y => y.1 <;> decide +kernel
  exact ⟨(h.1 tState 7 6 .scalar (by decide +kernel) ⟨rfl, rfl, rfl⟩ (by decide) (by decide)).imp fun _ h => h.1,
    (h.1 tState 7 15 .vector (by decide +kernel) ⟨rfl, rfl, rfl⟩ (by decide) (by decide)).imp fun _ h => h.1, send⟩

theorem test_meets_ContinuationsAreMadeAndSent_faults (h : ContinuationsAreMadeAndSent) :
    (∃ t, exec (.send 7 1) tConts = .next t) ∧ (∃ t, exec (.send 8 1) tConts = .next t) ∧ ∃ t, exec (.send 9 1) tConts = .next t :=
  ⟨⟨_, (h.2.2 tConts 7 1 (by decide +kernel)).1 (.inl (by decide +kernel))⟩,
   ⟨_, (h.2.2 tConts 8 1 (by decide +kernel)).2.1 (by decide +kernel) (by decide +kernel)⟩,
   ⟨_, (h.2.2 tConts 9 1 (by decide +kernel)).2.2 (by decide +kernel) (by decide +kernel) (by decide +kernel) (by decide +kernel)
      (by decide +kernel)⟩⟩

/-- `s6` is 15, which leaves an end; `s7` is 9, which is no core. -/
def tEnds : State := tWith [(6, 15), (7, 9)]

theorem legal_ends : ((tEnds.sval 1).toNat ≤ 8 ∧ (tEnds.sval 1).toNat ≠ coreNo tEnds.cur) ∧ (tEnds.sval 6).toNat = 15 := by
  decide +kernel

theorem find_mem {α : Type} : ∀ {m : SMap α} {a : Nat} {x : α}, m.find? a = some x → (a, x) ∈ m
  | [], _, _, h => by cases h
  | (k, v) :: m, a, x, h => by
    unfold SMap.find? at h
    split at h
    · rename_i he; cases h; cases he; exact .head _
    · split at h
      · cases h
      · exact .tail _ (find_mem h)

theorem cores_short {s : State} (h : s.cores.all (fun e => decide (e.2.chan.length < 512)) = true) (k : Nat) : (s.core k).chan.length < 512 := by
  simp only [State.core, SMap.getD]
  cases hf : s.cores.find? k with
  | none => decide
  | some c => exact of_decide_eq_true (List.all_eq_true.mp h _ (find_mem hf))

theorem test_meets_ChannelsAreConfigured (h : ChannelsAreConfigured) :
    (∃ t, exec (.qcfg 1 6) tEnds = .next t) ∧ (∃ t, exec (.qcfg 7 1) tEnds = .next t) ∧ ∃ t, exec (.qstat 3) tChan = .next t := by
  obtain ⟨x, h3, _⟩ := h.2.2 tChan 3 (by decide +kernel) (by decide +kernel) (by decide +kernel) (by decide +kernel) (by decide +kernel)
    (cores_short (by decide +kernel))
  exact ⟨(h.1 tEnds 1 6 (by decide +kernel) (by decide +kernel) (.inl legal_ends.1) (.inr legal_ends.2) (by decide +kernel)
      (.inl legal_ends.2)).imp fun _ h => h.1,
    ⟨_, h.2.1 tEnds 7 1 (by decide +kernel) (.inl (by decide +kernel))⟩, ⟨_, h3⟩⟩

/-! ### Vector instructions -/

theorem runs_lanes (ctx : Bool) : mayRun tLanes ctx :=
  ⟨.inl (by decide +kernel), fun _ => by decide +kernel⟩

theorem banks_lanes : BanksOk tLanes.me := ⟨by decide +kernel, by decide +kernel, by decide +kernel⟩

theorem test_meets_VectorElementResults (h : VectorElementResults) :
    (∃ t, exec (.vintAdd 2 1 1 1 .i16) tLanes = .next t) ∧ (∃ t, exec (.vf32Fma 1 1 1 1 0) tLanes = .next t)
      ∧ (∃ t, exec (.vredSumI32 2 1 1) tLanes = .next t) ∧ (∃ t, exec (.comp 2 1 1 1) tLanes = .next t)
      ∧ ∃ t, exec (.ins 1 1 3) tLanes = .next t := by
  obtain ⟨a, _, ha, _⟩ := h (.vintAdd 2 1 1 1 .i16) _ tLanes rfl (runs_lanes _) (by decide +kernel) banks_lanes (by decide +kernel)
  obtain ⟨b, _, hb, _⟩ := h (.vf32Fma 1 1 1 1 0) _ tLanes rfl (runs_lanes _) (by decide +kernel) banks_lanes (by decide +kernel)
  obtain ⟨c, _, hc, _⟩ := h (.vredSumI32 2 1 1) _ tLanes rfl (runs_lanes _) (by decide +kernel) banks_lanes (by decide +kernel)
  obtain ⟨d, _, hd, _⟩ := h (.comp 2 1 1 1) _ tLanes rfl (runs_lanes _) (by decide +kernel) banks_lanes (by decide +kernel)
  obtain ⟨e, _, he, _⟩ := h (.ins 1 1 3) _ tLanes rfl (runs_lanes _) (by decide +kernel) banks_lanes (by decide +kernel)
  exact ⟨⟨a, ha⟩, ⟨b, hb⟩, ⟨c, hc⟩, ⟨d, hd⟩, ⟨e, he⟩⟩

theorem test_meets_VectorComparisonResults (h : VectorComparisonResults) :
    (∃ t, exec (.vintCmplt 1 1 1 1 .i8) tLanes = .next t) ∧ ∃ t, exec (.vf16Cmple 2 1 1 0) tLanes = .next t := by
  obtain ⟨a, _, ha, _⟩ := h (.vintCmplt 1 1 1 1 .i8) _ tLanes rfl (runs_lanes _) (by decide +kernel) banks_lanes
  obtain ⟨b, _, hb, _⟩ := h (.vf16Cmple 2 1 1 0) _ tLanes rfl (runs_lanes _) (by decide +kernel) banks_lanes
  exact ⟨⟨a, ha⟩, ⟨b, hb⟩⟩

theorem test_meets_PredicateResults (h : PredicateResults) :
    (∃ t, exec (.pnot 1 1) tLanes = .next t) ∧ (∃ t, exec (.ext 6 1 3) tLanes = .next t) ∧ (∃ t, exec (.pfirst 6 1) tLanes = .next t)
      ∧ (∃ t, exec (.ext 6 1 8) tLanes = .next t) ∧ ∃ t, exec (.ins 1 1 8) tLanes = .next t := by
  obtain ⟨a, _, ha, _⟩ := h.1 (.pnot 1 1) _ _ _ tLanes rfl (runs_lanes _) (by decide +kernel) banks_lanes
  obtain ⟨b, hb, _⟩ := h.2.1 (.ext 6 1 3) _ _ _ _ tLanes rfl (runs_lanes _) (by decide +kernel) banks_lanes (by decide +kernel)
  obtain ⟨c, hc, _⟩ := h.2.1 (.pfirst 6 1) _ _ _ _ tLanes rfl (runs_lanes _) (by decide +kernel) banks_lanes (by decide +kernel)
  have d := h.2.2 tLanes 6 1 8 (runs_lanes _) (by decide +kernel)
  have e := h.2.2 tLanes 1 1 8 (runs_lanes _) (by decide +kernel)
  exact ⟨⟨a, ha⟩, ⟨b, hb⟩, ⟨c, hc⟩, ⟨_, d.1 (by decide +kernel)⟩, ⟨_, e.2 (by decide +kernel)⟩⟩

/-- From `f32` to `bf16` with `sr`, without a scale. -/
def tCvt : CvtWord := { src := .f32, dst := .bf16, rnd := .sr, sat := false, cmp := false, scale := none }

theorem test_meets_ConversionResults (h : ConversionResults) :
    (∃ t, exec (.cvt 2 1 1 tCvt) tLanes = .next t) ∧ ∃ t, exec (.qnt 1 1 1 { tCvt with cmp := true, scale := some 1 }) tLanes = .next t := by
  obtain ⟨a, _, ha, _⟩ := h (.cvt 2 1 1 tCvt) _ _ _ _ _ _ _ tLanes rfl (runs_lanes _) (by decide +kernel) banks_lanes
  obtain ⟨b, _, hb, _⟩ := h (.qnt 1 1 1 { tCvt with cmp := true, scale := some 1 }) _ _ _ _ _ _ _ tLanes rfl (runs_lanes _)
    (by decide +kernel) banks_lanes
  exact ⟨⟨a, ha⟩, ⟨b, hb⟩⟩

/-! ### Views, gangs, blocks and the exchange -/

/-- Core 0 leads a gang of two; and slot 0 in the long view. -/
def tGang : State := (tLanes.modCore 0 fun c => { c with gang := { width := 1, leader := true, donor := false, reserved := false } }).modCore 1
  fun c => { c with gang := { width := 0, leader := false, donor := true, reserved := true } }
def tLong : State := tGang.modMe fun t => { t with long := true }

theorem may_run {s : State} {ctx : Bool} (h : s.myCore.gang.donor = false) (hb : s.myCore.mcfgBusy = none) : mayRun s ctx :=
  ⟨.inl h, fun _ => hb⟩

theorem no_block {s : State} (h : s.myCore.seqr = none) : noBlock s := fun b hb => by rw [h] at hb; cases hb

theorem test_meets_ViewsChange (h : ViewsChange) :
    (∃ t, exec .vmodeLong tGang = .next t) ∧ (∃ t, exec .vmodeShort tLong = .next t) ∧ ∃ t, exec (.vclr 15) tLanes = .next t :=
  ⟨(h.1 tGang (may_run (by decide +kernel) (by decide +kernel)) (no_block (by decide +kernel)) (by decide +kernel) (by decide +kernel)
      (by decide +kernel)).imp fun _ h => h.1,
   (h.2.1 tLong (may_run (by decide +kernel) (by decide +kernel)) (no_block (by decide +kernel)) (by decide +kernel) (by decide +kernel)
      ⟨by decide +kernel, by decide +kernel, by decide +kernel⟩).imp fun _ h => h.1,
   (h.2.2 tLanes 15 (runs_lanes _) (no_block (by decide +kernel)) (by decide +kernel) banks_lanes).imp fun _ h => h.1⟩

/-- The running image may form gangs of two, and core 1 is reserved for it; and slot 0 waits for the bond grid. -/
def tFree : State :=
  ((tState.modCore 1 fun c => { c with gang := { width := 0, leader := false, donor := false, reserved := true } }).modPolder 0
    fun p => { p with code := [(0, { tRunning with attrs := 20 }), (1, tCallee)] })
def tBinding : State := tFree.modMe fun t => { t with prog := .binding 1 }

theorem test_meets_GangsBindAndRelease (h : GangsBindAndRelease) :
    (∃ t, exec (.gang .x2) tFree = .next t) ∧ (∃ t, exec (.gang .x4) tFree = .next t)
      ∧ (∃ t, exec (.gangBindDone 0) tBinding = .next t) ∧ ∃ t, exec .gangrel tGang = .next t := by
  have h1 (w : GangWidth) := h.1 tFree w (may_run (by decide +kernel) (by decide +kernel)) (no_block (by decide +kernel))
    (fun n hn => by cases hn)
  exact ⟨((h1 .x2).1 (by decide +kernel)).imp fun _ h => h.1, ⟨_, (h1 .x4).2 (by decide +kernel)⟩,
    (h.2.1 tBinding 0 1 (by rfl) (.inl rfl) (by decide +kernel)).imp fun _ h => h.1,
    (h.2.2.1 tGang (may_run (by decide +kernel) (by decide +kernel)) (by decide +kernel) (by decide +kernel) (.inl (by decide +kernel))
      (by decide +kernel)).imp fun _ h => h.1⟩

theorem test_meets_GangsBindAndRelease_free (h : GangsBindAndRelease) :
    (∃ t, exec .gangrel tState = .next t) ∧ ∃ t, exec .vmodeLong tState = .next t :=
  have h := h.2.2.2 tState (may_run (by decide +kernel) (by decide +kernel)) (no_block (by decide +kernel)) (by decide +kernel)
  ⟨⟨_, h.1⟩, ⟨_, h.2⟩⟩

/-- One instruction of a block, which adds `v1` to itself; an image that holds it behind its `rpt`; and a block of two replays. -/
def tAdd : Instr := .vintAdd 2 1 1 0 .i32
def tBlock : State :=
  (tLanes.modMe fun t => t.setS 1 (Cell.full 2)).modPolder 0 fun p =>
    { p with code := [(0, { tRunning with code := List.replicate 3 0x08630005 ++ (encode tAdd).map (BitVec.ofNat 32) ++ [0] }), (1, tCallee)] }
def tReplay : State :=
  (tLanes.modMe fun t => t.setSt (.v 2) (.owed .block)).modCore 0 fun c =>
    { c with seqr := some { slot := 0, code := [tAdd], str := 0, count := 2, replay := 0, index := 0, reads := [] } }

theorem isOk {ε α : Type} {x : Except ε α} {a : α} (h : x.toOption = some a) : x = .ok a := by
  cases x with
  | error e => cases h
  | ok b => cases h; rfl

theorem test_meets_BlocksReplay (h : BlocksReplay) :
    (∃ t, exec (.rpt 1 1 1) tBlock = .next t) ∧ ∃ t, exec (.sequencerReplayStart 0) tReplay = .next t := by
  obtain ⟨t, h1, _⟩ := h.1 tBlock 1 1 1 16 [tAdd] (may_run (by decide +kernel) (by decide +kernel)) (by decide +kernel) (by decide +kernel)
    (isOk (by decide +kernel)) (by decide +kernel) (by decide +kernel) (by decide +kernel)
  obtain ⟨u, h2, _⟩ := h.2 tReplay 0 _ _ (by rfl) (by decide) (by rfl) (by decide) (by decide) ⟨_, _, rfl, rfl⟩
  exact ⟨⟨t, h1⟩, ⟨u, h2⟩⟩

/-- Core 0 exchanges alone; with core 1, which has not posted; and with core 1, which has. -/
def tAlone : State := tLanes.modCore 0 fun c => { c with xmask := 1 }
def tPair : State := tLanes.modCore 0 fun c => { c with xmask := 3 }
def tPosted : ExchEnt := { slot := 2, vd := 5, mask := 3, val := 7 }
def tMet : State := tPair.modPolder 0 fun p => { p with exch := [(1, tPosted)] }

theorem test_meets_MaximumExchange (h : MaximumExchange) :
    (∃ t, exec (.vmaxx 2 1) tAlone = .next t) ∧ (∃ t, exec (.vmaxx 2 1) tPair = .next t) ∧ ∃ t, exec (.vmaxx 2 1) tMet = .next t := by
  have run (s : State) (hb : s.myCore.gang.donor = false ∧ s.myCore.mcfgBusy = none) := h s 2 1 (may_run hb.1 hb.2)
  have a := (run tAlone (by decide +kernel) (by decide +kernel) (by decide +kernel) (by decide +kernel) (by decide +kernel)
    (by decide +kernel)).1 (by decide +kernel)
  have b := ((run tPair (by decide +kernel) (by decide +kernel) (by decide +kernel) (by decide +kernel) (by decide +kernel)
    (by decide +kernel)).2 1 tPosted (by decide) (by decide +kernel) (by decide +kernel) (by decide +kernel) (by decide +kernel)).1
    (by decide +kernel)
  have c := ((run tMet (by decide +kernel) (by decide +kernel) (by decide +kernel) (by decide +kernel) (by decide +kernel)
    (by decide +kernel)).2 1 tPosted (by decide) (by decide +kernel) (by decide +kernel) (by decide +kernel) (by decide +kernel)).2
    (by decide +kernel) (by decide +kernel) (by decide)
  obtain ⟨t, _, ha, _⟩ := a; obtain ⟨u, _, hb, _⟩ := b; obtain ⟨v, _, hc, _⟩ := c
  exact ⟨⟨t, ha⟩, ⟨u, hb⟩, ⟨v, hc⟩⟩

/-! ### The matrix unit -/

/-- What is left when one run of cached DRAM is covered. -/
def tCover (wr : Bool) (s : State) (va pa n : Nat) : State :=
  let s1 := (s.xlate s.cur va wr).2
  if wr then s1 else (s1.readPieces (stkOf s1.cur) s1.cur none [{ lo := 0, len := n, tgt := .dev pa true false }] false 6 []).2

/-- A run of cached DRAM is covered: it translates, nothing holds it, its sets have a way for it, and it is free of poison. -/
def tCoverable (wr : Bool) (s : State) (va pa n : Nat) : Bool :=
  let s1 := (s.xlate s.cur va wr).2
  let ps : List Piece := [{ lo := 0, len := n, tgt := .dev pa true false }]
  decide ((s.xlate s.cur va wr).1 = .ok (.dev pa true false) ∧ region pa = .dram ∧ s1.memoryHeld ps = false
    ∧ s1.roomless (stkOf s1.cur) none ps false = false ∧ (s1.readPieces (stkOf s1.cur) s1.cur none ps false 6 []).1.bad = [])

theorem covers_of (wr : Bool) (pa : Nat) {s : State} {va n : Nat} (h : tCoverable wr s va pa n = true) :
    Covers s wr [(0, va, n)] [{ lo := 0, len := n, tgt := .dev pa true false }] (tCover wr s va pa n) := by
  intro k
  obtain ⟨hx, hr, hm, hroom, hb⟩ := of_decide_eq_true h
  have hp : operandPlace va (.dev pa true false) = true := by simp [operandPlace, hr]
  cases wr <;>
  simp [State.withCovered, State.withX_ok _ (pair hx), hp, hm, hroom, State.withHostLines, hb, tCover]

/-- A record of one row of one element at 0x4000_0100, in a format. -/
def tRecord (fmt : Nat) : List Byte :=
  leBytes 8 0x40000100 ++ leBytes 4 64 ++ [BitVec.ofNat 8 fmt, 0] ++ leBytes 2 1 ++ leBytes 2 1 ++ leBytes 14 0

/-- `s5` and `s7` point at such records in the TCM. -/
def tMat (fmt : Nat) : State :=
  tBytes [(tcmPa 0 0x100, tRecord fmt), (tcmPa 0 0x140, tRecord fmt)] (tWith [(5, 0xFFFFFFFFF8000100), (7, 0xFFFFFFFFF8000140)])

/-- The record at `s5` as the slot reads it, and the state behind it; the same of the record at `s7` behind that. -/
def tRecA (fmt : Nat) : Got × State := tGot false (tMat fmt) 0xFFFFFFFFF8000100 (tcmPa 0 0x100) 32
def tRecB (fmt : Nat) : Got × State := tGot false (tRecA fmt).2 0xFFFFFFFFF8000140 (tcmPa 0 0x140) 32

theorem reads_recA (fmt : Nat) (use : RecUse) (h5 : ((tMat fmt).sval 5).toNat = 0xFFFFFFFFF8000100)
    (h : tReadable false (tMat fmt) 0xFFFFFFFFF8000100 (tcmPa 0 0x100) 32 = true)
    (ho : recordOk (tRecA fmt).2.myCore.ctx use (tRecA fmt).1.data = true) :
    ReadsRecord (tMat fmt) use ((tMat fmt).sval 5).toNat (tRecA fmt).1.data (tRecA fmt).2 := by
  rw [h5]; exact ⟨by decide, reads_of false _ h, ho⟩

theorem mop_ready {s : State} {srcs : List Nat} (h : Ready s (srcs.map Desig.s) [] ∧ s.me.roam = false) (hb : s.myCore.mcfgBusy = none) :
    mopReady s srcs := ⟨h.1, h.2, hb⟩

theorem test_meets_MatrixCommandsEnterTheQueue_mzero (h : MatrixCommandsEnterTheQueue) : ∃ t, exec (.mzero 7) tState = .next t :=
  (h.1 tState 7 (mop_ready (by decide +kernel) (by decide +kernel)) (by decide +kernel)).imp fun _ h => h.1

theorem test_meets_MatrixCommandsEnterTheQueue_moves (h : MatrixCommandsEnterTheQueue) :
    (∃ t, exec (.mld 0 5) (tMat 0x20) = .next t) ∧ ∃ t, exec (.mst 0 5) (tMat 0x20) = .next t := by
  have r (use : RecUse) (ho : recordOk (tRecA 0x20).2.myCore.ctx use (tRecA 0x20).1.data = true) :=
    reads_recA 0x20 use (by decide +kernel) (by decide +kernel) ho
  have hr : sortRuns (recordRuns (tRecA 0x20).2.myCore.ctx .mld (tRecA 0x20).1.data) = [(0, 0x40000100, 4)] := by decide +kernel
  have hw : sortRuns (recordRuns (tRecA 0x20).2.myCore.ctx .mst (tRecA 0x20).1.data) = [(0, 0x40000100, 4)] := by decide +kernel
  obtain ⟨u, _, h2, _⟩ := h.2.2.1 (tMat 0x20) (tRecA 0x20).2 _ 0 5 (tRecA 0x20).1.data _
    (mop_ready (by decide +kernel) (by decide +kernel)) (by decide +kernel) (r .mst (by decide +kernel))
    (by rw [hw]; exact covers_of true 0x40000100 (by decide +kernel)) ⟨by decide +kernel, by decide +kernel⟩
  exact ⟨(h.2.1 (tMat 0x20) (tRecA 0x20).2 _ 0 5 (tRecA 0x20).1.data _ (mop_ready (by decide +kernel) (by decide +kernel))
      (by decide +kernel) (r .mld (by decide +kernel))
      (by rw [hr]; exact covers_of false 0x40000100 (by decide +kernel))
      ⟨by decide +kernel, by decide +kernel⟩).imp fun _ h => h.1, ⟨u, h2⟩⟩

theorem test_meets_MatrixCommandsEnterTheQueue_mmul (h : MatrixCommandsEnterTheQueue) : ∃ t, exec (.mmul 0 5 7) (tMat 0x40) = .next t := by
  have h7 : ((tMat 0x40).sval 7).toNat = 0xFFFFFFFFF8000140 := by decide +kernel
  have ra : sortRuns (recordRuns (tRecB 0x40).2.myCore.ctx .a (tRecA 0x40).1.data) = [(0, 0x40000100, 2)] := by decide +kernel
  have rb : sortRuns (recordRuns (tCover false (tRecB 0x40).2 0x40000100 0x40000100 2).myCore.ctx (.b 0) (tRecB 0x40).1.data)
      = [(0, 0x40000100, 2)] := by decide +kernel
  refine (h.2.2.2 (tMat 0x40) (tRecA 0x40).2 (tRecB 0x40).2 _ _ 0 5 7 (tRecA 0x40).1.data (tRecB 0x40).1.data _ _
    (mop_ready (by decide +kernel) (by decide +kernel)) (by decide +kernel)
    (reads_recA 0x40 .a (by decide +kernel) (by decide +kernel) (by decide +kernel))
    ⟨by rw [h7], by rw [h7]; exact reads_of false _ (by decide +kernel),
      by decide +kernel⟩
    (by rw [ra]; exact covers_of false 0x40000100 (by decide +kernel))
    (by rw [rb]; exact covers_of false 0x40000100 (by decide +kernel))
    ⟨by decide +kernel, by decide +kernel⟩).imp fun _ h => h.1

/-- A record of a format context of two operand formats of one width without a table; the same with a table that holds the identity; and one
that sets a reserved bit of its mode. -/
def tTable : List Byte := (List.range 16).flatMap fun i => leBytes 4 (if i = 0 then 0 else 0x7F800000) ++ leBytes 4 (if i = 0 then 0x3F800000 else 0) ++ leBytes 4 0
def tFormat (mode table : Nat) : State :=
  tBytes [(tcmPa 0 0x100, [0x40, 0x40, 0x20, BitVec.ofNat 8 mode] ++ leBytes 4 0 ++ leBytes 8 table), (tcmPa 0 0x140, tTable)]
    (tWith [(5, 0xFFFFFFFFF8000100)])

/-- The machine while the context is read; the record, and the table behind it. -/
def tCfg (mode table : Nat) : State := (tFormat mode table).modMyCore fun k => { k with mcfgBusy := some (slotNo (tFormat mode table).cur) }
def tCtx (mode table : Nat) : Got × State := tGot false (tCfg mode table) 0xFFFFFFFFF8000100 (tcmPa 0 0x100) 64
def tTab (mode table : Nat) : Got × State := tGot false (tCtx mode table).2 0xFFFFFFFFF8000140 (tcmPa 0 0x140) 192

theorem test_meets_FormatContextIsInstalled (h : FormatContextIsInstalled) :
    (∃ t, exec (.mcfg 5) (tFormat 2 0) = .next t) ∧ (∃ t, exec (.mcfg 5) (tFormat 128 0) = .next t)
      ∧ ∃ t, exec (.mcfg 5) (tFormat 2 0xFFFFFFFFF8000140) = .next t := by
  have h5 (m t : Nat) (ht : t = 0 ∨ t = 0xFFFFFFFFF8000140) (hm : m = 2 ∨ m = 128) :
      ((tFormat m t).sval 5).toNat = 0xFFFFFFFFF8000100 := by
    rcases ht with rfl | rfl <;> rcases hm with rfl | rfl <;> decide +kernel
  have a := (h (tFormat 2 0) (tCtx 2 0).2 5 (tCtx 2 0).1.data (by decide +kernel) (by decide +kernel) (by decide +kernel) (by decide +kernel)
    (by decide +kernel)).2 (by decide +kernel) (by
      rw [h5 2 0 (.inl rfl) (.inl rfl)]
      exact reads_of false _ (by decide +kernel))
  have b := (h (tFormat 128 0) (tCtx 128 0).2 5 (tCtx 128 0).1.data (by decide +kernel) (by decide +kernel) (by decide +kernel) (by decide +kernel)
    (by decide +kernel)).2 (by decide +kernel) (by
      rw [h5 128 0 (.inl rfl) (.inr rfl)]
      exact reads_of false _ (by decide +kernel))
  have c := (h (tFormat 2 0xFFFFFFFFF8000140) (tCtx 2 0xFFFFFFFFF8000140).2 5 (tCtx 2 0xFFFFFFFFF8000140).1.data (by decide +kernel)
    (by decide +kernel) (by decide +kernel) (by decide +kernel) (by decide +kernel)).2 (by decide +kernel) (by
      rw [h5 2 0xFFFFFFFFF8000140 (.inr rfl) (.inl rfl)]
      exact reads_of false _ (by decide +kernel))
  have p : leAt (tCtx 2 0xFFFFFFFFF8000140).1.data 8 8 = 0xFFFFFFFFF8000140 := by decide +kernel
  exact ⟨(a.2.1 (by decide +kernel) (by decide +kernel) (by decide +kernel)).imp fun _ h => h.1, ⟨_, b.1 (by decide +kernel)⟩,
    (c.2.2 (tTab 2 0xFFFFFFFFF8000140).1.data (tTab 2 0xFFFFFFFFF8000140).2 (by decide +kernel) (by decide +kernel) (by rw [p]; decide)
      (by rw [p]) (by
        rw [p]; exact reads_of false _ (by decide +kernel))
      (by decide +kernel)).imp fun _ h => h.1⟩

/-- Commands of core 0, started or not. -/
def tCmd (cmd : MCmd) (started : Bool) : MEnt := { seq := 0, slot := 0, cmd := cmd, started := started, epoch := false, pins := [] }
def tQueue (cmd : MCmd) (started : Bool) : State := tState.modCore 0 fun c => { c with mq := [tCmd cmd started] }

theorem test_meets_FormatContextIsInstalled_waits (h : FormatContextIsInstalled) :
    ∃ t, exec (.mcfg 0) (tQueue (.mzero 3) false) = .next t :=
  ((h (tQueue (.mzero 3) false) tState 0 [] (by decide +kernel) (by decide +kernel) (by decide +kernel) (by decide +kernel)
    (by decide +kernel)).1 (by decide +kernel)).imp fun _ h => h.1

theorem test_meets_MatrixWaits (h : MatrixWaits) :
    (∃ t, exec (.mwait 6 3) tState = .next t) ∧ (∃ t, exec (.mwait 6 3) (tQueue (.mzero 3) false) = .next t)
      ∧ ∃ t, exec (.mwait 6 3) (tState.modMyCore fun c => { c with mcfgBusy := some 1 }) = .next t := by
  obtain ⟨x, h1, _⟩ := (h.1 tState 6 3 0 (by decide +kernel) (by decide +kernel) (.inl ⟨by rfl, by decide +kernel, by rfl⟩)).1
    (by decide +kernel)
  exact ⟨⟨_, h1⟩, ((h.1 (tQueue (.mzero 3) false) 6 3 0 (by decide +kernel) (by decide +kernel)
    (.inl ⟨by rfl, by decide +kernel, by rfl⟩)).2 (by decide +kernel)).imp
    fun _ h => h.1, ⟨_, h.2 _ 6 3 (by decide +kernel) (by decide +kernel) (by rfl) (by decide +kernel)⟩⟩

/-- One element at 0x4000_0100. -/
def tOperand (fmt size : Nat) : Operand :=
  { fmt := fmt, rows := 1, cols := 1, pieces := [{ lo := 0, len := size, tgt := .dev 0x40000100 true false }] }

/-- One element in the scratchpad of the polder. -/
def tSpadOperand : Operand := { fmt := 0x20, rows := 1, cols := 1, pieces := [{ lo := 0, len := 4, tgt := .dev 0x90000000000 false false }] }

theorem test_meets_MatrixCommandsRun (h : MatrixCommandsRun) :
    (∃ t, exec (.matrixCommandStart 0) (tQueue (.mzero 3) false) = .next t)
      ∧ (∃ t, exec (.matrixCommandDone 0) (tQueue (.mzero 3) true) = .next t)
      ∧ (∃ t, exec (.matrixCommandDone 0) (tQueue (.mld 3 (tOperand 0x20 4)) true) = .next t)
      ∧ (∃ t, exec (.matrixCommandDone 0) (tQueue (.mmul 3 (tOperand 0x40 2) (tOperand 0x40 2)) true) = .next t)
      ∧ ∃ t, exec (.matrixCommandDone 0) (tQueue (.mst 3 tSpadOperand []) true) = .next t := by
  have run (c : MCmd) (h : (tQueue c true).commandHeld c = false) : running (tQueue c true) 0 c := ⟨⟨_, _, rfl, rfl, rfl⟩, h⟩
  refine ⟨(h.1 (tQueue (.mzero 3) false) 0 (tCmd (.mzero 3) false) [] ?_ ?_ ?_).imp fun _ h => h.1,
   (h.2.1 (tQueue (.mzero 3) true) 0 3 (run _ ?_) ?_).imp fun _ h => h.1,
   (h.2.2.1 (tQueue (.mld 3 (tOperand 0x20 4)) true) _ 0 3 (tOperand 0x20 4) _ (run _ ?_) ?_ rfl (by decide) (by decide)).imp fun _ h => h.1,
   (h.2.2.2.1 (tQueue (.mmul 3 (tOperand 0x40 2) (tOperand 0x40 2)) true) _ _ 0 3 (tOperand 0x40 2) (tOperand 0x40 2) _ _
      (run _ ?_) ?_ ?_ rfl rfl (by decide) (by decide)).imp fun _ h => h.1,
   (h.2.2.2.2 (tQueue (.mst 3 tSpadOperand []) true) 0 3 0x90000000000 false false tSpadOperand [] (run _ ?_) ?_ ?_ rfl rfl
      (by decide +kernel)).imp fun _ h => h.1⟩ <;> decide +kernel

/-! ### Barriers -/

/-- A barrier object of two arrivals at `s5` in the TCM, in phase 1. -/
def tBar : State :=
  tBytes [(tcmPa 0 0x100, leBytes 4 2 ++ leBytes 4 0 ++ leBytes 4 0 ++ leBytes 4 0 ++ [1])] (tWith [(5, 0xFFFFFFFFF8000100), (7, 0xFFFFFFFFF8000140)])
def tBad : State := tBytes [(tcmPa 0 0x110, [8])] tBar

/-- The states at which the objects at `s5` are open. -/
def tBar1 : State := tOpen false tBar (tBar.sval 5).toNat (tcmPa 0 0x100) 32
def tBad1 : State := tOpen false tBad (tBad.sval 5).toNat (tcmPa 0 0x100) 32

theorem bar_open : BarOpen tBar (tBar.sval 5).toNat (tcmPa 0 0x100) { exp := 2, arr := 0, expB := 0, byt := 0, flags := 1 } tBar1 := by
  refine ⟨?_, ?_, opens_of false _ ?_, ?_, ?_, ?_, fun h => absurd h (by decide), fun h => absurd h (by decide)⟩ <;> decide +kernel

theorem test_meets_Barriers (h : Barriers) :
    (∃ t, exec (.barinit 5 1) tBar = .next t) ∧ (∃ t, exec (.arrive 6 5) tBar = .next t) ∧ (∃ t, exec (.barbytes 5 1) tBar = .next t)
      ∧ (∃ t, exec (.await 5 0) tBar = .next t) ∧ ∃ t, exec (.await 5 1) tBar = .next t := by
  obtain ⟨hi, ha, hy, hw, _⟩ := h
  refine ⟨(hi tBar _ 5 1 _ _ (by decide +kernel) bar_open (by decide +kernel)).imp fun _ h => h.1,
    (ha tBar _ 6 5 _ _ (by decide +kernel) bar_open (by decide)).imp fun _ h => h.1,
    (hy tBar _ 5 1 _ _ (by decide +kernel) bar_open (by decide +kernel)).imp fun _ h => h.1,
    ((hw tBar _ 5 0 _ _ (by decide +kernel) bar_open (by rfl)).1 (by decide +kernel)).imp fun _ h => h.1,
    ((hw tBar _ 5 1 _ _ (by decide +kernel) bar_open (by rfl)).2 (by decide +kernel) (by decide)).imp fun _ h => h.1⟩

theorem test_meets_Barriers_faults (h : Barriers) :
    (∃ t, exec (.barinit 5 0) tBar = .next t) ∧ ∃ t, exec (.barinit 5 1) tBad = .next t :=
  ⟨⟨_, (h.2.2.2.2 tBar tBar 5 0 (tcmPa 0 0x100) (by decide +kernel)).1 (by decide +kernel)⟩,
   ⟨_, (h.2.2.2.2 tBad tBad1 5 1 (tcmPa 0 0x100) (by decide +kernel)).2 (by decide +kernel) (by decide +kernel)
      (opens_of false _ (by decide +kernel)) (by decide +kernel)⟩⟩

/-! ### Tasks -/

theorem not_dram {s : State} {pa : Nat} (h : region pa ≠ .dram) : writable s pa := fun hr => absurd hr h

/-- The states behind the translations of a spawn: of its record, its block and its join word. -/
def tSp1 (s : State) : State := (s.xlate s.cur 0xFFFFFFFFF80003C0 true).2
def tSpRuns (s : State) : List Piece × State :=
  (tRuns (tSp1 s) true ((List.range 4).map fun i => (32 * i, (0xFFFFFFFFF8000340 + 32 * i) % 2 ^ 64, 32))).getD ([], tSp1 s)
def tSp3 (s : State) : State := ((tSpRuns s).2.xlate (tSpRuns s).2.cur 0xFFFFFFFFF80001F8 true).2

/-- A deque with no room. -/
def tFull : State := tState.modCore 0 fun c => { c with deque := List.replicate 64 { live := true, slot := 1, recVa := 0 } }

theorem test_meets_Spawns (h : Spawns) : (∃ t, exec (.spawn 0 0) tState = .next t) ∧ ∃ t, exec (.spawn 0 0) tFull = .next t := by
  have run (s : State) (hs : (s.me.sreg 31).val.toNat = 0xFFFFFFFFF8000400 ∧ (s.me.sreg 30).val.toNat = 0xFFFFFFFFF8000200)
      (h1 : (s.xlate s.cur 0xFFFFFFFFF80003C0 true).1 = .ok (.dev (tcmPa 0 0x3C0) false false))
      (h2 : (tRuns (tSp1 s) true ((List.range 4).map fun i => (32 * i, (0xFFFFFFFFF8000340 + 32 * i) % 2 ^ 64, 32))).isSome = true)
      (h3 : ((tSpRuns s).2.xlate (tSpRuns s).2.cur 0xFFFFFFFFF80001F8 true).1 = .ok (.dev (tcmPa 0 0x1F8) false false)) (s4 : State)
      (a1 : s.myImage = some tRunning) (a2 : 0 < tRunning.nsite) (a3 : 0 < tRunning.imports.length)
      (a4 : Ready s ([.s 30, .s 31] ++ (List.range 12).map fun i => .s (16 + i)) [.s 30, .s 31]) (a5 : BanksOk s.me)
      (a7 : Installed s (tRunning.import? 0) 1 tCallee) :=
    h s (tSp1 s) (tSpRuns s).2 (tSp3 s) s4 0 0 1 (tcmPa 0 0x1F8) tRunning tCallee (.dev (tcmPa 0 0x3C0) false false)
      (.dev (tcmPa 0 0x1F8) false false) (.dev (tcmPa 0 0x3C0) false false) (tSpRuns s).1 a1 a2 a3 a4 a5 (by rw [hs.1])
      a7 (by rw [hs.1]; exact pair h1) (by rw [hs.1]; exact runs_some h2) |>.2 (by rw [hs.2] <;> decide) (by rw [hs.2]; exact pair h3) nofun
  have ha : (tState.me.sreg 30).val.toNat = 0xFFFFFFFFF8000200 := by decide +kernel
  have hb : (tFull.me.sreg 31).val.toNat = 0xFFFFFFFFF8000400 := by decide +kernel
  refine ⟨((run tState (by decide +kernel) (by decide +kernel) (by decide +kernel) (by decide +kernel)
      (tOpen false (tSp3 tState) 0xFFFFFFFFF80001F8 (tcmPa 0 0x1F8) 8) (by decide +kernel) (by decide) (by decide) (by decide +kernel)
      ⟨by decide +kernel, by decide +kernel, by decide +kernel⟩ (by decide +kernel)).1 (by decide +kernel)
      (by rw [ha]; exact opens_of false _ (by decide +kernel)) (by decide +kernel) (not_dram (by decide))
      (by decide +kernel)).imp fun _ h => h.1,
    ((run tFull (by decide +kernel) (by decide +kernel) (by decide +kernel) (by decide +kernel)
      ((tSp3 tFull).xlate (tSp3 tFull).cur 0xFFFFFFFFF80003C0 true).2 (by decide +kernel) (by decide) (by decide) (by decide +kernel)
      ⟨by decide +kernel, by decide +kernel, by decide +kernel⟩ (by decide +kernel)).2 (by decide +kernel)
      (by rw [hb]; exact translates (by decide +kernel)) (by decide +kernel)).imp fun _ h => h.1⟩

/-- A frame whose join word lies 4 bytes off. -/
def tSkew : State := tWith [(30, 0xFFFFFFFFF8000204)]

theorem test_meets_Spawns_misaligned (h : Spawns) : ∃ t, exec (.spawn 0 0) tSkew = .next t := by
  have hs : (tSkew.me.sreg 31).val.toNat = 0xFFFFFFFFF8000400 := by decide +kernel
  have h1 : (tSkew.xlate tSkew.cur 0xFFFFFFFFF80003C0 true).1 = .ok (.dev (tcmPa 0 0x3C0) false false) := by decide +kernel
  have h2 : (tRuns (tSp1 tSkew) true ((List.range 4).map fun i => (32 * i, (0xFFFFFFFFF8000340 + 32 * i) % 2 ^ 64, 32))).isSome = true := by
    decide +kernel
  have r := h tSkew (tSp1 tSkew) (tSpRuns tSkew).2 tSkew tSkew 0 0 1 0 tRunning tCallee (.dev (tcmPa 0 0x3C0) false false)
    (.dev 0 false false) (.dev 0 false false) (tSpRuns tSkew).1 (by decide +kernel) (by decide) (by decide) (by decide +kernel)
    ⟨by decide +kernel, by decide +kernel, by decide +kernel⟩ (by rw [hs]) (by decide +kernel) (by rw [hs]; exact pair h1)
    (by rw [hs]; exact runs_some h2)
  exact ⟨_, r.1 (by decide +kernel)⟩

/-- A join word of one child. -/
def tChild : State := tBytes [(tcmPa 0 0x1F8, [1])] tState

theorem test_meets_Joins (h : Joins) : (∃ t, exec .join tState = .next t) ∧ ∃ t, exec .join tChild = .next t := by
  have ha : (tState.me.sreg 30).val.toNat = 0xFFFFFFFFF8000200 := by decide +kernel
  have hb : (tChild.me.sreg 30).val.toNat = 0xFFFFFFFFF8000200 := by decide +kernel
  exact ⟨((h tState (tOpen false tState 0xFFFFFFFFF80001F8 (tcmPa 0 0x1F8) 8) (tcmPa 0 0x1F8) (by decide +kernel) (by rw [ha] <;> decide)
      (by rw [ha]; exact opens_of false _ (by decide +kernel))).1 (by decide +kernel)
      (.inl (by decide))).imp fun _ h => h.1,
    ((h tChild (tOpen false tChild 0xFFFFFFFFF80001F8 (tcmPa 0 0x1F8) 8) (tcmPa 0 0x1F8) (by decide +kernel) (by rw [hb] <;> decide)
      (by rw [hb]; exact opens_of false _ (by decide +kernel))).2 (by decide +kernel) (by decide +kernel)
      (by decide +kernel) (not_dram (by decide))).imp fun _ h => h.1⟩

/-- The dike has a pool of four TCBs from 0x4000_8000, the first of which is the issuing task's, of launch 3; the second a released task
that waits for two others, the third one that has ended. `s5` points at a record of import 0 in the TCM; `s6` to `s8` hold the
handles. -/
def tLaunch : Launch :=
  { stk := 0, dike := 1, queue := 0, ltag := 9, graph := 2, phase := 1, closes := false, live := 2, run := 0, failed := 0, fault := 0, vector := 0,
    signal := false, record := false, arg := 0, digest := 99, cancelled := false }

def tTask : State :=
  let s := tBytes [(0x40008003, [5] ++ leBytes 4 0), (0x40008043, [1] ++ leBytes 4 2), (0x40008083, [5] ++ leBytes 4 1), (0x40008038, [9, 0, 2, 1])]
    (tWith [(5, 0xFFFFFFFFF8000100), (6, 0x40008040), (7, 0x40008080), (8, 0x40009000)])
  let s := s.modStack 0 fun k => k.setDike 1 48 (leBytes 8 0x40008000 ++ leBytes 4 4)
  { (s.modMe fun t => { t with task := 0x40008000 }) with
    launches := [(3, tLaunch)], members := [(memberKey 1 0x40008000, 3)] }

theorem test_meets_TcbLayout (h : TcbLayout) : ∀ i : TcbInit, i.phase < 16 → i.bytes.length = 64 := fun i hi => (h i hi).1

theorem no_cancel {s : State} {dike lid : Nat} (hl : s.levels = [])
    (h : ((s.launches.find? lid).map Launch.cancelled).getD false = false ∧ ((s.launches.find? 0).map Launch.cancelled).getD false = false) :
    ¬anyCancelled s dike lid := by
  have lev (k : Nat) : s.level k = LevelSt.none := by simp [State.level, hl, SMap.getD, SMap.find?]
  rintro ⟨g, p, hc | hc⟩
  · cases hf : s.launches.find? lid <;> simp_all [State.cancelledAt, LevelSt.none]
  · cases hf : s.launches.find? 0 <;> simp_all [State.cancelledAt, LevelSt.none]

def tRec (s : State) : Got × State := tGot false s 0xFFFFFFFFF8000100 (tcmPa 0 0x100) 64

/-- The same with its launch cancelled, and with no TCB free. -/
def tGone : State := { tTask with launches := [(3, { tLaunch with cancelled := true })] }
def tNoTcb : State := tBytes [(0x400080C3, [5])] tTask

/-- The TCB that is free behind the record, and the state that found it. -/
def tTcb (s : State) : Option Nat × State := (tRec s).2.tcbFree 0 1

theorem test_meets_NewTasks (h : NewTasks) :
    (∃ t, exec (.tnew 9 5 0) tTask = .next t) ∧ (∃ t, exec (.tnew 9 5 0) tGone = .next t) ∧ ∃ t, exec (.tnew 9 5 0) tNoTcb = .next t := by
  have run (s : State) (h5 : (s.sval 5).toNat = 0xFFFFFFFFF8000100) (hr : Ready s [.s 5, .s 0] [.s 9] ∧ s.loadsDone = true ∧ s.storesDone = true ∧ (s.sval 0).toNat < 2 ^ 31)
      (hg : tReadable false s 0xFFFFFFFFF8000100 (tcmPa 0 0x100) 64 = true)
      (hi : (tRec s).2.myImage = some tRunning ∧ leAt (tRec s).1.data 0 2 = 0) (hc : stkOf s.cur = 0 ∧ s.jobOf s.cur = 1) :=
    h s (tRec s).2 (tTcb s).2 9 5 0 (tRec s).1.data tRunning (tTcb s).1 hr.1 hr.2.1 hr.2.2.1 hr.2.2.2 (by rw [h5]) (by rw [h5]; exact reads_of false _ hg)
      hi.1 (by rw [hi.2]; decide) (by rw [hc.1, hc.2]; rfl)
  have a := (run tTask (by decide +kernel) (by decide +kernel) (by decide +kernel) (by decide +kernel) (by decide +kernel)).2 0x400080C0 9 2 1
    (tTcb tTask).2.myLevels.2 (by decide +kernel) (pair (by decide +kernel))
  have b := (run tGone (by decide +kernel) (by decide +kernel) (by decide +kernel) (by decide +kernel) (by decide +kernel)).2 0x400080C0 9 2 1
    (tTcb tGone).2.myLevels.2 (by decide +kernel) (pair (by decide +kernel))
  have c := (run tNoTcb (by decide +kernel) (by decide +kernel) (by decide +kernel) (by decide +kernel) (by decide +kernel)).1 (by decide +kernel)
  exact ⟨(a.1 (no_cancel (by rfl) (by decide +kernel)) (by decide +kernel)).imp fun _ h => h.1,
    (b.2 _ (by rfl) rfl (by decide) (by decide)).imp fun _ h => h.1, ⟨_, c⟩⟩

/-- The statuses of two handles, and the state behind them. -/
def tSt (s : State) (h : Nat) : Nat × State := s.handleStatus h
def tNum (s : State) (va n : Nat) : Nat × State := s.sysNum 0 1 va n

theorem all_performed {s : State} (h : s.loadsDone = true ∧ s.storesDone = true) : allPerformed s := h

/-- The same task in a dike without a page table, whose areas lie in the stack; the second task waits for one other. -/
def tAreas : State :=
  ((tTask.modStack 0 fun k => (k.setDike 1 8 (leBytes 8 0)).setDike 1 48 (leBytes 8 0x40008000 ++ leBytes 4 4)).modStack 0 fun k =>
    { k with areas := putBytes [] (areaKey 1 0x40008043) ([1] ++ leBytes 4 1) })

theorem test_meets_Releases (h : Releases) :
    (∃ t, exec (.trel 6) tTask = .next t) ∧ (∃ t, exec (.trel 6) tAreas = .next t) ∧ ∃ t, exec (.trel 8) tTask = .next t := by
  have run (s : State) (n : Nat) (h6 : (s.sval 6).toNat = 0x40008040) (hr : Ready s [.s 6] [])
      (ht : (tSt s 0x40008040).1 = 1) (hp : s.loadsDone = true ∧ s.storesDone = true) (hc : stkOf s.cur = 0 ∧ s.jobOf s.cur = 1)
      (hn : (tNum (tSt s 0x40008040).2 0x40008044 4).1 = n) :=
    h.1 s (tSt s 0x40008040).2 (tNum (tSt s 0x40008040).2 0x40008044 4).2 6 1 n hr
      ⟨by rw [h6]; exact pair ht, by decide, by decide⟩ hp (by rw [h6, hc.1, hc.2]; exact pair hn)
  have a := run tTask 2 (by decide +kernel) (by decide +kernel) (by decide +kernel) (by decide +kernel) (by decide +kernel) (by decide +kernel)
  have b := run tAreas 1 (by decide +kernel) (by decide +kernel) (by decide +kernel) (by decide +kernel) (by decide +kernel) (by decide +kernel)
  have h6 : (tAreas.sval 6).toNat = 0x40008040 := by decide +kernel
  exact ⟨(a.2.1 (by decide)).imp fun _ h => h.1,
    (b.2.2 (by decide +kernel) (by rw [h6]; intro i hi; revert i; decide +kernel) (by decide) (by decide +kernel)).imp fun _ h => h.1,
    ⟨_, h.2 tTask _ 8 _ (by decide +kernel) rfl (.inl (by decide +kernel))⟩⟩

/-- Its dike has four blocks, the first of which is the list of the first task with one successor. -/
def tList : State := tAreas.modStack 0 fun k =>
  { k with areas := putBytes (putBytes [] (areaKey 1 0x40008008) (leBytes 8 0x4000A000)) (areaKey 1 0x4000A008) [3] }

theorem test_meets_Successors (h : Successors) :
    (tList.addSuccessor 0 1 0x40008000 0x40008040).1 = true := by
  rw [h tList (tNum tList 0x40008008 8).2 _ 0 1 0x40008000 0x40008040 0x4000A000 1 (fun j => if j = 0 then 3 else 0) (by decide +kernel)
    (pair (by decide +kernel)) (by decide) (by decide +kernel) (by intro i hi; revert i; decide +kernel) (by decide +kernel) (by decide) rfl
    (by decide) rfl]

theorem test_meets_Dependences (h : Dependences) :
    (∃ t, exec (.tdep 6 7) tTask = .next t) ∧ (∃ t, exec (.tdep 7 6) tTask = .next t) ∧ ∃ t, exec (.tdep 8 6) tTask = .next t := by
  have h6 : (tTask.sval 6).toNat = 0x40008040 := by decide +kernel
  have h7 : (tTask.sval 7).toNat = 0x40008080 := by decide +kernel
  have run (a b x y st st2 n : Nat) (ha : (tTask.sval a).toNat = x) (hb : (tTask.sval b).toNat = y) (hr : Ready tTask [.s a, .s b] [])
      (h1 : (tSt tTask x).1 = st) (n1 : st ≠ 0 ∧ st ≠ 8) (h2 : (tSt (tSt tTask x).2 y).1 = st2) (n2 : st2 ≠ 0 ∧ st2 ≠ 8)
      (hn : (tNum (tSt (tSt tTask x).2 y).2 (y + 4) 4).1 = n) :=
    h.1 tTask (tSt tTask x).2 (tSt (tSt tTask x).2 y).2 (tNum (tSt (tSt tTask x).2 y).2 (y + 4) 4).2 a b st st2 n hr
      ⟨by rw [ha]; exact pair h1, n1⟩ ⟨by rw [hb]; exact pair h2, n2⟩ (all_performed (by decide +kernel)) (by rw [hb]; exact pair hn)
  have a := run 6 7 _ _ 1 5 1 h6 h7 (by decide +kernel) (by decide +kernel) (by decide) (by decide +kernel) (by decide) (by decide +kernel)
  have b := run 7 6 _ _ 5 1 2 h7 h6 (by decide +kernel) (by decide +kernel) (by decide) (by decide +kernel) (by decide) (by decide +kernel)
  exact ⟨((a.2.2 (by decide) (by decide) (by decide) _).1 (by rw [h6, h7]; exact pair (by decide +kernel))).imp fun _ h => h.1,
    (b.2.1 (by decide) (.inl rfl)).imp fun _ h => h.1, ⟨_, (h.2 tTask _ 8 6 _ (by decide +kernel) rfl).1 (.inl (by decide +kernel))⟩⟩

/-- The dike with a page table has the task's TCB on a device page of DRAM, in a line that the stack holds. -/
def tTcbLine : State := tTask.setLine (proxyDev 0 0x40008044) (devLine 0x40008044) { Line.blank .home with wv := 0xFFFF }

/-- Behind the stack's translation for a read or a write. -/
def tAgent (wr : Bool) : State := (tTcbLine.xlateAgent 0 1 none 0x40008044 wr).2

theorem test_meets_SystemAreas (h : SystemAreas) :
    (tNum tAreas 0x40008044 4).1 = 1 ∧ area (tAreas.sysPut 0 1 0x40008050 [7]) 0 1 0x40008050 1 = [7]
      ∧ (tNum tTcbLine 0x40008044 4).1 = (tAgent false).num 0x40008044 4 ∧ (tTcbLine.sysPut 0 1 0x40008044 [7]).bytes 0x40008044 1 = [7] := by
  have pl : plainVa 0x40008044 1 := by intro i hi; revert i; decide +kernel
  have h1 := h.1 tAreas 0 1 0x40008044 4 (by decide +kernel) pl
  have h2 := h.2.1 tAreas 0 1 0x40008050 [7] (by decide +kernel) (by intro i hi; revert i; decide +kernel) (by decide +kernel)
  have line (wr : Bool) : (tAgent wr).homeLine? 0x40008044 = some { Line.blank .home with wv := 0xFFFF } := by cases wr <;> decide +kernel
  have far (wr : Bool) : noFarLine (tAgent wr) 0 0x40008044 := by
    intro l hl
    have e : (tAgent wr).line? (proxyOf 0 (devLine 0x40008044)) (devLine 0x40008044) = some { Line.blank .home with wv := 0xFFFF } := line wr
    rw [e] at hl; cases hl; nofun
  have held : wordsHeld (tAgent false) 0x40008044 4 := by
    intro l hl
    rw [line] at hl; cases hl; decide
  obtain ⟨t, h3, _⟩ := h.2.2.1 tTcbLine (tAgent false) 0 1 0x40008044 4 0x40008044 true false (by decide +kernel) pl (by decide) (by decide)
    (pair (by decide +kernel)) (by decide) (by decide) (far false) (by rw [line]; rfl) held (quiet_of (by decide +kernel)) (clean_of (by decide +kernel))
  have h4 := h.2.2.2 tTcbLine (tAgent true) 0 1 0x40008044 0x40008044 [7] true false (by decide +kernel) pl nofun (by decide)
    (pair (by decide +kernel)) (by decide) (by decide) (far true) (.inl (by rw [line]; rfl)) (fun _ => .inl (by rw [line]; rfl)) (by decide +kernel)
  exact ⟨by rw [tNum, h1]; decide +kernel, h2.1, by rw [tNum, h3], h4.1⟩

/-- The task has ended by another strand. -/
def tEnded : State := { tTask with ended := [memberKey 1 0x40008000] }

theorem test_meets_TasksEnd (h : TasksEnd) :
    (∃ t, exec .tdone tTask = .next t ∧ t.launches ≠ tTask.launches) ∧ (∃ t, exec .tdone tEnded = .next t ∧ t.launches = tEnded.launches)
      ∧ ∃ t, exec .tdone tState = .next t := by
  obtain ⟨t, h1, _, _, _, h5, _⟩ := h tTask (by decide +kernel) (by rintro g hg; cases hg)
  refine ⟨⟨t, h1, fun he => ?_⟩, (h tEnded (by decide +kernel) (by rintro g hg; cases hg)).imp fun _ h => ⟨h.1, h.2.2.2.1 (.inr (by decide +kernel))⟩,
    (h tState (by decide +kernel) (by rintro g hg; cases hg)).imp fun _ h => h.1⟩
  have e := h5 (by decide +kernel) tLaunch (by decide +kernel) (by decide +kernel) (by decide)
  rw [he] at e
  exact absurd e (by decide +kernel)

/-- A range object at `s5` in the TCM: 0 to an end, in chunks of at least 2, for 4 strands. -/
def tRange (next fin : Nat) : State :=
  tBytes [(tcmPa 0 0x100, leBytes 8 next ++ leBytes 8 fin ++ leBytes 4 2 ++ leBytes 4 4)] (tWith [(5, 0xFFFFFFFFF8000100)])

theorem test_meets_Ranges (h : Ranges) : (∃ t, exec (.range 6 5) (tRange 0 100) = .next t) ∧ ∃ t, exec (.range 0 5) (tRange 100 100) = .next t := by
  have ha : ((tRange 0 100).sval 5).toNat = 0xFFFFFFFFF8000100 := by decide +kernel
  have hb : ((tRange 100 100).sval 5).toNat = 0xFFFFFFFFF8000100 := by decide +kernel
  exact ⟨((h (tRange 0 100) (tOpen false (tRange 0 100) 0xFFFFFFFFF8000100 (tcmPa 0 0x100) 32) 6 5 (tcmPa 0 0x100) (by decide +kernel)
      ⟨by decide +kernel, by decide +kernel, by decide +kernel⟩ (by decide) (by decide) (by rw [ha])
      (by rw [ha]; exact opens_of false _ (by decide +kernel)) (by decide +kernel) (not_dram (by decide)) (by decide +kernel)
      (by decide +kernel) (by decide +kernel)).1 (by decide +kernel)).imp fun _ h => h.1,
    ((h (tRange 100 100) (tOpen false (tRange 100 100) 0xFFFFFFFFF8000100 (tcmPa 0 0x100) 32) 0 5 (tcmPa 0 0x100) (by decide +kernel)
      ⟨by decide +kernel, by decide +kernel, by decide +kernel⟩ (by decide) (by decide) (by rw [hb])
      (by rw [hb]; exact opens_of false _ (by decide +kernel)) (by decide +kernel) (not_dram (by decide)) (by decide +kernel)
      (by decide +kernel) (by decide +kernel)).2 (by decide +kernel)).imp fun _ h => h.1⟩

theorem levels_of (s : State) : s.myLevels = ((s.myLevels.1.1, s.myLevels.1.2.1, s.myLevels.1.2.2), s.myLevels.2) := rfl

theorem test_meets_YieldAndCancel (h : YieldAndCancel) :
    (∃ t, exec .yield tState = .next t) ∧ (∃ t, exec (.tcancel .launch) tTask = .next t) ∧ ∃ t, exec (.tlev 6 .job) tTask = .next t :=
  ⟨(h.1 tState).imp fun _ h => h.1,
   (h.2.1 tTask _ .launch _ _ _ (levels_of tTask) (fun _ => by decide +kernel)).imp fun _ h => h.1,
   (h.2.2 tTask _ 6 .job _ _ _ (by decide +kernel) (levels_of tTask)).imp fun _ h => h.1⟩

/-! ### Keyed tiles and censuses -/

/-- A directory of one valid entry, of key 5 and a tile at 0x4000_0100, in polder 0; polder 1 belongs to the dike too; `s3` names the tile,
`s8` polder 1. -/
def tEntry : KEnt := { key := 5, addr := 0x40000100, len := 64, state := 1, tested := 0 }
def tDir : State :=
  ((tWith [(3, 0x40000100), (6, 0x40000200), (8, 128)]).modPolder 0 fun p => { p with kdir := [(0, tEntry)] }).modPolder 1
    fun p => { p with dike := 1 }

theorem test_meets_Directory (h : Directory) :
    (∃ t, exec (.kput 1 6 64) tDir = .next t) ∧ (∃ t, exec (.kdel 1 3) tDir = .next t) ∧ (∃ t, exec (.kfind 7 1) tDir = .next t)
      ∧ ∃ t, exec (.kfind 7 2) tDir = .next t := by
  have h6 : (tDir.sval 6).toNat = 0x40000200 := by decide +kernel
  obtain ⟨t, _, h3, _⟩ := h.2.2 tDir 7 1 (by decide +kernel)
  obtain ⟨u, _, h4, _⟩ := h.2.2 tDir 7 2 (by decide +kernel)
  exact ⟨(h.1 tDir _ 1 6 64 1 [{ lo := 0, len := 64, tgt := .dev 0x40000200 true false }] (by decide +kernel) (by rw [h6])
      (by rw [h6]; exact runs_one (by decide +kernel)) (by decide +kernel) (by decide +kernel) (by decide) (by decide +kernel)
      (by unfold Present; decide +kernel)).imp fun _ h => h.1,
    (h.2.1 tDir 1 3 (0, tEntry) [] [] (by decide +kernel) (by decide +kernel) (by decide +kernel) rfl (by decide +kernel) (by decide +kernel)
      nofun (by decide +kernel)).imp fun _ h => h.1, ⟨t, h3⟩, ⟨u, h4⟩⟩

/-- A census of the dike, asked by slot 0 for key 5. -/
def tCensus : Census :=
  { state := 1, key := 5, arg := 0, asker := 0, scope := .stack, comb := .addI64, digest := 77, dst := 6, expected := 1, reported := 0, spawned := 0,
    done := 0, holds := 0, acc := none, time := 0, task := 0, prio := 0, pendDirs := [0], pendAcks := [0] }

/-- All 64 slots are taken. -/
def tTaken : State := { tState with census := (List.range 64).map fun c => (censusKey 1 c, tCensus) }

theorem test_meets_CensusesOpen (h : CensusesOpen) :
    (∃ t, exec (.sol 6 1 2 0 .stack .addI64) tState = .next t) ∧ ∃ t, exec (.sol 6 1 2 0 .stack .addI64) tTaken = .next t := by
  obtain ⟨t, _, h1, _⟩ := (h tState 6 1 2 0 .stack .addI64 tRunning (by decide +kernel) (by decide) (by decide +kernel) (by decide +kernel)).1 0
    (by decide) (by decide +kernel) nofun
  exact ⟨⟨t, h1⟩, ⟨_, (h tTaken 6 1 2 0 .stack .addI64 tRunning (by decide +kernel) (by decide) (by decide +kernel) (by decide +kernel)).2
    (by decide +kernel)⟩⟩

/-- The issuing task is a responder of census 2 of slot 0. -/
def tResp : State := tBytes [(0x4000803B, [0x11]), (0x40008030, leBytes 8 2)] tTask
def tResp2 : Nat × State := tNum tResp.isResponder.2 0x40008030 8
def tResp4 : Nat × State := tNum (tResp2.2.modMyStack fun k => { k with kept := k.kept.erase (keptKey 1 0x40008000) }) 0x4000803B 1

theorem test_meets_Replies (h : Replies) : (∃ t, exec (.reply 1) tResp = .next t) ∧ ∃ t, exec (.reply 1) tTask = .next t := by
  obtain ⟨t, _, h1, _⟩ := h.1 tResp tResp.isResponder.2 tResp2.2 tResp4.2 (tNum tResp4.2 0x40008030 8).2 1 2 0x11 2 (by decide +kernel)
    (pair (by decide +kernel)) (by decide +kernel) (by rintro g hg; cases hg) (by decide +kernel) (pair (by decide +kernel)) (pair (by decide +kernel)) (by decide)
    (pair (by decide +kernel))
  exact ⟨⟨t, h1⟩, ⟨_, h.2 tTask tTask.isResponder.2 1 (by decide +kernel) (pair (by decide +kernel))⟩⟩

/-- A move of entry 0 of polder 0 to entry 0 of polder 1, acknowledged or not. -/
def tMove (acked : Bool) : Move := { thr := 0, src := 0, dst := 1, dstEnt := 0, held := [], acked := acked }
def tMoving (acked : Bool) : State :=
  (tDir.modPolder 0 fun p => { p with moves := [tMove acked] }).modMe fun t => { t with prog := .kmove }

theorem test_meets_Moves (h : Moves) :
    (∃ t, exec (.kmove 3 0) tDir = .next t) ∧ (∃ t, exec (.kmove 3 8) tDir = .next t)
      ∧ (∃ t, exec (.kmoveHoldAck 0 0) (tMoving false) = .next t) ∧ ∃ t, exec (.kmoveCommit 0 0) (tMoving true) = .next t := by
  have own := (h.1 tDir 3 0 0 0 tEntry (by decide +kernel) (by decide +kernel) (by decide +kernel) (by decide +kernel) rfl).1
    (by decide +kernel)
  obtain ⟨t, _, h2, _⟩ := (h.1 tDir 3 8 0 0 tEntry (by decide +kernel) (by decide +kernel) (by decide +kernel) (by decide +kernel) rfl).2
    (by decide +kernel) (by decide +kernel) (fun c x hx => by
      have hn : tDir.census.find? (censusKey (tDir.jobOf tDir.cur) c) = none := rfl
      rw [hn] at hx; cases hx)
  exact ⟨⟨_, own⟩, ⟨t, h2⟩,
    (h.2.1 (tMoving false) 0 0 (tMove false) (by decide +kernel) rfl).imp fun _ h => h.1,
    let ⟨v, _, h4, _⟩ := h.2.2 (tMoving true) 0 0 (tMove true) (by decide +kernel) rfl (by decide +kernel) (by decide) (by decide +kernel)
      (by decide +kernel) (by decide +kernel)
    ⟨v, h4⟩⟩

/-- Census 2 of the dike is open, in another state, or asked for another key. -/
def tAsked (x : Census) : State := { tDir with census := [(censusKey 1 2, x)] }

theorem test_meets_DirectoriesReport (h : DirectoriesReport) :
    (∃ t, exec (.censusDirectoryProcess 0 2) (tAsked { tCensus with key := 6 }) = .next t)
      ∧ ∃ t, exec (.censusDirectoryProcess 0 2) (tAsked tCensus) = .next t := by
  have run (x : Census) (hd : 0 ∈ x.pendDirs) (hx : (tAsked x).census.find? (censusKey ((tAsked x).polder 0).dike 2) = some x) :=
    h (tAsked x) 0 2 x hx hd (by decide) rfl
  obtain ⟨t, _, _, _, h1, _⟩ := run { tCensus with key := 6 } (by decide) (by decide +kernel)
  obtain ⟨u, _, _, _, h2, _⟩ := run tCensus (by decide) (by decide +kernel)
  exact ⟨⟨t, h1⟩, ⟨u, h2⟩⟩

/-- A packet of census 2 at the router of slice 0, and in its table. -/
def tPkt (reported : Nat) (val : Option W64) : CensusPkt :=
  { dike := 1, slot := 2, asker := 0, comb := .addI64, val := val, done := 0, spawned := 0, reported := reported, holds := 0 }
def tRouter (cin comb : List CensusPkt) : State := tState.modSlice 0 fun x => { x with cin := cin, comb := comb }

theorem test_meets_PacketsCombine (h : PacketsCombine) :
    (∃ t, exec (.censusPacketCombine 0) (tRouter [tPkt 1 (some 3)] [tPkt 0 (some 4)]) = .next t ∧ ∃ r, (t.slice 0).comb[0]? = some r ∧ r.val = some 7)
      ∧ (∃ t, exec (.censusPacketCombine 0) (tRouter [tPkt 1 none] []) = .next t ∧ (t.slice 0).comb = [tPkt 1 none])
      ∧ (∃ t, exec (.censusPacketCombine 0) (tRouter [tPkt 1 none] (List.replicate 16 { tPkt 0 none with slot := 9 })) = .next t)
      ∧ ∃ t, exec (.combineEntryForward 0) (tRouter [] [tPkt 1 none]) = .next t := by
  obtain ⟨t, h1, _, _, _, _, hm⟩ := (h (tRouter [tPkt 1 (some 3)] [tPkt 0 (some 4)]) 0).1 (tPkt 1 (some 3)) [] (by rfl)
  obtain ⟨_, hl, _, r, hr, _, _, _, _, _, hv⟩ := hm 0 (tPkt 0 (some 4)) (by rfl) ⟨rfl, rfl, rfl⟩
  obtain ⟨u, h2, _, _, hn, _⟩ := (h (tRouter [tPkt 1 none] []) 0).1 (tPkt 1 none) [] (by rfl)
  exact ⟨⟨t, h1, r, hr, hv 4 3 rfl rfl⟩, ⟨u, h2, (hn nofun (by decide +kernel)).1⟩,
    ((h (tRouter [tPkt 1 none] (List.replicate 16 { tPkt 0 none with slot := 9 })) 0).1 (tPkt 1 none) [] (by rfl)).imp fun _ h => h.1,
    ((h (tRouter [] [tPkt 1 none]) 0).2 (tPkt 1 none) [] (by rfl)).imp fun _ h => h.1⟩

/-- The last report of census 2 at its stack, or one before it, while `s6` and `s7` wait. -/
def tReport (expected : Nat) : State :=
  let s := { tState with census := [(censusKey 1 2, { tCensus with expected := expected })] }
  (s.modStack 0 fun k => { k with creports := [tPkt 1 none] }).modThread 0 fun t =>
    (t.setSt (.s 6) (.owed .census)).setSt (.s 7) (.owed .census)

theorem test_meets_CensusesComplete (h : CensusesComplete) :
    (∃ t, exec (.censusReport 0) (tReport 2) = .next t) ∧ ∃ t, exec (.censusReport 0) (tReport 1) = .next t := by
  obtain ⟨t, _, h1, _⟩ := (h.1 (tReport 2) 0 (tPkt 1 none) [] { tCensus with expected := 2 } (by rfl) (by decide +kernel) rfl rfl).1
    (.inl (by decide))
  obtain ⟨u, _, h2, _⟩ := (h.1 (tReport 1) 0 (tPkt 1 none) [] tCensus (by rfl) (by decide +kernel) rfl rfl).2 rfl rfl rfl (by rfl) (by rfl)
    (by rfl) (by rfl) ⟨by decide +kernel, by decide +kernel, by decide +kernel⟩ (by decide)
  exact ⟨⟨t, h1⟩, ⟨u, h2⟩⟩

theorem test_meets_CensusesComplete_end (h : CensusesComplete) :
    (∃ t, exec (.censusCompletionBroadcast 0 2) (tAsked { tCensus with state := 2 }) = .next t)
      ∧ (∃ t, exec (.censusSlotFree 1 2) (tAsked { tCensus with state := 2, pendAcks := [] }) = .next t)
      ∧ exec (.censusSlotFree 1 2) (tAsked tCensus) = .next (tAsked tCensus) :=
  ⟨(h.2.1 (tAsked { tCensus with state := 2 }) 0 2 { tCensus with state := 2 } (by decide +kernel) rfl (by decide)).imp fun _ h => h.1,
   ((h.2.2 (tAsked { tCensus with state := 2, pendAcks := [] }) 1 2 _ (by rfl) (by decide +kernel)).1 rfl rfl).imp fun _ h => h.1,
   (h.2.2 (tAsked tCensus) 1 2 _ (by rfl) (by decide +kernel)).2 (.inl (by decide))⟩

/-- A responder of the first task's census that waits for a TCB. -/
def tResponder : Responder :=
  { task := 0x40008000, asker := 0, slot := 2, ent := 0, key := 5, addr := 0x40000100, len := 64, arg := 0, digest := 77, prio := 3, release := 8 }
def tWaits : State := tTask.modPolder 0 fun p => { p with pendResp := [tResponder] }
def tWaits1 : Option Nat × State := tWaits.tcbFree 0 1

theorem test_meets_RespondersAreCreated (h : RespondersAreCreated) :
    (∃ t, exec (.pendingResponderCreate 0) tWaits = .next t) ∧ ∃ t, exec (.responderWiden 0) tWaits = .next t := by
  obtain ⟨t, _, h1, _⟩ := h.1 tWaits tWaits1.2 _ 0 0x400080C0 tResponder []
    (tWaits1.2.tcbLevels 0 1 0x40008000).1 (by decide +kernel) (pair (by decide +kernel)) (pair (by decide +kernel)) (by decide +kernel)
    (no_cancel (by rfl) (by decide +kernel))
  exact ⟨⟨t, h1⟩, (h.2.2 tWaits 0).imp fun _ h => h.1⟩

/-! ### Copies, tags, puts and gets -/

/-- Copy records from 0x4000_A000, of which record 1 has stopped on tag 2 and record 2 runs on tag 3; `s5` to `s7` hold a length, a
destination and a source; `s8` names record 1, `s9` is too long, `s10` overlaps the destination. -/
def tCopyRec (dst src n tag status : Nat) : List Byte :=
  leBytes 8 dst ++ leBytes 8 src ++ leBytes 4 n ++ leBytes 4 0 ++ [BitVec.ofNat 8 tag, BitVec.ofNat 8 status]
def tRun (killed : Bool) : CopyRun := { idx := 2, ep := 0, after := 0, stop := none, killed := killed }
def tCopy (killed : Bool) : State :=
  let s := tBytes [(0x4000A080, tCopyRec 0x40001000 0x40002000 64 2 2), (0x4000A100, tCopyRec 0x40003000 0x40002000 32 3 1)]
    (tWith [(5, 64), (6, 0x40001000), (7, 0x40002000), (8, 0x4000A080), (9, 16385), (10, 0x40001020)])
  (s.modStack 0 fun k => k.setDike 1 104 (leBytes 8 0x4000A000)).modCore 0 fun c =>
    { c with copies := [tRun killed], tg := ~~~8, tagCount := [(3, 1)] }

theorem bar_checked (s : State) : BarChecked s 0 s := fun k => by simp [State.withCopyBar]

def tIdle : List (Nat × CopyRec) × State := (tCopy false).copiesWith (coreOf (tCopy false).cur) fun r => r.status == 0

theorem cons_of {α β : Type} {l : List (α × β)} {x : α × β} (h : l.isEmpty = false) : l = ((l.headD x).1, (l.headD x).2) :: l.drop 1 := by
  cases l with
  | nil => cases h
  | cons a l => rfl

/-- The same with all sixteen records in use. -/
def tNoRecord : State :=
  tBytes ((List.range 16).map fun i => (0x4000A019 + 128 * i, [(2 : Byte)])) (tCopy false)

theorem test_meets_CopiesStart (h : CopiesStart) :
    (∃ t, exec (.cpy 5 6 7 0 4 false) (tCopy false) = .next t) ∧ (∃ t, exec (.cpyrep 8 0 4 true) (tCopy false) = .next t)
      ∧ (∃ t, exec (.cpy 5 6 7 0 4 false) tNoRecord = .next t) := by
  have run (s s2 : State) (l : List (Nat × CopyRec)) (hr : Ready s [.s 5, .s 6, .s 7, .s 0] []
      ∧ (s.sval 5).toNat = 64 ∧ (s.sval 6).toNat = 0x40001000 ∧ (s.sval 7).toNat = 0x40002000 ∧ s.me.roam = false)
      (hl : s.copiesWith (coreOf s.cur) (fun r => r.status == 0) = (l, s2)) (hw : SMap.wf s.myCore.tagCount = true) :=
    h.1 s s s2 5 6 7 0 4 false l (by decide) hr.1 (by rw [hr.2.1]; decide) (by rw [hr.2.1, hr.2.2.1]; decide)
      (by rw [hr.2.1, hr.2.2.1, hr.2.2.2.1]; decide) hr.2.2.2.2 (bar_checked _) hl hw
  obtain ⟨t, _, h1, _⟩ := (run (tCopy false) tIdle.2 tIdle.1 (by decide +kernel) (Prod.eta _).symm (by decide +kernel)).2
    (tIdle.1.headD (0, copyRecOf [])).1 (tIdle.1.headD (0, copyRecOf [])).2 (tIdle.1.drop 1) (cons_of (by decide +kernel))
  obtain ⟨u, h2, _⟩ := (h.2.1 (tCopy false) ((tCopy false).copyRec (coreOf (tCopy false).cur) 1).2 8 0 4 1 true
    ((tCopy false).copyRec (coreOf (tCopy false).cur) 1).1 (by decide)
    (by decide +kernel) (by decide +kernel) (Prod.eta _).symm).2 _ (.inl (by decide +kernel)) (by decide +kernel) (bar_checked _) (by decide +kernel)
  exact ⟨⟨t, h1⟩, ⟨u, h2⟩, ⟨_, (run tNoRecord _ _ (by decide +kernel) (Prod.eta _).symm (by decide +kernel)).1 (by decide +kernel)⟩⟩

theorem test_meets_CopiesStart_illegal (h : CopiesStart) :
    (∃ t, exec (.cpy 9 6 7 0 4 false) (tCopy false) = .next t) ∧ (∃ t, exec (.cpy 5 6 10 0 4 false) (tCopy false) = .next t)
      ∧ (∃ t, exec (.cpyrep 5 0 4 true) (tCopy false) = .next t) :=
  ⟨⟨_, (h.2.2.2 (tCopy false) 9 6 7 0 4 false (by decide +kernel)).1 (.inr (by decide +kernel))⟩,
    ⟨_, (h.2.2.2 (tCopy false) 5 6 10 0 4 false (by decide +kernel)).2 (by decide +kernel) (by decide +kernel) (by decide +kernel)
      (by decide +kernel)⟩,
    ⟨_, h.2.2.1 (tCopy false) 5 0 4 true (by decide +kernel) (by decide +kernel)⟩⟩

def tStopped : List (Nat × CopyRec) × State := (tCopy false).copiesWith (coreOf (tCopy false).cur) fun r => (r.status == 2 || r.status == 3) && r.tag == 2

def tOn (killed : Bool) : List CopyRun × State := (tCopy killed).runsOf (coreOf (tCopy killed).cur) 3

theorem test_meets_CopiesAreWatched (h : CopiesAreWatched) :
    (∃ t, exec (.cpystat 11 2) (tCopy false) = .next t) ∧ (∃ t, exec (.cpykill 3) (tCopy false) = .next t)
      ∧ ∃ t, exec (.cpykill 3) (tCopy true) = .next t := by
  obtain ⟨x, h1, _⟩ := h.1 (tCopy false) tStopped.2 11 2 tStopped.1 (by decide +kernel) (by decide) (Prod.eta _).symm
  have h2 := ((h.2 (tCopy false) (tOn false).2 3 (tOn false).1 (Prod.eta _).symm (by decide)).1
    ⟨tRun false, by decide +kernel, rfl⟩).imp fun _ h => h.1
  have h3 := ((h.2 (tCopy true) (tOn true).2 3 (tOn true).1 (Prod.eta _).symm (by decide)).2 (by decide +kernel) (by decide +kernel)).imp fun _ h => h.1
  exact ⟨⟨_, h1⟩, h2, h3⟩

/-- The window of polder 0, the record, the pieces of its only sector and the bytes that it moves. -/
def tWin : List (Nat × Nat × Nat) × State := (tCopy false).copyWindow 0
def tWinRec : CopyRec × State := tWin.2.copyRec 0 2
def tPieces (p : Eng × State) : List Piece × State := match p with | (.ok ps, s) => (ps, s) | (_, s) => ([], s)
def tSrc : List Piece × State :=
  tPieces (tWinRec.2.enginePieces (stkOfCore 0) ((tCopy false).polder (0 / 8)).dike (some (tRun false).ep) false
    ((tWinRec.1.src + sectorLo tWinRec.1.dst 0) % 2 ^ 64) (sectorLen tWinRec.1.dst tWinRec.1.len 0) (tRun false).after)
def tDst : List Piece × State :=
  tPieces (tSrc.2.enginePieces (stkOfCore 0) ((tCopy false).polder (0 / 8)).dike (some (tRun false).ep) true
    ((tWinRec.1.dst + sectorLo tWinRec.1.dst 0) % 2 ^ 64) (sectorLen tWinRec.1.dst tWinRec.1.len 0) (tRun false).after)

def engOk (p : Eng × State) : Bool := match p with | (.ok _, _) => true | _ => false
theorem eng_ok {p : Eng × State} (h : engOk p = true) :
    p = (.ok (tPieces p).1, (tPieces p).2) := by
  obtain ⟨e, s⟩ := p
  cases e <;> first | rfl | cases h

/-- The bytes of the sector, and the state behind them; and the copy counted. -/
def tSector : Got × State := tDst.2.readPieces (stkOfCore 0) (tRun false).ep none tSrc.1 false 3 (tDst.2.hostFor (stkOfCore 0) tSrc.1 [])

theorem sector_ready : SectorReady (tCopy false) tWin.2 tWinRec.2 tSrc.2 tDst.2 tSector.2 0 2 0 (tRun false) tWinRec.1 tSrc.1 tDst.1 []
    tSector.1 where
  run := by decide +kernel
  flight := ⟨(Prod.eta _).symm, by decide +kernel⟩
  record := (Prod.eta _).symm
  source := eng_ok (by decide +kernel)
  target := eng_ok (by decide +kernel)
  free := by decide +kernel
  noBar := by decide +kernel
  bytes := (Prod.eta _).symm

theorem test_meets_SectorsPerform (h : SectorsPerform) :
    (∃ t, exec (.copySectorPerformed 0 2 0 false [] false) (tCopy false) = .next t)
      ∧ (∃ t, exec (.copySectorPerformed 0 1 0 false [] false) (tCopy false) = .next t)
      ∧ ∃ t, exec (.copySectorPerformed 0 2 9 false [] false) (tCopy false) = .next t :=
  ⟨((h.2 (tCopy false) _ _ _ _ _ 0 2 0 (tRun false) tWinRec.1 tSrc.1 tDst.1 [] _ sector_ready).2.1 (by decide +kernel) rfl
      (by decide +kernel) rfl (by decide +kernel) (by decide +kernel)).imp fun _ h => h.1,
    ⟨_, (h.1 (tCopy false) 0 1 0 false false []).1 (by decide +kernel)⟩,
    ⟨_, ((h.1 (tCopy false) 0 2 9 false false []).2 (tRun false) (by decide +kernel) rfl (by decide +kernel)).1 (.inl (by decide +kernel))⟩⟩

/-- A copy whose one sector has performed. -/
def tLeft : State := tBytes [(0x4000A140, [1])] (tCopy false)

theorem test_meets_SectorsPerform_left (h : SectorsPerform) :
    ∃ t, exec (.copySectorPerformed 0 2 0 false [] false) tLeft = .next t ∧ (t.core 0).tg.getLsbD 3 = true := by
  have r := ((h.1 tLeft 0 2 0 false false []).2 (tRun false) (by decide +kernel) rfl (by decide +kernel)).2 (by decide +kernel) rfl
    (by decide +kernel) (by decide +kernel)
  have tag : (tLeft.copyWindow (0 / 8)).2.copyRec 0 2 |>.1.tag = 3 := by decide +kernel
  obtain ⟨t, h1, _, _, _, _, h2⟩ := r
  rw [tag] at h2
  exact ⟨t, h1, h2 (by decide +kernel)⟩

theorem test_meets_EnginesWrite (h : EnginesWrite) :
    (tState.engineWrite 0 [{ lo := 0, len := 2, tgt := .dev (tcmPa 0 0x102) false false }] [1, 2]).bytes (tcmPa 0 0x102) 2 = [1, 2]
      ∧ (tState.engineWrite 0 [{ lo := 0, len := 4, tgt := .dev 0x40000100 true false }] [1, 2, 3, 4]).bytes 0x40000100 4 = [1, 2, 3, 4] := by
  have run (pa : Nat) (bs : List Byte) (c : Bool) := h tState 0 pa bs c false (by decide +kernel) (by decide +kernel)
  exact ⟨((run (tcmPa 0 0x102) [1, 2] false).1 (by decide +kernel)).1,
    ((run 0x40000100 [1, 2, 3, 4] true).2 nofun (by decide) (by decide) (by decide) (room_of (by decide +kernel)) (fun _ => .inr (by decide +kernel))
      (no_far_of (by decide +kernel))).1⟩

/-- A copy of 64 bytes on tag 3 whose records its stack holds, and a stop at its first sector. -/
def tHeld : State := (tCopy false).modStack 0 fun k =>
  { k.setDike 1 8 (leBytes 8 0) with areas := putBytes [] (areaKey 1 0x4000A100) (tCopyRec 0x40003000 0x40002000 64 3 1) }
def tStop : CopyStop := { port := 0, sector := 0, cause := 4, addr := 0x40003000, ua := 0, flags := 0, prgi := 0 }

theorem test_meets_StopsEndCopies (h : StopsEndCopies) : ((tHeld.copyStop 0 2 tStop).core 0).tagStop.getLsbD 3 = true := by
  have e := h tHeld 0 2 tStop (tRun false) (by decide +kernel) (by decide)
  have ht : (copyRecOf (area tHeld 0 1 (tHeld.copyAddr 0 2) 128)).tag = 3 := by decide +kernel
  have r := (e (by decide +kernel) (by intro i hi; revert i; decide +kernel) (by decide +kernel) (by decide +kernel) (by decide +kernel)
    (by decide +kernel)).2.1
  exact ht ▸ r

/-- Tags 0 to 2 and 4 on are set, tag 1 bears a stop flag; `s5` to `s7` are masks. -/
def tTags : State :=
  (tWith [(5, 4), (6, 8), (7, 2)]).modCore 0 fun c => { c with tg := ~~~8, tagCount := [(3, 1)], tagStop := 2 }

theorem test_meets_TagWaits (h : TagWaits) :
    (∃ t, exec (.waitany 8 5) tTags = .next t) ∧ (∃ t, exec (.waitany 8 6) tTags = .next t) ∧ (∃ t, exec (.waitany 8 0) tTags = .next t)
      ∧ (∃ t, exec (.waitall 5) tTags = .next t) ∧ (∃ t, exec (.waitall 6) tTags = .next t) ∧ (∃ t, exec (.ffr 8 5) tTags = .next t)
      ∧ ∃ t, exec (.tagclr 7) tTags = .next t := by
  have any (a : Nat) (hr : Ready tTags [.s a] [.s 8]) := h.1 tTags 8 a hr (by decide +kernel)
  obtain ⟨x, hf, _⟩ := h.2.2.1 tTags 8 5 (by decide +kernel) (by decide +kernel)
  exact ⟨⟨_, (any 5 (by decide +kernel)).1 (by decide +kernel) (by decide +kernel)⟩,
    ⟨_, (any 6 (by decide +kernel)).2.1 (by decide +kernel) (by decide +kernel)⟩, ⟨_, (any 0 (by decide +kernel)).2.2 (by decide +kernel)⟩,
    ⟨_, (h.2.1 tTags 5 (by decide +kernel) (by decide +kernel)).1 (by decide +kernel) (by decide +kernel)⟩,
    ⟨_, (h.2.1 tTags 6 (by decide +kernel) (by decide +kernel)).2 ⟨3, by decide, by decide +kernel, by decide +kernel⟩⟩, ⟨_, hf⟩,
    (h.2.2.2 tTags 7 (by decide +kernel) (by decide +kernel)).imp fun _ h => h.1⟩

/-- One channel, of this dike, with its record at 0x4100_0000; `s5` points at a descriptor of 64 bytes in the TCM; key 7 has come early. -/
def tDesc : State :=
  let s := tBytes [(tcmPa 0 0x100, leBytes 8 0x40001000 ++ leBytes 8 0x40002000 ++ leBytes 4 64 ++ leBytes 2 0 ++ [5, 0] ++ leBytes 4 9),
      (0x41000000, leBytes 2 1)] (tWith [(5, 0xFFFFFFFFF8000100), (6, 7), (7, 8)])
  s.modStack 0 fun k => { k with tblBase := 0x41000000, bmpBase := 0x42000000, chanCount := 1, earlyKeys := [(1, 7)] }

def tDescRec : Got × State := tGot false tDesc 0xFFFFFFFFF8000100 (tcmPa 0 0x100) 64

theorem described (isGet : Bool) : Described tDesc 5 isGet tDescRec.1.data tDescRec.2 tDescRec.2 where
  home := by decide +kernel
  aligned := by decide +kernel
  read := by
    have h5 : (tDesc.sval 5).toNat = 0xFFFFFFFFF8000100 := by decide +kernel
    rw [h5]; exact reads_of false _ (by decide +kernel)
  flags := by decide +kernel
  zero := by decide +kernel
  size := by decide +kernel
  work := by decide +kernel
  final := by decide +kernel
  get := fun _ => by decide +kernel
  channel := by decide +kernel
  barrier := .inl ⟨by decide +kernel, rfl⟩

theorem test_meets_TransfersStart (h : TransfersStart) :
    (∃ t, exec (.put 5) tDesc = .next t) ∧ (∃ t, exec (.get 5) tDesc = .next t) ∧ (∃ t, exec (.wpost 5 7) tDesc = .next t)
      ∧ (∃ t, exec (.wpost 5 6) tDesc = .next t) ∧ ∃ t, exec (.wkill 5) tDesc = .next t := by
  obtain ⟨a, _, ha, _⟩ := h.1 tDesc _ _ 5 false _ (by decide +kernel) (described _) (by decide +kernel) (by decide +kernel)
  obtain ⟨b, _, hb, _⟩ := h.1 tDesc _ _ 5 true _ (by decide +kernel) (described _) (by decide +kernel) (by decide +kernel)
  obtain ⟨c, _, _, hc, _⟩ := h.2.1 tDesc _ _ 5 7 _ (by decide +kernel) (described _) (by decide +kernel) (by decide +kernel) (by decide +kernel)
  obtain ⟨d, _, _, hd, _⟩ := h.2.2.1 tDesc _ _ 5 6 _ [] [] (by decide +kernel) (described _) (by decide +kernel) (by rfl) nofun
  exact ⟨⟨a, ha⟩, ⟨b, hb⟩, ⟨c, hc⟩, ⟨d, hd⟩, (h.2.2.2 tDesc 5 (by decide +kernel)).imp fun _ h => h.1⟩

/-! ### System instructions -/

/-- Slot 7 of core 0 issues, with the record of the thread that runs in slot 0; slot 0 is live too. `s5` to `s8` hold values for control
registers and a descriptor's address. -/
def tSlot7 : State :=
  let s := tWith [(5, 4), (6, 0x40000100), (7, 2 ^ 40), (8, 0x2000), (9, 14)]
  { s.setThread 7 s.me with cur := 14 }

/-- A register may be written in slot 7. -/
theorem may_write {n : Nat} (h : n < 6 ∨ n = 0x008 ∨ (0x010 ≤ n ∧ n ≤ 0x013) ∨ (0x100 ≤ n ∧ n ≤ 0x102)) :
    writableControl (slotNo tSlot7.cur) n := by
  rcases h with h | h | h | h
  · exact .inl h
  · exact .inr (.inl ⟨h, by decide +kernel⟩)
  · exact .inr (.inr (.inl h))
  · exact .inr (.inr (.inr h))

theorem test_meets_ControlRegisters (h : ControlRegisters) :
    (∃ t, exec (.getc 6 0x019) tSlot7 = .next t) ∧ (∃ t, exec (.setc 0x011 5) tSlot7 = .next t)
      ∧ (∃ t, exec (.setc 0x008 8) tSlot7 = .next t) ∧ (∃ t, exec (.setc 0x101 6) tSlot7 = .next t) ∧ (∃ t, exec (.setc 0x013 7) tSlot7 = .next t) := by
  have set (n a : Nat) (hw : writableControl (slotNo tSlot7.cur) n) (hr : Ready tSlot7 [.s a] []) (hl : legalControl tSlot7 n (tSlot7.sval a)) :
      ∃ t, exec (.setc n a) tSlot7 = .next t :=
    ((h.2.2.2 tSlot7 n a).2.2 hw hr hl (fun _ => by decide +kernel)).imp fun _ h => h.1
  exact ⟨⟨_, h.2.1 tSlot7 6 0x019 _ rfl (by decide +kernel)⟩,
    set 0x011 5 (may_write (by decide)) (by decide +kernel) (show 1 ≤ (tSlot7.sval 5).toNat ∧ (tSlot7.sval 5).toNat ≤ 8 by decide +kernel),
    set 0x008 8 (may_write (by decide)) (by decide +kernel) (show (tSlot7.sval 8).toNat < 2 ^ 52 ∧ (tSlot7.sval 8).toNat % 2 ^ 10 = 0
      by decide +kernel),
    set 0x101 6 (may_write (by decide)) (by decide +kernel) (show (tSlot7.sval 6).toNat < 2 ^ 56 ∧ (tSlot7.sval 6).toNat % 32 = 0
      ∧ stkOfPa (tSlot7.sval 6).toNat = stkOf tSlot7.cur ∧ tSlot7.myStack.injctl.getLsbD 63 = false
      ∧ injOk (stkOf tSlot7.cur) (tSlot7.sval 6) (tSlot7.myStack.injctl &&& ~~~(1#64 <<< 62)) = true by decide +kernel),
    set 0x013 7 (may_write (by decide)) (by decide +kernel) trivial⟩

theorem test_meets_ControlRegisters_illegal (h : ControlRegisters) :
    (∃ t, exec (.getc 6 0x0FF) tSlot7 = .next t) ∧ (∃ t, exec (.setc 0x018 7) tSlot7 = .next t) ∧ ∃ t, exec (.setc 0x011 7) tSlot7 = .next t :=
  ⟨⟨_, h.2.2.1 tSlot7 6 0x0FF rfl⟩, ⟨_, (h.2.2.2 tSlot7 0x018 7).1 (by unfold writableControl; decide)⟩,
    ⟨_, (h.2.2.2 tSlot7 0x011 7).2.1 (may_write (by decide)) (by decide +kernel)
      (show ¬(1 ≤ (tSlot7.sval 7).toNat ∧ (tSlot7.sval 7).toNat ≤ 8) by decide +kernel)⟩⟩

theorem test_meets_Services (h : Services) :
    (∃ t, exec (.sysc 6 0 2) tState = .next t) ∧ (∃ t, exec (.sysc 6 0 1) tState = .next t) ∧ (∃ t, exec (.sysc 6 0 15) tState = .next t)
      ∧ ∃ t, exec (.sysc 6 1 16) tState = .next t := by
  obtain ⟨_, hpush, ho⟩ := h.2.2.2 tState 6 1 16 (by decide) (by decide +kernel)
  obtain ⟨s1, h1, _⟩ := ho (by decide +kernel) (by decide +kernel) (by decide +kernel)
  exact ⟨⟨_, h.1 tState 6 (by decide +kernel)⟩,
    ((h.2.1 tState 6 0 tRunning (by decide +kernel) (by decide +kernel)).1 (by decide +kernel) (by decide +kernel)).imp fun _ h => h.1,
    ⟨_, h.2.2.1 tState 6 0 15 (.inl (by decide))⟩, (hpush s1 h1).imp fun _ h => h.1⟩

/-- Slot 0 is held with an escalated trap. -/
def tEscal : State := tSlot7.modThread 0 fun t => { t with held := true, escal := some { cause := 5, epc := 8, addr := 0, record := 0 } }

theorem test_meets_Holds (h : Holds) :
    (∃ t, exec (.park 0) tSlot7 = .next t) ∧ (∃ t, exec (.park 9) tSlot7 = .next t) ∧ (∃ t, exec (.wake 9) tSlot7 = .next t)
      ∧ (∃ t, exec (.wake 0) tEscal = .next t) ∧ (∃ t, exec .halt tSlot7 = .next t) ∧ ∃ t, exec (.wake 7) tSlot7 = .next t := by
  obtain ⟨t, u, hp, _, _, _, hw⟩ := h.2.1 tSlot7 9 (by decide +kernel) (by decide +kernel) (by decide +kernel) (by decide +kernel)
  exact ⟨(h.1 tSlot7 0 (by decide +kernel) (by decide +kernel) (by decide +kernel)).imp fun _ h => h.1, ⟨t, hp⟩, ⟨u, (hw (by decide +kernel)).1⟩,
    (h.2.2.1 tEscal 0 (by decide +kernel) (by decide +kernel) (by decide +kernel)).imp fun _ h => h.1,
    (h.2.2.2.1 tSlot7).imp fun _ h => h.1, ⟨_, (h.2.2.2.2 tSlot7 7 (by decide +kernel) (by decide +kernel)).2⟩⟩

/-- An install descriptor at 0x4000_0100, which `s6` names, of a kind and a digest, for the 36 bytes of the smallest portable image at
0x4000_0800; its digest; and images without a user in slots 2 and 3 but for one in 3. -/
def tSmall : List Byte := leBytes 4 1 ++ leBytes 4 0 ++ leBytes 4 4 ++ leBytes 20 0 ++ leBytes 4 0x08630005
def tSmallDigest : Nat := 0x7fdc8764a402650ade9852495e3c1f117fd29fe16d63f8d8bb2c0652dae7a58f
def tInstall (kind digest : Nat) : State :=
  (tBytes [(0x40000100, leBytes 32 digest ++ leBytes 8 0x40000800 ++ leBytes 4 36 ++ [BitVec.ofNat 8 kind]), (0x40000800, tSmall)]
    (tWith [(5, 2), (6, 0x40000100), (7, 3), (8, 4)])).modPolder 0 fun p =>
      { p with code := [(0, tRunning), (1, tCallee), (2, { tCallee with digest := 5, users := 0 }), (3, { tCallee with digest := 6 })] }

/-- The image of those bytes. -/
def tSmallImage : Image := (parsePortable tSmallDigest tSmall).getD tCallee

theorem test_meets_CodeIsInstalledAndDropped_drop (h : CodeIsInstalledAndDropped) :
    (∃ t, exec (.cdrop 5) (tInstall 1 0) = .next t) ∧ (∃ t, exec (.cdrop 7) (tInstall 1 0) = .next t)
      ∧ ∃ t, exec (.cdrop 8) (tInstall 1 0) = .next t := by
  have drop (a : Nat) (hr : Ready (tInstall 1 0) [.s a] []) := h.2 (tInstall 1 0) a hr
  exact ⟨((drop 5 (by decide +kernel)).2.2.1 { tCallee with digest := 5, users := 0 } (by decide +kernel) (by decide +kernel) rfl
      (by decide +kernel)).imp fun _ h => h.1,
    ⟨_, (drop 7 (by decide +kernel)).2.2.2 { tCallee with digest := 6 } (by decide +kernel) (by decide +kernel) (by decide)⟩,
    ⟨_, (drop 8 (by decide +kernel)).2.1 (by decide +kernel) (by decide +kernel)⟩⟩

/-- `s9` names no slot. -/
def tNoSlot : State := tWith [(9, 16)]

theorem test_meets_CodeIsInstalledAndDropped_none (h : CodeIsInstalledAndDropped) : ∃ t, exec (.cdrop 9) tNoSlot = .next t :=
  ⟨_, (h.2 tNoSlot 9 (by decide +kernel)).1 (by decide +kernel)⟩

theorem isError {ε α : Type} {x : Except ε α} {e : ε} (h : (match x with | .error e => some e | .ok _ => none) = some e) : x = .error e := by
  cases x with
  | error e => cases h; rfl
  | ok b => cases h

theorem test_meets_CodeIsInstalledAndDropped_install (h : CodeIsInstalledAndDropped) :
    (∃ t, exec (.cinst 6) (tInstall 3 0) = .next t) ∧ (∃ t, exec (.cinst 6) (tInstall 1 0) = .next t)
      ∧ ∃ t, exec (.cinst 6) (tInstall 1 tSmallDigest) = .next t := by
  have run (kind digest : Nat) (hk : Ready (tInstall kind digest) [.s 6] [] ∧ ((tInstall kind digest).sval 6).toNat = 0x40000100
      ∧ (tInstall kind digest).addrHeld 0x40000100 = false)
      (hd : allPerformed (tInstall kind digest)) (hb : clean (tInstall kind digest) 0x40000100 64) (hw : SMap.wf (tInstall kind digest).mem = true)
      (hc : ((tInstall kind digest).slice (proxyDev 0 0x40000130)).chan.failed = false) :=
    h.1 (tInstall kind digest) 6 hk.1 (by rw [hk.2.1]) (by rw [hk.2.1]; decide) hd (by rw [hk.2.1]; exact hk.2.2) (by rw [hk.2.1]; exact hb) hw
      (fun _ => .inr (by rw [hk.2.1]; exact hc))
  have a := (run 3 0 (by decide +kernel) (all_performed (by decide +kernel)) (clean_of (by decide +kernel)) (by decide +kernel) (by decide +kernel)).1 (by decide +kernel)
  have b := (run 1 0 (by decide +kernel) (all_performed (by decide +kernel)) (clean_of (by decide +kernel)) (by decide +kernel) (by decide +kernel)).2.1 6 (by decide +kernel)
    (isError (by decide +kernel)) (by decide)
  have c := (((run 1 tSmallDigest (by decide +kernel) (all_performed (by decide +kernel)) (clean_of (by decide +kernel)) (by decide +kernel) (by decide +kernel)).2.2 tSmallImage
    (by decide +kernel) (isOk (by decide +kernel))).2.2 (by decide +kernel) (fun h => absurd h (by decide +kernel)) _).1
    (pair (by decide +kernel))
  exact ⟨a.imp fun _ h => h.1, b.imp fun _ h => h.1, c.imp fun _ h => h.1⟩

/-- Slot 0 invalidates: `s5` and `s6` are a range; it waits for polders, or for none. -/
def tInv (left : List Nat) : State :=
  ((tWith [(5, 0x40000000), (6, 4096)]).modMe fun t => { t with prog := .tlbi 3 }).modStack 0 fun k => { k with tlbis := [(3, left)] }

theorem test_meets_InvalidationsAreSent (h : InvalidationsAreSent) :
    (∃ t, exec (.tlbi 0 0 true) tState = .next t) ∧ (∃ t, exec (.tlbi 5 6 true) (tInv []) = .next t)
      ∧ (∃ t, exec (.tlbi 5 6 true) (tInv [0]) = .next t) ∧ ∃ t, exec (.tlbi 0 0 false) tState = .next t :=
  ⟨(h.1 tState 0 0 0 (2 ^ 52) true nofun (.inl ⟨rfl, rfl, rfl, rfl, rfl⟩)).imp fun _ h => h.1,
   ((h.2.1 (tInv []) 5 6 3 true (by rfl)).1 (by decide +kernel)).imp fun _ h => h.1,
   ⟨_, (h.2.1 (tInv [0]) 5 6 3 true (by rfl)).2 (by decide +kernel)⟩,
   ⟨_, h.2.2 tState 0 0 nofun (by decide +kernel) (.inl (by decide +kernel))⟩⟩

/-- An uncorrectable error of the array waits at 0x4000_0400. -/
def tStruck : State := (tInv []).modStack 0 fun k => { k with upsets := [{ kind := .symbols, addr := 0x40000400, sel := 0, injected := false }] }

theorem test_meets_SectorsAreScrubbed (h : SectorsAreScrubbed) :
    (∃ t, exec (.scrub 5 6) (tInv []) = .next t) ∧ (∃ t, exec (.scrub 5 6) tStruck = .next t) ∧ ∃ t, exec (.scrub 5 0) (tInv []) = .next t := by
  have hp : (tStruck.sval 5).toNat = 0x40000000 ∧ (tStruck.sval 6).toNat = 4096 := by decide +kernel
  obtain ⟨a, _, c⟩ := (h tStruck 5 6 (by decide +kernel)).2 (by decide +kernel) (by decide +kernel)
  obtain ⟨b, _⟩ := (h (tInv []) 5 6 (by decide +kernel)).2 (by decide +kernel) (by decide +kernel)
  obtain ⟨t, h1, _⟩ := c { kind := .symbols, addr := 0x40000400, sel := 0, injected := false } (by rfl) rfl (by rw [hp.1]; decide) (by rw [hp.1, hp.2]; decide)
    (by decide +kernel) (by rfl) (by decide +kernel) (by decide +kernel)
  exact ⟨b.imp fun _ h => h.1, ⟨t, h1⟩, ⟨_, (h (tInv []) 5 0 (by decide +kernel)).1 (by decide +kernel)⟩⟩

/-! ### The host's port -/

/-- A request of slot 0 for the host page at 0x5000 of PASID 3, to read or to write, and the stack with such requests, on their way and
waiting for pages. -/
def tReq (stale : Bool) : HostReq :=
  { pasid := 3, ua := 0x5000, write := true, thrs := [(0, 0x40005000, true)], dike := 1, paging := false, sent := true, prgi := 4, rounds := 0,
    stale := stale, engines := [], stopRec := [], asked := 0, paged := false }
def tPort (reqs paging : List HostReq) (time : Nat) : State :=
  { tState.modStack 0 fun k => { k with hreqs := reqs, hwaitq := paging } with time := time }

theorem test_meets_TranslationsComplete (h : TranslationsComplete) :
    (∃ t, exec (.translationCompletion 0 0 4 0 0 false false false false) (tPort [tReq true] [] 0) = .next t)
      ∧ (∃ t, exec (.translationCompletion 0 0 4 0 0 false false false false) (tPort [tReq false] [] 0) = .next t)
      ∧ (∃ t, exec (.translationCompletion 0 0 0 0x100000000 4096 true true false false) (tPort [tReq false] [] 0) = .next t)
      ∧ (∃ t, exec (.translationCompletion 0 0 0 0x100000000 4096 true false false false) (tPort [tReq false] [] 0) = .next t)
      ∧ ∃ t, exec (.translationCompletion 0 0 0 0 4096 false false false false) (tPort [{ tReq false with rounds := 4 }] [] 0) = .next t := by
  have run (status : Nat) (x : HostReq) (r w : Bool) (ta : Nat) := h (tPort [x] [] 0) 0 0 status ta (if ta = 0 ∧ status = 4 then 0 else 4096)
    r w false false x (by rfl)
  obtain ⟨u, _, h2, _⟩ := (run 0 (tReq false) true false 0x100000000).2.2.2.1 rfl rfl rfl (by decide +kernel) (by rfl) (by decide)
  exact ⟨((run 4 (tReq true) false false 0).1 rfl).imp fun _ h => h.1, ((run 4 (tReq false) false false 0).2.1 rfl (by decide)).imp fun _ h => h.1,
    ((run 0 (tReq false) true true 0x100000000).2.2.1 rfl rfl rfl).imp fun _ h => h.1, ⟨u, h2⟩,
    ((run 0 { tReq false with rounds := 4 } false false 0).2.2.2.2 rfl rfl rfl (by decide +kernel) (.inr (by decide))).imp fun _ h => h.1⟩

/-- The same with a page request that has timed out, whose response may still come. -/
def tLate : State := (tPort [] [] 0).modStack 0 fun k => { k with latePrgi := [4] }

theorem test_meets_PageResponses (h : PageResponses) :
    (∃ t, exec (.prgResponse 0 9 0) (tPort [] [tReq false] 0) = .next t) ∧ (∃ t, exec (.prgResponse 0 4 0) (tPort [] [tReq false] 0) = .next t)
      ∧ (∃ t, exec (.prgResponse 0 4 0xF) (tPort [] [tReq false] 0) = .next t) ∧ (∃ t, exec (.prgResponse 0 4 1) (tPort [] [tReq false] 0) = .next t)
      ∧ (∃ t, exec (.prgResponseTimeout 0 4) (tPort [] [tReq false] 0) = .next t)
      ∧ (∃ t, exec (.prgResponseTimeout 0 4) (tPort [] [tReq false] 4000000000) = .next t)
      ∧ (∃ t, exec (.prgResponse 0 4 0) tLate = .next t) ∧ ∃ t, exec (.priStoppedClear 0) (tPort [] [tReq false] 0) = .next t := by
  have a := (h (tPort [] [tReq false] 0) 0 9).1 (by decide +kernel)
  have l := (h tLate 0 4).1 (by decide +kernel)
  have run (time : Nat) (hp : ((tPort [] [tReq false] time).stack 0).pageOf 4 = some (tReq false, 0)
      ∧ ((tPort [] [tReq false] time).stack 0).stopping 4 = false) :=
    ((h (tPort [] [tReq false] time) 0 4).2.1 (tReq false) 0 hp.1).2
  have b := run 0 (by decide +kernel)
  obtain ⟨ho, _, hf, hc, _⟩ := b.2 (by decide +kernel)
  obtain ⟨t, _, h1, _⟩ := ho (by decide +kernel)
  obtain ⟨v, h3, _⟩ := (h (tPort [] [tReq false] 0) 0 4).2.2
  have e := ((run 4000000000 (by decide +kernel)).2 (by decide +kernel)).2.2.2.2 (by decide +kernel) (by decide +kernel)
  exact ⟨⟨_, (a.2 0).1 (by decide +kernel)⟩, ⟨t, h1⟩, hf.imp fun _ h => h.1, (hc 1 (by decide) (by decide)).imp fun _ h => h.1,
    ⟨_, b.1 (by decide +kernel)⟩, e.imp fun _ h => h.1, ((l.2 0).2 (by decide +kernel) (by decide +kernel)).imp fun _ h => h.1, ⟨v, h3⟩⟩

/-- A host read of slot 0, for an instruction, or for a piece of its load or its store. -/
def tHostPiece : Piece := { lo := 0, len := 4, tgt := .host 0x5000 false { noSnoop := false, untranslated := false } }
def tRd (seq piece : Nat) : HostRd :=
  { tag := 0, thr := 0, seq := seq, piece := piece, epoch := false, attr := { noSnoop := false, untranslated := false } }
def tHostRd (kind : LoadKind) (seq piece : Nat) : State :=
  (tLoads [tLoad kind (.scalar 6 .ws) [tHostPiece] .host []]).modStack 0 fun k => { k with hreads := [tRd seq piece] }
def tHostSt : State :=
  (tStores [tStore .plain [tHostPiece] [1, 2, 3, 4] .filling]).modStack 0 fun k => { k with hreads := [tRd 1 0x5000] }

theorem test_meets_HostReadsComplete (h : HostReadsComplete) :
    (∃ t, exec (.hostReadCompletion 0 0 [1, 2, 3, 4] true) (tHostRd .plain 0 0x5000) = .next t)
      ∧ (∃ t, exec (.hostReadCompletion 0 0 [1, 2, 3, 4] false) (tHostRd (.amo .add false 1 0) 1 0) = .next t)
      ∧ (∃ t, exec (.hostReadCompletion 0 0 [1, 2, 3, 4] false) (tHostRd .plain 1 0) = .next t)
      ∧ ∃ t, exec (.hostReadCompletion 0 0 [1, 2, 3, 4] false) tHostSt = .next t := by
  have a := (h (tHostRd .plain 0 0x5000) 0 0 [1, 2, 3, 4] true (tRd 0 0x5000) (by rfl)).2.1 (by decide) rfl
  obtain ⟨t, _, hb, _⟩ := ((h (tHostRd (.amo .add false 1 0) 1 0) 0 0 [1, 2, 3, 4] false (tRd 1 0) (by rfl)).2.2.1
    (tLoad (.amo .add false 1 0) (.scalar 6 .ws) [tHostPiece] .host []) (by decide) (by decide) (by rfl)).1 _ _ _ _ rfl
  obtain ⟨u, _, hc, _⟩ := ((h (tHostRd .plain 1 0) 0 0 [1, 2, 3, 4] false (tRd 1 0) (by rfl)).2.2.1
    (tLoad .plain (.scalar 6 .ws) [tHostPiece] .host []) (by decide) (by decide) (by rfl)).2 nofun rfl
  obtain ⟨v, _, hd, _⟩ := (h tHostSt 0 0 [1, 2, 3, 4] false (tRd 1 0x5000) (by rfl)).2.2.2 (tStore .plain [tHostPiece] [1, 2, 3, 4] .filling)
    (by decide) (by decide) (by rfl) (by decide +kernel) (by rfl) rfl
  exact ⟨a.imp fun _ h => h.1, ⟨t, hb⟩, ⟨u, hc⟩, ⟨v, hd⟩⟩

/-- One invalidation of the host has arrived, or 32 have. -/
def tHostInv : HostInv := { itag := 5, old := true, spans := [] }
def tHinv (n : Nat) : State := tOwed.modStack 0 fun k => { k with hinvs := List.replicate n tHostInv }

theorem test_meets_HostInvalidations (h : HostInvalidations) :
    (∃ t, exec (.atsInvalidateRequest 0 6 3 0x5000 4096) (tHinv 32) = .next t)
      ∧ (∃ t, exec (.atsInvalidateRequest 0 6 3 0x5000 4096) (tHinv 1) = .next t) ∧ ∃ t, exec (.invalidateCompletion 0) (tHinv 1) = .next t :=
  ⟨⟨_, h.1 (tHinv 32) 0 6 3 0x5000 4096 (.inl (by decide +kernel))⟩,
   ((h.2.1 (tHinv 1) 0 6 3 0x5000 4096 (by decide +kernel) (by decide +kernel)).2 (by decide +kernel)).imp fun _ h => h.1,
   ((h.2.2 (tHinv 1) 0 tHostInv [] (by rfl)).2 (by decide +kernel) (by decide +kernel)).imp fun _ h => h.1⟩

/-- A miss of slot 0 on 64 KiB page 0x4000 of dike 1, or on one that has no entry, which waits or walks. -/
def tMiss (vpn : Nat) (redo : Bool) : Walk := { dike := 1, vpn := vpn, thrs := [0], slice := 0, polders := [0], started := true, redo := redo }
def tWalk (w : Walk) : State := tState.modStack 0 fun k => { k with walkq := [w], walks := [w] }

/-- What a walk of that page finds. -/
def tLeafFound : Leaf × Nat :=
  match (tWalk (tMiss 0x4000 false)).walkNow 0 1 (0x4000 * 2 ^ 16) with | (.leaf l p, _) => (l, p) | _ => (tLeaf, 0)
def tFaultFound : Nat × Option Nat :=
  match (tWalk (tMiss 0x8000 false)).walkNow 0 1 (0x8000 * 2 ^ 16) with | (.fault c e, _) => (c, e) | _ => (0, none)

theorem test_meets_Walks (h : Walks) :
    (∃ t, exec (.walkerStart 0) (tWalk (tMiss 0x4000 false)) = .next t) ∧ (∃ t, exec (.walkComplete 0 0) (tWalk (tMiss 0x4000 true)) = .next t)
      ∧ (∃ t, exec (.walkComplete 0 0) (tWalk (tMiss 0x4000 false)) = .next t)
      ∧ ∃ t, exec (.walkComplete 0 0) (tWalk (tMiss 0x8000 false)) = .next t := by
  have run (vpn : Nat) (redo : Bool) (s1 : State) (hh : (tWalk (tMiss vpn redo)).walkHeld 0 1 (vpn * 2 ^ 16) = false) :=
    (h.2 (tWalk (tMiss vpn redo)) s1 0 0 (tMiss vpn redo) (by rfl)).2 hh
  have a := (h.1 (tWalk (tMiss 0x4000 false)) 0 (tMiss 0x4000 false) [] (by rfl)).1 (by decide +kernel)
  have b := (run 0x4000 true tState (by decide +kernel)).1 rfl
  have c := (run 0x4000 false _ (by decide +kernel)).2.1 tLeafFound.1 tLeafFound.2 rfl (pair (by decide +kernel))
  have d := (run 0x8000 false _ (by decide +kernel)).2.2 tFaultFound.1 tFaultFound.2 rfl (pair (by decide +kernel))
  exact ⟨a.imp fun _ h => h.1, b.imp fun _ h => h.1, c.imp fun _ h => h.1, d.imp fun _ h => h.1⟩

/-- An invalidation at polder 0, begun or not. -/
def tPinv (started : Bool) : PolderInv := { id := 3, dike := 1, lo := 0, hi := 4096, started := started, old := true }
def tInval (started : Bool) : State := tState.modPolder 0 fun p => { p with invs := [tPinv started] }

theorem test_meets_PolderInvalidations (h : PolderInvalidations) :
    (∃ t, exec (.polderInvalidation 0) (tInval false) = .next t) ∧ ∃ t, exec (.epochDrained 0) (tInval true) = .next t :=
  ⟨((h (tInval false) 0 (tPinv false) [] (by rfl)).1 rfl).imp fun _ h => h.1,
   ((h (tInval true) 0 (tPinv true) [] (by rfl)).2.2 rfl (by decide +kernel)).imp fun _ h => h.1⟩

/-! ### Reset, management and channels -/

/-- Stack 0 in a stage of its wipe, with a service. -/
def tStage (wiping service : Nat) : State := tState.modStack 0 fun k => { k with wiping := wiping, service := service }

theorem test_meets_ResetAndWipe (h : ResetAndWipe) :
    (∃ t, exec (.coldReset 0) tState = .next t) ∧ (∃ t, exec (.sramWipeDone 0) (tStage 1 0) = .next t)
      ∧ (∃ t, exec (.dramWipeDone 0) (tStage 2 1) = .next t) ∧ exec (.sramWipeDone 0) (tStage 2 1) = .next (tStage 2 1)
      ∧ (∃ t, exec (.trainingComplete 0 [3]) (tStage 0 1) = .next t) ∧ exec (.trainingComplete 0 [3]) (tStage 1 1) = .next (tStage 1 1) :=
  ⟨(h.1 tState 0).imp fun _ h => h.1, ((h.2.1 (tStage 1 0) 0).1 (by decide +kernel)).imp fun _ h => h.1,
   ((h.2.1 (tStage 2 1) 0).2.1 (by decide +kernel)).imp fun _ h => h.1, (h.2.1 (tStage 2 1) 0).2.2.1 (by decide +kernel),
   ((h.2.2 (tStage 0 1) 0 [3]).1 (by decide +kernel) (by decide +kernel)).imp fun _ h => h.1,
   (h.2.2 (tStage 1 1) 0 [3]).2 (.inr (by decide +kernel))⟩

theorem test_meets_LifeCycle (h : LifeCycle) :
    (∃ t, exec (.lifeCycleCommand 0 1 true false) tState = .next t) ∧ ∃ t, exec (.lifeCycleCommand 0 2 true false) tState = .next t :=
  ⟨((h tState 0 1 true false).1 ⟨rfl, .inl ⟨by decide +kernel, rfl⟩⟩).imp fun _ h => h.1,
   ((h tState 0 2 true false).2 (by
      have h0 : (tState.stack 0).life = 0 := by decide +kernel
      rw [h0]; decide)).imp fun _ h => h.1⟩

theorem test_meets_Management (h : Management) :
    (∃ t, exec (.powerGovernorSample 0) tState = .next t) ∧ (∃ t, exec (.managementRegisterWrite 0 (.bar0 (0x100000 + 32 * 1023 + 31) [5])) tState = .next t)
      ∧ (∃ t, exec (.managementRegisterWrite 0 (.control (0xF4000000000 + 256 * 1 + 18) [5])) tState = .next t)
      ∧ (∃ t, exec (.managementRegisterWrite 0 (.priAllocation 600)) tState = .next t)
      ∧ (∃ t, exec (.managementRegisterWrite 0 (.phase 1 3 false)) tState = .next t) ∧ ∃ t, exec (.dikeRecordRevalidate 0 1) tState = .next t := by
  obtain ⟨t, _, h1, _⟩ := h.1 tState 0
  have m := h.2.2.2.1 tState 0 600 159 1 3 5 1 3 true (by decide) (by decide) (by decide) (by decide) (by decide) (by decide)
  exact ⟨⟨t, h1⟩, (h.2.1 tState 0 1023 31 5 (by decide) (by decide)).imp fun _ h => h.1,
    (h.2.2.1 tState 0 1 18 5 (by decide) (by decide) (by decide +kernel) (by decide +kernel)).imp fun _ h => h.1,
    m.1.imp fun _ h => h.1, (m.2.2.2.2 (by decide +kernel)).imp fun _ h => h.1,
    (h.2.2.2.2 tState 0 1 (by decide +kernel) (by decide +kernel)).imp fun _ h => h.1⟩

/-- A dike that has left the stack, with a suspended copy of one of its cores. -/
def tLeaves : State :=
  { tState with jobs := [(savedCoreKey 7 9, { area := 0, copies := [], putStops := [], gang := Core.reset.gang, gangs := [] })] }

theorem test_meets_Management_dike_ends (h : Management) :
    ∃ t, exec (.managementRegisterWrite 0 (.control (0xF4000000000 + 256 * 7 + 2) [0])) tLeaves = .next t
      ∧ t.jobs.find? (savedCoreKey 7 9) = none := by
  obtain ⟨t, h1, _, _, h2, _⟩ := h.2.2.1 tLeaves 0 7 2 0 (by decide) (by decide) (by decide +kernel) (by decide +kernel)
  exact ⟨t, h1, h2 rfl rfl (by decide +kernel) 9 (by decide) (by decide) (by decide)⟩

/-- The patrol scrubber of the first channel is off. -/
def tPatrol : State := tState.modSlice 0 fun x => { x with chan := { x.chan with scrubOn := false } }

theorem test_meets_Channels (h : Channels) :
    (∃ t, exec (.vbusParityFailure ⟨0x40000100, 0, 0, false⟩ [some 135, some 135]) tState = .next t)
      ∧ (∃ t, exec (.vbusParityFailure ⟨0x40000100, 0, 0, false⟩ [some 0, some 0, some 0]) tState = .next t)
      ∧ (∃ t, exec (.vbusParityFailure ⟨0x40000100, 0, 0, true⟩ [none, none, none, none]) tState = .next t)
      ∧ (∃ t, exec (.laneSwapDone 0) tState = .next t) ∧ (∃ t, exec (.patrolScrub 0) tState = .next t) ∧ ∃ t, exec (.patrolScrub 0) tPatrol = .next t := by
  have run (lane : Nat) (w : Bool) := h.1 tState 0x40000100 0 0 lane w (by decide +kernel) (by decide +kernel) (by decide +kernel) (by decide +kernel)
  have off : (tPatrol.slice 0).chan.scrubOn = false := by decide +kernel
  refine ⟨(run 135 false).1.imp fun _ h => h.1, (run 0 false).2.1.imp fun _ h => h.1, (run 0 true).2.2.imp fun _ h => h.1,
    (h.2.1 tState 0).imp fun _ h => h.1, (((h.2.2 tState 0).2 ?_ ?_ ?_ ?_).2 ?_ ?_ ?_ ?_ ?_).imp fun _ h => h.1,
    ⟨_, (h.2.2 tPatrol 0).1 (.inl off)⟩⟩ <;> decide +kernel

/-- What one turn of slot 0 does, where it goes on. -/
theorem goes_on {p : Option Instr × Answer} (h : (match p.2 with | .next _ => true | _ => false) = true) : p = (p.1, .next (tNext p.2)) := by
  obtain ⟨i, o⟩ := p
  cases o <;> first | rfl | cases h

/-- A pair in slot 0 with some values in its queue and its leading copy at an offset, and the turn that comes. -/
def tPairOf (lvq : List Nat) (pc : Nat) (turn : Turn) : State :=
  { tState.modMe fun t => { t with twin := true, lvq := lvq, pc := pc } with agenda := [turn] }
def tTurnOf (lvq : List Nat) (turn : Turn) : Option Instr × Answer := issue { tPairOf lvq 8 turn with agenda := [] } 0

theorem test_meets_TurnsOfUnits_pair (h : TurnsOfUnits) :
    (∃ t, step (tPairOf [] 8 (.issue 0)) = .next t) ∧ ∃ t, step (tPairOf [1] 8 (.trail 0 false)) = .next t := by
  have run (lvq : List Nat) (turn : Turn) (hn : (match (tTurnOf lvq turn).2 with | .next _ => true | _ => false) = true)
      (hl : ((tPairOf lvq 8 turn).thread (thrOf 0)).live = true ∧ ((tPairOf lvq 8 turn).thread (thrOf 0)).twin = true) :=
    (h (tPairOf lvq 8 turn) 0 []).1 hl.1 hl.2 _ _ (goes_on hn)
  exact ⟨((run [] (.issue 0) (by decide +kernel) (by decide +kernel)).1 rfl |>.2.2 (by decide +kernel) (.inr (by decide +kernel))).imp
      fun _ h => h.1,
    (((run [1] (.trail 0 false) (by decide +kernel) (by decide +kernel)).2 false rfl).1 1 [] (by rfl)).imp fun _ h => h.1⟩

/-- An error in the array at 0x4000_0400, and the turns of units that come to the small machine. -/
def tError : Upset := { kind := .symbols, addr := 0x40000400, sel := 0, injected := false }
def tUnit (turn : Turn) : State := { tState with agenda := [turn] }

theorem test_meets_TurnsOfUnits (h : TurnsOfUnits) :
    (∃ t, step (tUnit (.bank 0)) = .next t) ∧ (∃ t, step (tUnit (.bank 2)) = .next t) ∧ (∃ t, step (tUnit (.system 14 77)) = .next t)
      ∧ (∃ t, step (tUnit (.system 2 77)) = .next t) ∧ ∃ t, step (tUnit (.upset 0 tError)) = .next t :=
  ⟨(((h (tUnit (.bank 0)) 0 []).2.1 rfl).1 (by decide +kernel)).imp fun _ h => h.1, ⟨_, ((h (tUnit (.bank 2)) 2 []).2.1 rfl).2 (by decide +kernel)⟩,
   (((h (tUnit (.system 14 77)) 14 []).2.2.1 77 rfl).1 (by decide) (by decide +kernel) (by decide +kernel)).imp fun _ h => h.1,
   ⟨_, ((h (tUnit (.system 2 77)) 2 []).2.2.1 77 rfl).2 (.inl (by decide))⟩,
   ((h (tUnit (.upset 0 tError)) 0 []).2.2.2 0 tError rfl).imp fun _ h => h.1⟩

/-- Core 3 with its clock stopped at depth 0 or 1 of the 1 that `c.sleep` allows, and a twin in slot 0. -/
def tGated (d : Nat) : State := (tState.modCore 3 fun c => { c with gated := some d }).modMe fun t => { t with twin := true }

theorem test_meets_SleepAndTwins (h : SleepAndTwins) :
    (∃ t, exec (.sleepDepthTimer 1) tState = .next t) ∧ exec (.sleepDepthTimer 0) tState = .next tState
      ∧ (∃ t, exec (.sleepDepthTimer 3) (tGated 0) = .next t) ∧ exec (.sleepDepthTimer 3) (tGated 1) = .next (tGated 1)
      ∧ (∃ t, exec (.coreWake 3) (tGated 1) = .next t) ∧ (∃ t, exec (.twinSignatureCheck 0 true) (tGated 0) = .next t)
      ∧ exec (.twinSignatureCheck 0 false) (tGated 0) = .next (tGated 0) :=
  ⟨((h.1 tState 1).1 (by decide +kernel) (by decide +kernel)).imp fun _ h => h.1,
   (h.1 tState 0).2.1 0 (by decide) (by decide +kernel) (by decide +kernel),
   (((h.1 (tGated 0) 3).2.2.1 0 (by decide +kernel)).1 (by decide +kernel)).imp fun _ h => h.1,
   ((h.1 (tGated 1) 3).2.2.1 1 (by decide +kernel)).2 (by decide +kernel), ((h.1 (tGated 1) 3).2.2.2).imp fun _ h => h.1,
   ((h.2 (tGated 0) 0 true).1 (by decide +kernel) (by decide +kernel) rfl).imp fun _ h => h.1, (h.2 (tGated 0) 0 false).2 (.inr (.inr rfl))⟩

/-- Cores 0 and 1 send to one another, and their one job thread is parked on its channel. -/
def tRing : State :=
  ((tState.modCore 0 fun c => { c with down := 1, up := 1 }).modCore 1 fun c => { c with down := 0, up := 0 }).modMe fun t => { t with wait := .qin }

theorem test_meets_DeadlockSamples (h : DeadlockSamples) :
    (∃ t, exec (.channelDeadlockSample 0) tState = .next t) ∧ ∃ t, exec (.channelDeadlockSample 0) tRing = .next t :=
  ⟨((h tState 0 0).1 (by decide +kernel)).imp fun _ h => h.1,
   ((h tRing 0 3).2 (by decide +kernel) (by decide +kernel) (by decide +kernel)).imp fun _ h => h.1⟩

/-! ### The control block, the inbox and work -/

/-- A context of slot 1 of core 0 in the polder's cache. -/
def tSavedCtx : Saved := { thr := tThread, ep := 2, deque := [], dike := 1 }
def tCached : State := tState.modPolder 0 fun p => { p with tcache := [tSavedCtx] }

theorem test_meets_ControlBlock (h : ControlBlock) :
    (∃ t, exec (.polderKillWrite 0 0 9) tState = .next t) ∧ (∃ t, exec (.polderSwapWrite 0 0) tState = .next t)
      ∧ exec (.polderKillWrite 0 4 9) tState = .next tState ∧ ∃ t, exec (.polderResumeWrite 0 2 0) tCached = .next t := by
  have a := (h.1 tState 0 0 9).1 (by decide +kernel)
  exact ⟨a.1.imp fun _ h => h.1, a.2.imp fun _ h => h.1, ((h.1 tState 0 4 9).2 (by decide +kernel)).1,
    ((h.2.2 tCached 0 2 0 tSavedCtx (by rfl)).2 (by decide +kernel) rfl).imp fun _ h => h.1⟩

/-- An entry that carries a value for `s6` of slot 0, or one of another kind. -/
def tEntryOf (kind : Nat) : InboxEnt := { kind := kind, val := 9, val2 := 0, ep := 0, desig := 6, num := 0, time := 0, cross := false, sent := 0, load := false, mark := none }
def tInbox (arriving inbox pend : List InboxEnt) : State := tOwed.modPolder 0 fun p => { p with arriving := arriving, inbox := inbox, pend := pend }

/-- The inbox of polder 0 is empty, and the ring holds an entry for it. -/
def tRinged : State := (tInbox [] [] []).modStack 0 fun k => { k with ovf := [(0, tEntryOf 3)] }

theorem test_meets_Inboxes (h : Inboxes) :
    (∃ t, exec (.inboxEntryArrival 0) (tInbox [tEntryOf 1] [] []) = .next t)
      ∧ (∃ t, exec (.inboxEntryArrival 0) (tInbox [tEntryOf 1] (List.replicate 16 (tEntryOf 3)) []) = .next t)
      ∧ (∃ t, exec (.inboxPop 0) (tInbox [] [tEntryOf 1] []) = .next t) ∧ (∃ t, exec (.inboxPop 0) (tInbox [] [tEntryOf 3] []) = .next t)
      ∧ (∃ t, exec (.inboxPop 0) tRinged = .next t) ∧ ∃ t, exec (.pendingInboxWrite 0) (tInbox [] [] [tEntryOf 3]) = .next t := by
  have arrives (l : List InboxEnt) := h.1 (tInbox [tEntryOf 1] l []) 0 (tEntryOf 1) [] (by rfl) (by rfl)
  have pops (k : Nat) := h.2.1 (tInbox [] [tEntryOf k] []) 0 (tEntryOf k) [] (by rfl) (by rfl)
  exact ⟨((arrives []).1 (by decide +kernel) (by decide +kernel)).imp fun _ h => h.1,
   ((arrives (List.replicate 16 (tEntryOf 3))).2 (.inr (by decide +kernel)) (by decide +kernel)).imp fun _ h => h.1,
   ((pops 1).2.2 (.inl rfl) (by decide +kernel)).imp fun _ h => h.1, ((pops 3).1 (by decide) (by decide)).imp fun _ h => h.1,
   (h.2.2.1 tRinged 0 (0, tEntryOf 3) (by rfl) (by rfl) (by rfl) (by decide) (by decide)).imp fun _ h => h.1,
   (h.2.2.2 (tInbox [] [] [tEntryOf 3]) 0 (tEntryOf 3) (by rfl) (by decide +kernel) (by decide +kernel)).imp fun _ h => h.1⟩

/-- Queue 2 of stack 0 launches into dike 1: a ring of 64 records at 0x4000_2000 with a head and a tail; a completion ring at 0x4000_4000;
and a record at the head. -/
def tQrec (head tail chead : Nat) : List Byte :=
  leBytes 8 0x40002000 ++ [6, 1] ++ leBytes 2 1 ++ leBytes 2 head ++ leBytes 2 tail ++ leBytes 8 0x40004000 ++ leBytes 4 6 ++ leBytes 2 0 ++ leBytes 2 chead
def tWork (q rec : List Byte) : State :=
  (tBytes [(0x40002000, rec)] tTask).modStack 0 fun k => { k with wq := putBytes k.wq 64 q }

theorem writes_of {s : State} {stk pa n : Nat}
    (h : ∀ j < n, stkOfPa (pa + j) = stk ∧ (s.slice (proxyDev (stkOfPa (pa + j)) (pa + j))).chan.failed = false) :
    ∀ j < n, stkOfPa (pa + j) = stk ∧ writable s (pa + j) := fun j hj => ⟨(h j hj).1, fun _ => .inr (h j hj).2⟩

theorem no_far_at (q rec : List Byte) : noFar (tWork q rec) 0 := by intro n _ e he; cases he

theorem test_meets_Appends (h : Appends) :
    (∃ t, exec (.hostAppend 0 2 0 (List.replicate 64 1)) (tWork (tQrec 0 63 0) []) = .next t)
      ∧ (∃ t, exec (.hostAppend 0 2 0 (List.replicate 64 1)) (tWork (tQrec 1 63 0) []) = .next t)
      ∧ (∃ t, exec (.hostAppend 0 3 0 (List.replicate 64 1)) (tWork (tQrec 0 63 0) []) = .next t)
      ∧ (∃ t, exec (.hostAppend 0 2 8 (List.replicate 64 1)) (tWork (tQrec 0 63 0) []) = .next t) ∧ ∃ t, exec (.bar2PlainWrite 0) tState = .next t := by
  have full := (h.1 (tWork (tQrec 0 63 0) []) 0 2 64 (List.replicate 64 1) (by decide) (by decide) (by decide +kernel)).2 (by decide +kernel)
  have room := (h.1 (tWork (tQrec 1 63 0) []) 0 2 64 (List.replicate 64 1) (by decide) (by decide) (by decide +kernel)).1 (by decide +kernel)
    (by decide +kernel) (by decide +kernel) (no_far_at _ _) (writes_of (by decide +kernel))
  exact ⟨⟨_, full⟩, room.imp fun _ h => h.1,
    ⟨_, (h.2.1 (tWork (tQrec 0 63 0) []) 0 3 0 (List.replicate 64 1)).2 rfl (by decide) (by decide) (by decide +kernel)⟩,
    ⟨_, (h.2.1 (tWork (tQrec 0 63 0) []) 0 2 8 (List.replicate 64 1)).1 (.inl (by decide))⟩, (h.2.2 tState 0).imp fun _ h => h.1⟩

/-- A launch record that is well formed, of digest 77 without a range, and one that is not. -/
def tLrec (digest : Nat) : List Byte := leBytes 32 digest ++ leBytes 8 5 ++ leBytes 8 0 ++ leBytes 8 9 ++ leBytes 8 0
def tHead (digest : Nat) : Got × State := (tWork (tQrec 0 1 0) (tLrec digest)).readRun 0 none 0x40002000 64 true true 3 0

theorem test_meets_LaunchesBegin (h : LaunchesBegin) :
    (∃ t, exec (.launchRecordRead 0 2) (tWork (tQrec 0 1 0) (tLrec 0)) = .next t)
      ∧ ∃ t, exec (.launchRecordRead 0 2) (tWork (tQrec 0 1 0) (tLrec 77)) = .next t := by
  have run (digest : Nat) (hq : (tWork (tQrec 0 1 0) (tLrec digest)).stack 0 = (tWork (tQrec 0 1 0) []).stack 0)
      (hr : ((tWork (tQrec 0 1 0) (tLrec digest)).readRun 0 none
        (((tWork (tQrec 0 1 0) (tLrec digest)).stack 0).queue 2 0 8 + 64 * ((tWork (tQrec 0 1 0) (tLrec digest)).stack 0).queue 2 12 2) 64 true true 3 0).1
        = (tHead digest).1) := by
    refine h (tWork (tQrec 0 1 0) (tLrec digest)) _ 0 2 64 (tHead digest).1 ?_ ?_ ?_ ?_ ?_ (pair hr) ?_ <;> rw [hq] <;> decide +kernel
  obtain ⟨t, _, h1, _⟩ := (run 0 (by decide +kernel) (by decide +kernel)).1 (by decide +kernel)
  obtain ⟨u, _, h2, _⟩ := (((run 77 (by decide +kernel) (by decide +kernel)).2 (by decide +kernel) (.inl (by decide +kernel))).2 0x400080C0 _
    (pair (by decide +kernel))).2 (.inl (by decide +kernel)) (by decide +kernel)
  exact ⟨⟨t, h1⟩, ⟨u, h2⟩⟩

/-- A completion of queue 2, with a record or without. -/
def tComp (record : Bool) : Comp :=
  { queue := 2, time := 5, ltag := 9, status := 0, fault := 0, failed := 0, run := 1, record := record, signal := true, vector := 7 }
def tEnding (chead : Nat) (record : Bool) : State := (tWork (tQrec 0 1 chead) []).modStack 0 fun k => { k with comps := [tComp record] }

theorem test_meets_CompletionsAreWritten (h : CompletionsAreWritten) :
    (∃ t, exec (.completionRecordWrite 0 2) (tEnding 0 true) = .next t) ∧ exec (.completionRecordWrite 0 2) (tEnding 1 true) = .next (tEnding 1 true)
      ∧ ∃ t, exec (.completionRecordWrite 0 2) (tEnding 0 false) = .next t := by
  have run (chead : Nat) (record : Bool) (hc : ((tEnding chead record).stack 0).comps.find? (fun c => c.queue == 2) = some (tComp record)) :=
    h (tEnding chead record) 0 2 (tComp record) hc
  have a := ((run 0 true (by rfl)).1 64 rfl (by decide +kernel) (by decide +kernel) (by decide +kernel)).2 (by decide +kernel)
    (by decide +kernel) (by decide +kernel) (by intro n _ e he; cases he) (writes_of (by decide +kernel))
  have b := ((run 1 true (by rfl)).1 64 rfl (by decide +kernel) (by decide +kernel) (by decide +kernel)).1 (by decide +kernel)
  exact ⟨a.imp fun _ h => h.1, b, ((run 0 false (by rfl)).2.2 rfl).imp fun _ h => h.1⟩

/-! ### The loader -/

/-- A translation of image 1000 under tag 2, with its header; its signature verifies under the key of 64 bytes: r and s are the hash, which is
the first coordinate of G + Q. -/
def tNative : List Byte :=
  leBytes 32 1000 ++ leBytes 4 0x5A4400A0 ++ leBytes 4 6 ++ leBytes 4 4 ++ leBytes 20 0 ++ leBytes 4 2 ++ leBytes 28 0 ++ leBytes 4 0x08630005
    ++ leBytes 64 0x132953a9bc99ad1c366e3121c28884b7b1a9b84b6d52a8d31575737330883700132953a9bc99ad1c366e3121c28884b7b1a9b84b6d52a8d31575737330883700
def tKey : Trust :=
  { key := 6, revoked := false,
    pub := 0xc63cf4db6562dce8b31a28cc69203231f84bf2bbe2e0de6993f8027f14420c191e569bb7e957d4a7cf6c0955fc68d749182b222f6d10861383fb89648a330fc3 }
def tNativeImage : Image := (parseNative tNative).getD tCallee

theorem test_signature_verifies : checkSig { Stack.reset with trust := [tKey] } tNative = true := by decide +kernel

/-- A fetch of slot 0 from a source. -/
def tFetch (digest source : Nat) : Fetch :=
  { digest := digest, tag := none, thrs := [0], wanted := false, source := source, since := 0, queued := false, reply := none, checking := none,
    rest := [], install := none, ask := 0, orig := (0, 0, 0) }

/-- The machine with a fetch, a stack code cache and a limit of unpinned images, at a pod time. -/
def tLoader (f : Fetch) (cache : List CacheImg) (lim time : Nat) : State :=
  { (tState.modPolder 0 fun p => { p with fetches := [f], cslim := lim }).modStack 0 fun k => { k with ccache := cache, trust := [tKey] }
    with time := time }
def tOffer (digest : Nat) (bytes : List Byte) (transl : Bool) : CacheImg :=
  { digest := digest, model := 0, tag := 0, transl := transl, bytes := bytes }

theorem offered_of {s : State} {pol : Nat} {f : Fetch} {offers : List Offer} (h3 : f.source = 1)
    (h : s.stackOffers (s.sourceStacks pol f.source) f = offers) : Offered s pol f (s.cachesUsed (s.sourceStacks pol f.source) f) offers := by
  unfold Offered; rw [if_pos (by rw [h3]; decide)]; exact ⟨.inl h3, h, rfl⟩

theorem replied_of {s : State} {pol : Nat} {f : Fetch} {offers : List Offer} (h : ¬f.source ≤ 3) (hq : f.queued = true) (hr : f.reply = some offers) :
    Offered s pol f s offers := by
  unfold Offered; rw [if_neg h]; exact ⟨hq, hr, rfl⟩

theorem not_last {s : State} {pol : Nat} {f : Fetch} (h : f.source < 4 ∧ (s.stack (stkOfPol pol)).service = 2) : ¬lastSource s pol f :=
  not_or.mpr ⟨Nat.not_le_of_lt h.1, fun n => n h.2⟩

theorem plain_fetch {s : State} {f : Fetch} (hw : f.wanted = false) (hl : f.thrs = [0]) (h : (s.thread 0).prog = .none) : PlainFetch s f :=
  ⟨hw, fun k hk r a b c => by
    rw [hl] at hk
    have hk : k = 0 := by simpa using hk
    subst hk; rw [h]; nofun⟩

theorem test_meets_SourcesAnswer (h : SourcesAnswer) :
    (∃ t, exec (.loaderSourceAnswer 0 5) (tLoader (tFetch 5 1) [] 16 0) = .next t)
      ∧ (∃ t, exec (.loaderSourceAnswer 0 tSmallDigest) (tLoader (tFetch tSmallDigest 1) [tOffer tSmallDigest tSmall false] 16 0) = .next t)
      ∧ (∃ t, exec (.loaderSourceAnswer 0 5) (tLoader (tFetch 5 1) [tOffer 5 tSmall false] 16 0) = .next t)
      ∧ ∃ t, exec (.loaderSourceAnswer 0 1000) (tLoader (tFetch 1000 1) [tOffer 1000 tNative true] 16 0) = .next t := by
  have run (digest lim : Nat) (bs : List Byte) (tr : Bool) (ha : Asking (tLoader (tFetch digest 1) [tOffer digest bs tr] lim 0) 0 digest (tFetch digest 1))
      (ho : (tLoader (tFetch digest 1) [tOffer digest bs tr] lim 0).stackOffers
        ((tLoader (tFetch digest 1) [tOffer digest bs tr] lim 0).sourceStacks 0 1) (tFetch digest 1) = [(bs, tr, 0)]) :=
    (h (tLoader (tFetch digest 1) [tOffer digest bs tr] lim 0) _ 0 digest (tFetch digest 1) ha).2 bs 0 tr (offered_of rfl ho)
  have e := ((h (tLoader (tFetch 5 1) [] 16 0) _ 0 5 (tFetch 5 1) ⟨by decide +kernel, rfl, rfl⟩).1 (offered_of rfl (by decide +kernel))).1
    (not_last (by decide +kernel))
  have a := (run tSmallDigest 16 tSmall false ⟨by decide +kernel, rfl, rfl⟩ (by decide +kernel)).1 tSmallImage rfl (.inl rfl)
    (isOk (by decide +kernel)) (List.cons_ne_nil _ _) (by decide +kernel)
  have c := (run 5 16 tSmall false ⟨by decide +kernel, rfl, rfl⟩ (by decide +kernel)).2.1 6 (.inl ⟨rfl, .inl rfl, isError (by decide +kernel)⟩)
    (.inr (by decide)) (not_last (by decide +kernel))
  obtain ⟨v, _, hd, _⟩ := (run 1000 16 tNative true ⟨by decide +kernel, rfl, rfl⟩ (by decide +kernel)).2.2.2 tNativeImage rfl (.inl rfl)
    (isOk (by decide +kernel))
  exact ⟨e.imp fun _ h => h.1, a.imp fun _ h => h.1, c.imp fun _ h => h.1, ⟨v, hd⟩⟩

/-- A fetch that source 4 has answered. -/
def tReplied (l : List Offer) : Fetch := { tFetch 5 4 with queued := true, reply := some l }

theorem test_meets_SourcesAnswer_last (h : SourcesAnswer) :
    (∃ t, exec (.loaderSourceAnswer 0 5) (tLoader (tReplied []) [] 16 0) = .next t)
      ∧ ∃ t, exec (.loaderSourceAnswer 0 5) (tLoader (tReplied [(tSmall, false, 0)]) [] 16 0) = .next t := by
  have run (l : List Offer) (hf : (tLoader (tReplied l) [] 16 0).fetchOf 0 5 = some (tReplied l)) :=
    h (tLoader (tReplied l) [] 16 0) (tLoader (tReplied l) [] 16 0) 0 5 (tReplied l) ⟨hf, rfl, rfl⟩
  exact ⟨(((run [] (by decide +kernel)).1 (replied_of (by decide) rfl rfl)).2 (.inl (by decide)) (plain_fetch rfl rfl (by decide +kernel))).imp
      fun _ h => h.1,
    (((run [(tSmall, false, 0)] (by decide +kernel)).2 tSmall 0 false (replied_of (by decide) rfl rfl)).2.2.1 6
      (.inl ⟨rfl, .inl rfl, isError (by decide +kernel)⟩) (.inr (.inl (by decide))) (plain_fetch rfl rfl (by decide +kernel))).imp fun _ h => h.1⟩

/-- The dike's code queue of four entries at 0x4000_C000 with its tail at 1, and buffers; `requests` have not been consumed; entry 1 is answered
as a kind and a length. -/
def tRuntime (queued : Bool) (requests : List CodeReq) (kind len : Nat) (isDone : Bool) : State :=
  let s := tLoader { tFetch 5 4 with queued := queued } [] 16 0
  (tBytes [(0x4000C0C0, leBytes 4 len ++ [BitVec.ofNat 8 kind, 0, 0, if isDone then 128 else 0])] s).modStack 0 fun k =>
    { k.setDike 1 128 (leBytes 8 0x4000C000 ++ leBytes 2 2 ++ leBytes 2 7 ++ leBytes 2 1 ++ leBytes 2 0 ++ leBytes 8 0x40010000) with codeReqs := requests }
def tCodeReq : CodeReq := { dike := 1, entry := 1, pol := 0, digest := 5, ask := 0 }

/-- The answer in the queue. -/
def tAnswer (kind len : Nat) (isDone : Bool) : Got × State := (tRuntime true [tCodeReq] kind len isDone).readRun 0 none 0x4000C080 128 true true 3 0

theorem test_meets_RuntimeIsAsked_ask (h : RuntimeIsAsked) :
    (∃ t, exec (.loaderSourceAnswer 0 5) (tRuntime false [] 0 0 false) = .next t)
      ∧ exec (.loaderSourceAnswer 0 5) (tRuntime false [tCodeReq] 0 0 false) = .next (tRuntime false [tCodeReq] 0 0 false) := by
  have a := (h.1 (tRuntime false [] 0 0 false) 0 5 4 (tFetch 5 4) ⟨by decide +kernel, rfl, rfl⟩ rfl rfl (by decide +kernel)).1 (by decide +kernel)
    (by intro n _ e he; cases he) (writes_of (by decide +kernel)) (by decide +kernel)
  obtain ⟨t, _, _, ha, _⟩ := a
  exact ⟨⟨t, ha⟩,
    (h.1 (tRuntime false [tCodeReq] 0 0 false) 0 5 4 (tFetch 5 4) ⟨by decide +kernel, rfl, rfl⟩ rfl rfl (by decide +kernel)).2 (by decide +kernel)⟩

theorem test_meets_RuntimeIsAsked_doorbell (h : RuntimeIsAsked) :
    (∃ t, exec (.codeQueueDoorbell 0 1) (tRuntime true [tCodeReq] 1 8 false) = .next t)
      ∧ (∃ t, exec (.codeQueueDoorbell 0 1) (tRuntime true [{ tCodeReq with ask := 1 }] 0 0 true) = .next t)
      ∧ (∃ t, exec (.codeQueueDoorbell 0 1) (tRuntime true [tCodeReq] 0 0 true) = .next t)
      ∧ (∃ t, exec (.codeQueueDoorbell 0 1) (tRuntime true [tCodeReq] 3 8 true) = .next t)
      ∧ ∃ t, exec (.codeQueueDoorbell 0 1) (tRuntime true [tCodeReq] 1 8 true) = .next t := by
  have run (ask kind len : Nat) (isDone : Bool)
      (hf : (tRuntime true [{ tCodeReq with ask := ask }] kind len isDone).fetchOf 0 5 = some { tFetch 5 4 with queued := true })
      (hr : ((tRuntime true [{ tCodeReq with ask := ask }] kind len isDone).readRun 0 none
        (((tRuntime true [{ tCodeReq with ask := ask }] kind len isDone).stack 0).dike 1 128 8 + 128 * 1) 128 true true 3 0).1
        = (tAnswer kind len isDone).1) :=
    h.2 (tRuntime true [{ tCodeReq with ask := ask }] kind len isDone) _ 0 1 { tCodeReq with ask := ask } { tFetch 5 4 with queued := true }
      (tAnswer kind len isDone).1 (by rfl) hf (pair hr)
  have a := (run 0 1 8 false (by decide +kernel) (by decide +kernel)).1 (by decide +kernel)
  have b := ((run 1 0 0 true (by decide +kernel) (by decide +kernel)).2 (by decide +kernel)).1 (by decide)
  have c := ((run 0 0 0 true (by decide +kernel) (by decide +kernel)).2 (by decide +kernel)).2.1 (by decide) (by decide +kernel)
  have d := ((run 0 3 8 true (by decide +kernel) (by decide +kernel)).2 (by decide +kernel)).2.2.1 (by decide) (by decide +kernel) (by decide +kernel)
  have e := ((run 0 1 8 true (by decide +kernel) (by decide +kernel)).2 (by decide +kernel)).2.2.2 _ _ (by decide) (.inl (by decide +kernel))
    (by decide +kernel) (by decide +kernel) (Prod.eta _).symm
  exact ⟨a.imp fun _ h => h.1, b.imp fun _ h => h.1, c.imp fun _ h => h.1, d.imp fun _ h => h.1, e.imp fun _ h => h.1⟩

theorem test_meets_SourcesTimeOut (h : SourcesTimeOut) :
    exec (.sourceWaitTimeout 0 5) (tLoader (tFetch 5 2) [] 16 79999) = .next (tLoader (tFetch 5 2) [] 16 79999)
      ∧ (∃ t, exec (.sourceWaitTimeout 0 5) (tLoader (tFetch 5 2) [] 16 80000) = .next t)
      ∧ ∃ t, exec (.sourceWaitTimeout 0 5) (tLoader (tFetch 5 4) [] 16 4000000000) = .next t := by
  have run (src w time : Nat) (hf : (tLoader (tFetch 5 src) [] 16 time).fetchOf 0 5 = some (tFetch 5 src)) (hw : sourceWait src = some w) :=
    h (tLoader (tFetch 5 src) [] 16 time) 0 5 w (tFetch 5 src) ⟨hf, rfl, rfl⟩ rfl hw
  exact ⟨(run 2 80000 79999 (by decide +kernel) rfl).1 (by decide +kernel),
    (((run 2 80000 80000 (by decide +kernel) rfl).2 (by decide +kernel)).1 (not_last (by decide +kernel))).imp fun _ h => h.1,
    (((run 4 4000000000 4000000000 (by decide +kernel) rfl).2 (by decide +kernel)).2 (.inl (by decide))
      (plain_fetch rfl rfl (by decide +kernel))).imp fun _ h => h.1⟩

/-- The signature unit has the translation, or the portable image, which bears no signature. -/
def tChecked (bs : List Byte) : Fetch := { tFetch 1000 1 with checking := some (tNativeImage, bs, 0) }

theorem test_meets_SignaturesAreVerified (h : SignaturesAreVerified) :
    (∃ t, exec (.signatureVerified 0 1000) (tLoader (tChecked tNative) [] 16 0) = .next t)
      ∧ ∃ t, exec (.signatureVerified 0 1000) (tLoader (tChecked tSmall) [] 16 0) = .next t := by
  have run (bs : List Byte) (hf : (tLoader (tChecked bs) [] 16 0).fetchOf 0 1000 = some (tChecked bs)) :=
    h (tLoader (tChecked bs) [] 16 0) 0 1000 0 (tChecked bs) tNativeImage bs hf rfl
  exact ⟨((run tNative (by decide +kernel)).1 (by decide +kernel) (by decide +kernel)).imp fun _ h => h.1,
    (((run tSmall (by decide +kernel)).2 (by decide +kernel) rfl).1 (not_last (by decide +kernel))).imp fun _ h => h.1⟩

/-- An accepted image waits for room; and slot 0 waits in a `cinst`. -/
def tWaiting : Fetch := { tFetch 1000 1 with install := some tNativeImage }
def tCinst (time : Nat) : State := { tState.modMe fun t => { t with prog := .cinst 0 false } with time := time }

theorem test_meets_InstallsWait (h : InstallsWait) :
    (∃ t, exec (.installRetry 0 1000) (tLoader tWaiting [] 16 0) = .next t) ∧ (∃ t, exec (.installRetry 0 1000) (tLoader tWaiting [] 2 0) = .next t)
      ∧ exec (.installWaitTimeout 0 (.loader 1000)) (tLoader tWaiting [] 2 0) = .next (tLoader tWaiting [] 2 0)
      ∧ (∃ t, exec (if (tLoader tWaiting [] 2 4000000).otherTag 0 tWaiting = true then .tagReplaceTimeout 0 1000 else .installWaitTimeout 0 (.loader 1000))
          (tLoader tWaiting [] 2 4000000) = .next t)
      ∧ exec (.installWaitTimeout 0 (.system 0)) (tCinst 3999999) = .next (tCinst 3999999)
      ∧ ∃ t, exec (.installWaitTimeout 0 (.system 0)) (tCinst 4000000) = .next t := by
  have run (lim time : Nat) (hf : (tLoader tWaiting [] lim time).fetchOf 0 1000 = some tWaiting) :=
    h.1 (tLoader tWaiting [] lim time) 0 1000 tWaiting tNativeImage hf rfl
  exact ⟨((run 16 0 (by decide +kernel)).1 (by decide +kernel) (by decide +kernel)).imp fun _ h => h.1,
    ((run 2 0 (by decide +kernel)).1 (by decide +kernel) (by decide +kernel)).imp fun _ h => h.1,
    ((run 2 0 (by decide +kernel)).2.2.1 (by decide +kernel)).1,
    ((run 2 4000000 (by decide +kernel)).2.2.2 (by decide +kernel) (plain_fetch rfl rfl (by decide +kernel))).imp fun _ h => h.1,
    (h.2 (tCinst 3999999) 0 0 (by rfl)).1 (by decide +kernel), ((h.2 (tCinst 4000000) 0 0 (by rfl)).2 (by decide +kernel)).imp fun _ h => h.1⟩

/-- The image of the waiting install stands in slot 2 under another tag, with a user. -/
def tOther : Fetch := { tWaiting with tag := some 7 }
def tOtherIn : State := (tLoader tOther [] 16 0).modPolder 0 fun p => { p with code := p.code.put tCallee 2 { tNativeImage with tag := 9, users := 1 } }

theorem test_meets_InstallsWait_there (h : InstallsWait) : ∃ t, exec (.installRetry 0 1000) tOtherIn = .next t :=
  ((h.1 tOtherIn 0 1000 tOther tNativeImage (by decide +kernel) rfl).2.1 2 { tNativeImage with tag := 9, users := 1 } (by decide +kernel)).imp
    fun _ h => h.1

/-! ### Links and pod time -/

/-- Port 0 of package 0 with a record of its own, at a pod time. -/
def tLink (p : Port) (time : Nat) : State :=
  { tState.modPackage 0 fun k => { k with ports := [(0, p)] } with time := time }

/-- A packet of 16 bytes for package 1, for this package, and one with a reserved bit set. -/
def tPacket (pa : Nat) (head : Byte) : List Byte := [head, 0, 0, 0] ++ leBytes 8 pa ++ leBytes 4 0

/-- A packet waits at input 0 of the router of a slice, and those of a class at another input, while a port is as it is. -/
def tMesh (slice cls : Nat) (bs : List Byte) (other : Nat × Nat) (n : Nat) (p : Port) : State :=
  let s := ((tLink p 0).setInput slice 0 cls [bs]).setInput other.1 other.2 0 (List.replicate n bs)
  { s.modPackage 0 fun k => { k with ports := [(1, p)] } with agenda := [.net (.hop slice 0 cls)] }

/-- A sluice takes what its router has: a malformed packet, one for stack 1 and one for package 1, with room, without room, and over a
failed port. -/
theorem test_meets_PacketsAreCarried_mesh (h : PacketsAreCarried) :
    (∃ t, exec (.sluicePacketReceive 0 (.mesh 3 0 0)) (tMesh 95 0 (tPacket (2 ^ 46) 0x80) (0, 1) 0 Port.reset) = .next t)
      ∧ (∃ t, exec (.sluicePacketReceive 0 (.mesh 3 0 0)) (tMesh 95 0 (tPacket (2 ^ 44) 0) (0, 1) 0 Port.reset) = .next t)
      ∧ (∃ t, exec (.sluicePacketReceive 0 (.mesh 3 0 0)) (tMesh 95 0 (tPacket (2 ^ 44) 0) (320, 2) 4 Port.reset) = .next t)
      ∧ (∃ t, exec (.sluicePacketReceive 0 (.mesh 3 0 0)) (tMesh 95 0 (tPacket (2 ^ 46) 0) (0, 1) 0 Port.reset) = .next t)
      ∧ ∃ t, exec (.sluicePacketReceive 0 (.mesh 3 0 0)) (tMesh 95 0 (tPacket (2 ^ 46) 0) (0, 1) 0 { Port.reset with state := .failed }) = .next t := by
  have run (bs : List Byte) (o : Nat × Nat) (n : Nat) (p : Port) (hq : (tMesh 95 0 bs o n p).inputQ 95 0 0 = [bs]) (hh : nextHop 95 bs = .sluice 3)
      (hw : SMap.wf ((tMesh 95 0 bs o n p).slice 95).inq = true) := h.1 (tMesh 95 0 bs o n p) 0 3 0 0 bs [] (by decide) hq hh hw
  have a := (run (tPacket (2 ^ 46) 0x80) (0, 1) 0 Port.reset (by decide +kernel) (by decide +kernel) (by decide +kernel)).1 (by decide +kernel)
  have b := ((run (tPacket (2 ^ 44) 0) (0, 1) 0 Port.reset (by decide +kernel) (by decide +kernel) (by decide +kernel)).2.1 (by decide +kernel)
    (by decide +kernel) (by decide +kernel)).1 (by decide +kernel) (by decide +kernel)
  have c := ((run (tPacket (2 ^ 44) 0) (320, 2) 4 Port.reset (by decide +kernel) (by decide +kernel) (by decide +kernel)).2.1 (by decide +kernel)
    (by decide +kernel) (by decide +kernel)).2 (by decide +kernel)
  have d := ((run (tPacket (2 ^ 46) 0) (0, 1) 0 Port.reset (by decide +kernel) (by decide +kernel) (by decide +kernel)).2.2 1 (by decide +kernel)
    (by decide +kernel)).2.2 (by decide +kernel) (by decide +kernel) (by rfl) (by rfl)
  have e := ((run (tPacket (2 ^ 46) 0) (0, 1) 0 { Port.reset with state := .failed } (by decide +kernel) (by decide +kernel) (by decide +kernel)).2.2 1
    (by decide +kernel) (by decide +kernel)).1 (by rfl)
  exact ⟨a.imp fun _ h => h.1, b.imp fun _ h => h.1, ⟨_, c⟩, d.imp fun _ h => h.1, e.imp fun _ h => h.1⟩

/-- A port has received a packet, and its ring buffer holds some of the class. -/
def tGotten (head : Byte) (n : Nat) : Port :=
  { Port.reset with rxBytes := packetBytes (tPacket 64 head), ring := [(0, List.replicate n (tPacket 64 0))] }

theorem test_meets_PacketsAreCarried_link (h : PacketsAreCarried) :
    (∃ t, exec (.sluicePacketReceive 0 (.link 0)) (tLink (tGotten 0 5) 0) = .next t)
      ∧ (∃ t, exec (.sluicePacketReceive 0 (.link 0)) (tLink (tGotten 0 6) 0) = .next t)
      ∧ ∃ t, exec (.sluicePacketReceive 0 (.link 0)) (tLink (tGotten 0x80 5) 0) = .next t := by
  have run (head : Byte) (n : Nat) (hp : nextPacket ((tLink (tGotten head n) 0).port 0 0).rxBytes = some (true, tPacket 64 head, [])) :=
    h.2 (tLink (tGotten head n) 0) 0 0 true (tPacket 64 head) [] (by decide +kernel) hp
  have a := ((run 0 5 (by decide +kernel)).2 (by decide +kernel) (by decide +kernel) (by decide +kernel)).1 rfl (by decide +kernel)
  have b := (run 0 6 (by decide +kernel)).1 (.inr (.inr (by decide +kernel)))
  have c := ((run 0x80 5 (by decide +kernel)).2 (by decide +kernel) (by decide +kernel) (by decide +kernel)).2 (.inr (by decide +kernel))
  exact ⟨a.imp fun _ h => h.1, ⟨_, b⟩, c.imp fun _ h => h.1⟩

/-- A context on its way to slice 5; and the put packet of a get on its way to stack 0. -/
def tContextPacket : List Byte := linkPacket 3 (5 * 2 ^ 12) 0 (List.replicate 16 0)
def tDataOf : RPkt :=
  { chan := 0, kind := 1, relaxed := false, hasKey := false, seq := 0, time := 0, first := 0, count := 0, key := 0, dst := 0x40001000,
    data := List.replicate 32 7, src := 4, need := 0, ether := false }
def tRemotePacket : List Byte := remotePacket 0 4 tDataOf

theorem test_meets_NetworkMoves_hops (h : NetworkMoves) :
    (∃ t, step (tMesh 0 0 (tPacket 320 0) (0, 1) 0 Port.reset) = .next t) ∧ (∃ t, step (tMesh 0 0 (tPacket 320 0) (1, 2) 4 Port.reset) = .next t)
      ∧ (∃ t, step (tMesh 5 3 tContextPacket (0, 1) 0 Port.reset) = .next t) ∧ (∃ t, step (tMesh 0 0 tRemotePacket (0, 1) 0 Port.reset) = .next t)
      ∧ ∃ t, step (tMesh 95 0 (tPacket (2 ^ 46) 0) (0, 1) 0 Port.reset) = .next t := by
  have run (slice cls : Nat) (bs : List Byte) (o : Nat × Nat) (n : Nat) (hq : (tMesh slice cls bs o n Port.reset).inputQ slice 0 cls = [bs])
      (hc : packetClass bs = cls) (hw : SMap.wf ((tMesh slice cls bs o n Port.reset).slice slice).inq = true) :=
    (h (tMesh slice cls bs o n Port.reset) []).1 slice 0 cls bs [] rfl hq hc hw
  have a := ((run 0 0 (tPacket 320 0) (0, 1) 0 (by decide +kernel) (by decide +kernel) (by decide +kernel)).1 1 2 (by decide +kernel)
    (by decide +kernel)).1 (by decide +kernel)
  have b := ((run 0 0 (tPacket 320 0) (1, 2) 4 (by decide +kernel) (by decide +kernel) (by decide +kernel)).1 1 2 (by decide +kernel)
    (by decide +kernel)).2 (by decide +kernel)
  have c := (run 5 3 tContextPacket (0, 1) 0 (by decide +kernel) (by decide +kernel) (by decide +kernel)).2.1 (by decide +kernel)
  have d := (run 0 0 tRemotePacket (0, 1) 0 (by decide +kernel) (by decide +kernel) (by decide +kernel)).2.1 (by decide +kernel)
  have e := (run 95 0 (tPacket (2 ^ 46) 0) (0, 1) 0 (by decide +kernel) (by decide +kernel) (by decide +kernel)).2.2 3 (by decide +kernel)
  exact ⟨a.imp fun _ h => h.1, ⟨_, b⟩, c.imp fun _ h => h.1, d.imp fun _ h => h.1, ⟨_, e⟩⟩

/-- The ring buffer of port 0 holds a packet, and the router's input of the sluice there has some; port 1 leads on. -/
def tRingBuf (bs : List Byte) (n : Nat) (p : Port) : State :=
  let s := (tState.modPackage 0 fun k => { k with ports := [(0, { Port.reset with ring := [(0, [bs])] }), (1, p)] }).setInput 64 2 0
    (List.replicate n bs)
  { s with agenda := [.net (.ring 0 0 0)] }

theorem test_meets_NetworkMoves_rings (h : NetworkMoves) :
    (∃ t, step (tRingBuf (tPacket 64 0) 0 Port.reset) = .next t) ∧ (∃ t, step (tRingBuf (tPacket 64 0) 4 Port.reset) = .next t)
      ∧ (∃ t, step (tRingBuf (tPacket (2 ^ 46) 0) 0 Port.reset) = .next t)
      ∧ ∃ t, step (tRingBuf (tPacket (2 ^ 46) 0) 0 { Port.reset with state := .failed }) = .next t := by
  have run (bs : List Byte) (n : Nat) (p : Port) (hq : (tRingBuf bs n p).ringOf 0 0 0 = [bs]) (hc : packetClass bs = 0)
      (hw : SMap.wf ((tRingBuf bs n p).port 0 0).ring = true) := (h (tRingBuf bs n p) []).2.1 0 0 0 bs [] rfl (by decide) hq hc hw
  have a := ((run (tPacket 64 0) 0 Port.reset (by decide +kernel) (by decide +kernel) (by decide +kernel)).1 (by decide +kernel) (by decide +kernel)).1
    (by decide +kernel)
  have b := ((run (tPacket 64 0) 4 Port.reset (by decide +kernel) (by decide +kernel) (by decide +kernel)).1 (by decide +kernel) (by decide +kernel)).2
    (by decide +kernel)
  have c := ((run (tPacket (2 ^ 46) 0) 0 Port.reset (by decide +kernel) (by decide +kernel) (by decide +kernel)).2 1 (by decide +kernel)).2.1
    (by decide +kernel) (by decide +kernel) (by rfl) (by rfl)
  have d := ((run (tPacket (2 ^ 46) 0) 0 { Port.reset with state := .failed } (by decide +kernel) (by decide +kernel) (by decide +kernel)).2 1
    (by decide +kernel)).2.2 (by rfl)
  exact ⟨a.imp fun _ h => h.1, ⟨_, b⟩, c.imp fun _ h => h.1, d.imp fun _ h => h.1⟩

/-- A frame with a put packet for stack 0 comes in at an Ethernet port that has a key. -/
def tEtherFrame (key : Nat) : State :=
  { tState.modPackage 0 fun k => { k with ether := [(2, 9)] } with agenda := [.frame 0 2 key tRemotePacket] }

theorem test_meets_NetworkMoves_frames (h : NetworkMoves) : (∃ t, step (tEtherFrame 9) = .next t) ∧ ∃ t, step (tEtherFrame 8) = .next t := by
  have run (key : Nat) := (h (tEtherFrame key) []).2.2 0 2 key tRemotePacket rfl (by decide +kernel) (by decide +kernel) (by decide +kernel) (by decide +kernel)
  exact ⟨((run 9).1 (by rfl) { tDataOf with ether := true } (by decide +kernel)).imp fun _ h => h.1, ⟨_, (run 8).2 (by decide +kernel)⟩⟩

/-- Flits of a kind, at a place of a run and a number, that acknowledge nothing. -/
def tFlit (kind pos seq : Nat) (payload : List Byte) : Flit :=
  { header := FlitHead.bits { kind := kind, kidx := 0, pos := pos, seq := seq, aseq := 0, av := false, start := 127, zero := 0 }, payload := payload }
def tFlitBytes (kind seq : Nat) : List Byte := (tFlit kind 0 seq (List.replicate 112 0)).bytes

theorem quiet_reset {p : Port} (h : p.pending = none ∧ p.pos < 16 ∧ p.queue.length < 112) : Quiet p := h

theorem test_meets_FlitsAreReceived (h : FlitsAreReceived) :
    (∃ t, exec (.enrikFlitReceive 0 0 (tFlitBytes 1 5)) (tLink { Port.reset with expect := 5 } 0) = .next t)
      ∧ (∃ t, exec (.enrikFlitReceive 0 0 (tFlitBytes 1 6)) (tLink { Port.reset with expect := 5 } 0) = .next t)
      ∧ (∃ t, exec (.enrikFlitReceive 0 0 (tFlitBytes 3 4)) (tLink { Port.reset with expect := 5 } 0) = .next t)
      ∧ (∃ t, exec (.enrikFlitReceive 0 0 (tFlitBytes 4 0)) (tLink { Port.reset with expect := 5 } 0) = .next t)
      ∧ (∃ t, exec (.enrikFlitReceive 0 0 (tFlitBytes 5 0)) (tLink { Port.reset with expect := 5 } 0) = .next t)
      ∧ (∃ t, exec (.enrikFlitReceive 0 0 [1]) (tLink { Port.reset with expect := 5 } 0) = .next t)
      ∧ (∃ t, exec (.enrikFlitReceive 0 0 [1]) (tLink { Port.reset with crcAt := List.replicate 15 0 } 4000) = .next t)
      ∧ ∃ t, exec (.enrikFlitReceive 0 0 [1]) (tLink { Port.reset with state := .failed } 0) = .next t := by
  have run (bs : List Byte) (p : Port) (time : Nat) (hq : Quiet ((tLink p time).port 0 0)) := h (tLink p time) 0 0 bs (by decide) hq
  have up (bs : List Byte) (hf : flitOk bs = true) := (run bs { Port.reset with expect := 5 } 0 ⟨by rfl, by decide +kernel, by decide +kernel⟩).2.2
    (by decide +kernel) hf
  exact ⟨((up (tFlitBytes 1 5) (by decide +kernel)).1 (.inl (by decide +kernel)) (by decide +kernel) (by decide +kernel)).imp fun _ h => h.1,
    ((up (tFlitBytes 1 6) (by decide +kernel)).2.1 (.inl (by decide +kernel)) (by decide +kernel) (by decide +kernel)).imp fun _ h => h.1,
    ((up (tFlitBytes 3 4) (by decide +kernel)).2.2.1 (.inr (.inr (by decide +kernel))) (by decide +kernel) (by decide +kernel)).imp fun _ h => h.1,
    ((up (tFlitBytes 4 0) (by decide +kernel)).2.2.2.1 (.inr (by decide +kernel))).imp fun _ h => h.1,
    ((up (tFlitBytes 5 0) (by decide +kernel)).2.2.2.2 (by decide +kernel)).imp fun _ h => h.1,
    (((run [1] { Port.reset with expect := 5 } 0 ⟨by rfl, by decide +kernel, by decide +kernel⟩).2.1 (by decide +kernel) (by decide +kernel)).1
      (by decide +kernel)).imp fun _ h => h.1,
    (((run [1] { Port.reset with crcAt := List.replicate 15 0 } 4000 ⟨by rfl, by decide +kernel, by decide +kernel⟩).2.1 (by decide +kernel)
      (by decide +kernel)).2 (by decide +kernel)).imp fun _ h => h.1,
    ((run [1] { Port.reset with state := .failed } 0 ⟨by rfl, by decide +kernel, by decide +kernel⟩).1 (by decide +kernel)).imp fun _ h => h.1⟩

/-- A run of 16 flits without data under a key, and its trailer with a tag. -/
def tFlits : List Flit := (List.range 16).map fun n => tFlit 2 n n []
def tReceiving (fails : Nat) : Port := { Port.reset with expect := 16, rxRun := tFlits, rxKeys := [(0, 5)], runFails := fails }
def tTag : List Byte := leBytes 16 0x3a2945a155ac558e10f1a27ebc7ba178
def tTrailer (tag : List Byte) : List Byte := (tFlit 3 0 16 (tag ++ List.replicate 96 0)).bytes

theorem run_tag : ofNats (gcmTag (runKey 5) (runIv (linkId (torusNext 0 0) (facing 0)) 0) (runAad tFlits) []) = tTag := by decide +kernel

/-- Whether the tag that comes in is the run's. -/
theorem run_good {fails : Nat} {bs : List Byte} (hr : ((tLink (tReceiving fails) 0).port 0 0).rxRun = tFlits)
    (hc : leNat ((bs.drop 24).take 8) = 0) :
    (ofNats (gcmTag (runKey 5) (runIv (linkId (torusNext 0 0) (facing 0)) (leNat ((bs.drop 24).take 8)))
      (runAad ((tLink (tReceiving fails) 0).port 0 0).rxRun) (((tLink (tReceiving fails) 0).port 0 0).rxRun.flatMap fun f => toNats f.payload))
      = (bs.drop 8).take 16) ↔ tTag = (bs.drop 8).take 16 := by
  have hn : (tFlits.flatMap fun f => toNats f.payload) = [] := by decide +kernel
  rw [hr, hc, hn, run_tag]

theorem test_meets_RunsAreVerified (h : RunsAreVerified) :
    (∃ t, exec (.enrikFlitReceive 0 0 (tTrailer tTag)) (tLink (tReceiving 0) 0) = .next t)
      ∧ (∃ t, exec (.enrikFlitReceive 0 0 (tTrailer (List.replicate 16 0))) (tLink (tReceiving 1) 0) = .next t)
      ∧ ∃ t, exec (.enrikFlitReceive 0 0 (tTrailer (List.replicate 16 0))) (tLink (tReceiving 2) 0) = .next t := by
  have run (fails : Nat) (tag : List Byte) := h (tLink (tReceiving fails) 0) 0 0 5 (tTrailer tag) (by decide)
  refine ⟨?_, ?_, ?_⟩
  · refine ((run 0 tTag ⟨by rfl, ?_, ?_⟩ ?_ ?_ ?_ ?_ ?_ ?_ ?_ ?_).1 ((run_good ?_ ?_).mpr ?_)).imp fun _ h => h.1 <;> decide +kernel
  · refine (((run 1 (List.replicate 16 0) ⟨by rfl, ?_, ?_⟩ ?_ ?_ ?_ ?_ ?_ ?_ ?_ ?_).2 (flitHead (tFlit 2 0 0 []).header)
      (fun hg => absurd ((run_good ?_ ?_).mp hg) ?_) ?_).1 ?_).imp fun _ h => h.1 <;> decide +kernel
  · refine (((run 2 (List.replicate 16 0) ⟨by rfl, ?_, ?_⟩ ?_ ?_ ?_ ?_ ?_ ?_ ?_ ?_).2 (flitHead (tFlit 2 0 0 []).header)
      (fun hg => absurd ((run_good ?_ ?_).mp hg) ?_) ?_).2 ?_).imp fun _ h => h.1 <;> decide +kernel

/-- A port that holds one flit and has half a packet's bytes to send. -/
def tSending (state : LinkState) : Port :=
  { Port.reset with state := state, replay := [tFlit 1 0 7 []], queue := List.replicate 16 (false, 0), txKeys := [(0, 5)] }

theorem test_meets_PortsSend (h : PortsSend) :
    (∃ t, exec (.enrikNakReceive 0 0 7) (tLink (tSending .up) 0) = .next t) ∧ (∃ t, exec (.enrikAckTimeout 0 0) (tLink (tSending .up) 8000) = .next t)
      ∧ exec (.enrikAckTimeout 0 0) (tLink (tSending .up) 7999) = .next (tLink (tSending .up) 7999)
      ∧ (∃ t, exec (.runPadTimeout 0 0) (tLink (tSending .up) 95) = .next t)
      ∧ exec (.runPadTimeout 0 0) (tLink (tSending .up) 94) = .next (tLink (tSending .up) 94)
      ∧ (∃ t, exec (.retrainComplete 0 0) (tLink (tSending .retraining) 0) = .next t)
      ∧ (∃ t, exec (.retrainTimeout 0 0) (tLink (tSending .retraining) 40000000) = .next t)
      ∧ exec (.retrainTimeout 0 0) (tLink (tSending .retraining) 39999999) = .next (tLink (tSending .retraining) 39999999) := by
  have run (st : LinkState) (time : Nat) := h (tLink (tSending st) time) 0 0 (by decide)
  have pad : ∃ t, exec (.runPadTimeout 0 0) (tLink (tSending .up) 95) = .next t := by
    refine ((run .up 95).2.2.2.1 5 ?_ ?_ ?_ ?_ ?_ ?_ ?_ (.inr ?_) ?_).imp fun _ h => h.1 <;> decide +kernel
  exact ⟨((run .up 0).1 7 (by decide) (by decide +kernel)).imp fun _ h => h.1,
    (((run .up 8000).2.1 (by decide +kernel) (by decide +kernel)).1 (by decide +kernel)).imp fun _ h => h.1,
    ((run .up 7999).2.1 (by decide +kernel) (by decide +kernel)).2 (by decide +kernel),
    pad,
    (run .up 94).2.2.1 (by decide +kernel),
    (((run .retraining 0).2.2.2.2 (by decide +kernel)).1 ⟨by rfl, by decide +kernel, by decide +kernel⟩).imp fun _ h => h.1,
    (((run .retraining 40000000).2.2.2.2 (by decide +kernel)).2.1 (by decide +kernel)).imp fun _ h => h.1,
    ((run .retraining 39999999).2.2.2.2 (by decide +kernel)).2.2 (by decide +kernel)⟩

/-- A port with keys under both indexes for sending, which sends under index 1; with a notice that has come in; and with its counter used up. -/
def tKeys : Port := { Port.reset with txKeys := [(0, 5), (1, 6)], kidx := 1, rxKeys := [(0, 9)], rxBytes := packetBytes (retireNotice 0) }
def tUsed : Port := { Port.reset with runCount := 2 ^ 40 }

theorem test_meets_LinkKeys (h : LinkKeys) :
    (∃ t, exec (.linkKeyInstall 0 0 1 7 true) (tLink Port.reset 0) = .next t) ∧ (∃ t, exec (.linkKeyInstall 0 0 1 7 false) (tLink tKeys 0) = .next t)
      ∧ exec (.linkKeyInstall 0 0 0 7 true) (tLink tKeys 0) = .next (tLink tKeys 0) ∧ (∃ t, exec (.keyRetireSend 0 0) (tLink tKeys 0) = .next t)
      ∧ (∃ t, exec (.keyRetireReceive 0 0) (tLink tKeys 0) = .next t) ∧ (∃ t, exec (.runCounterExhausted 0 0) (tLink tUsed 0) = .next t)
      ∧ exec (.runCounterExhausted 0 0) (tLink tKeys 0) = .next (tLink tKeys 0) := by
  have run (p : Port) := h (tLink p 0) 0 0 (by decide)
  exact ⟨(((run Port.reset).1 1 7 (by decide)).1 (by decide +kernel) (by decide +kernel) (by decide +kernel)).imp fun _ h => h.1,
    (((run tKeys).1 1 7 (by decide)).2.1 (by decide +kernel)).imp fun _ h => h.1, ((run tKeys).1 0 7 (by decide)).2.2 (by decide +kernel),
    (((run tKeys).2.1 (by decide +kernel) (by decide +kernel) ⟨by rfl, by decide +kernel, by decide +kernel⟩ (by decide +kernel) (by decide +kernel)).1
      (by decide +kernel) (by decide +kernel)).imp fun _ h => h.1,
    ((run tKeys).2.2.1 0 [] (by decide) (by decide +kernel) (by decide +kernel)).imp fun _ h => h.1,
    (((run tUsed).2.2.2 (by decide +kernel) (by decide +kernel) (by decide +kernel)).1 (by decide +kernel)).imp fun _ h => h.1,
    ((run tKeys).2.2.2 (by decide +kernel) (by decide +kernel) (by decide +kernel)).2 (by decide +kernel)⟩

/-- Package 0 is the root at a pod time. -/
def tRoot (time : Nat) : State := { tState.modPackage 0 fun k => { k with root := true } with time := time }

theorem test_meets_PodTime (h : PodTime) :
    (∃ t, exec (.timeBeaconSend 0) (tRoot 40000) = .next t) ∧ exec (.timeBeaconSend 0) (tRoot 39999) = .next (tRoot 39999)
      ∧ (∃ t, exec (.timeBeaconReceive 0 3 100) tState = .next t) ∧ exec (.timeBeaconReceive 0 3 100) (tRoot 0) = .next (tRoot 0)
      ∧ ∃ t, exec (.linkDelayMeasure 0 0 12) tState = .next t := by
  obtain ⟨t, _, hc, _⟩ := (h.2 tState 0 3 100 (by decide)).1 (by decide +kernel)
  exact ⟨((h.1 (tRoot 40000) 0).1 (by decide +kernel) (by decide +kernel)).imp fun _ h => h.1, (h.1 (tRoot 39999) 0).2 (.inr (by decide +kernel)),
    ⟨t, hc⟩, (h.2 (tRoot 0) 0 3 100 (by decide)).2.1 (by decide +kernel), ((h.2 tState 0 0 0 (by decide)).2.2 12).imp fun _ h => h.1⟩

/-! ### Remote packets -/

/-- A packet from stack 1 on channel 0, of a kind and a number. -/
def tPack (kind seq dst : Nat) (data : List Byte) : RPkt :=
  { chan := 0, kind := kind, relaxed := true, hasKey := false, seq := seq, time := 0, first := 0, count := 0, key := 0, dst := dst, data := data,
    src := 1, need := 4, ether := false }

/-- Channel 0 of stack 0 belongs to dike 1 and ends at stack 1, where its number is 3; its next number is 9, its window begins at 5; the packets
have arrived, and the transfers run. -/
def tChannel (cached : List Nat) (arrived pool : List RPkt) (xfers : List Xfer) (time : Nat) : State :=
  let s := tBytes [(0x41000000, leBytes 2 1 ++ [0, 0] ++ leBytes 4 (2 ^ 20) ++ leBytes 6 0 ++ leBytes 2 3 ++ leBytes 4 9 ++ leBytes 4 5)] tState
  { s.modStack 0 fun k => { k with tblBase := 0x41000000, bmpBase := 0x42000000, chanCount := 1, chans := cached, arrived := arrived, pool := pool,
                                   xfers := xfers }
    with time := time }

/-- A packet of a channel that does not exist. -/
def tStray (kind : Nat) : RPkt := { tPack kind 5 0 [] with chan := 7 }

/-- The router of the stack's first slice has room for no packet of a class from its put engine. -/
def tJammed (cls : Nat) (s : State) : State := s.setInput 0 4 cls (List.replicate 4 [])

theorem test_meets_ChannelsGate (h : ChannelsGate) :
    (∃ t, exec (.putDataPacket 0 0) (tChannel [] [tStray 1] [] [] 0) = .next t)
      ∧ (∃ t, exec (.putFinalWrite 0 0) (tChannel [] [tPack 2 5 0 []] [] [] 0) = .next t)
      ∧ (∃ t, exec (.putDataPacket 0 0) (tChannel [] [tPack 1 5 0 []] (List.replicate 64 (tPack 1 6 0 [])) [] 0) = .next t)
      ∧ (∃ t, exec (.remoteAck 0 0) (tChannel [] [tPack 5 5 0 []] (List.replicate 64 (tPack 1 6 0 [])) [] 0) = .next t)
      ∧ (∃ t, exec (.channelRecordRefill 0 0) (tChannel [] [] [tPack 1 5 0 []] [] 0) = .next t)
      ∧ exec (.channelRecordRefill 0 0) (tChannel [] [] [] [] 0) = .next (tChannel [] [] [] [] 0) := by
  have run (ev : Instr) (kind : Nat) (p : RPkt) (pool : List RPkt) (ht : Takes ev 0 0 kind)
      (hp : (tChannel [] [p] pool [] 0).arrivedOf 0 0 kind = some p) := h.1 (tChannel [] [p] pool [] 0) ev 0 0 kind p ht hp
  have a := (run (.putDataPacket 0 0) 1 (tStray 1) [] rfl (by decide +kernel)).1 (by decide +kernel)
  have b := (run (.putFinalWrite 0 0) 2 (tPack 2 5 0 []) [] rfl (by decide +kernel)).2.1 (by decide +kernel) (by decide +kernel) (by decide +kernel)
  have c := (run (.putDataPacket 0 0) 1 (tPack 1 5 0 []) (List.replicate 64 (tPack 1 6 0 [])) rfl (by decide +kernel)).2.2.1 (by decide +kernel)
    (by decide +kernel) (by decide +kernel) (by decide) (by decide +kernel)
  have d := (run (.remoteAck 0 0) 5 (tPack 5 5 0 []) (List.replicate 64 (tPack 1 6 0 [])) rfl (by decide +kernel)).2.2.2 (by decide +kernel)
    (by decide +kernel) (by decide +kernel) (.inl (by decide))
  exact ⟨a.imp fun _ h => h.1, b.imp fun _ h => h.1, c.imp fun _ h => h.1, ⟨_, d⟩,
    ((h.2 (tChannel [] [] [tPack 1 5 0 []] [] 0) 0 0).1 (by decide +kernel)).imp fun _ h => h.1, (h.2 (tChannel [] [] [] [] 0) 0 0).2 (by decide +kernel)⟩

/-- The record and bitmap of channel 0 are where the small machine has them, no channel of DRAM has failed, and no line is far. -/
def tHomely (s : State) : Bool :=
  decide (s.chanRec 0 0 = 0x41000000 ∧ s.chanMap 0 0 = 0x42000000 ∧ SMap.wf s.mem = true)
    && s.slices.all fun e => !e.2.chan.failed && e.2.lines.all fun l => l.2.kind != .far

theorem channel_home {s : State} (h : tHomely s = true) : ChannelHome s 0 0 := by
  obtain ⟨h1, hs⟩ := (Bool.and_eq_true ..).mp h
  obtain ⟨hr, hm, hw⟩ := of_decide_eq_true h1
  have sl (k : Nat) : (s.slice k).chan.failed = false ∧ ∀ e ∈ (s.slice k).lines, e.2.kind ≠ .far := by
    cases hk : s.slices.find? k with
    | none => simp [State.slice, SMap.getD, hk, Slice.reset, Channel.reset]
    | some x => simpa [State.slice, SMap.getD, hk] using List.all_eq_true.mp hs (k, x) (find_mem hk)
  refine ⟨fun j hj => ⟨?_, fun _ => .inr (sl _).1⟩, fun j hj => ⟨?_, fun _ => .inr (sl _).1⟩, .inl (by rw [hr, hm]; decide), hw,
    fun n _ => (sl _).2⟩
  · rw [hr]; unfold stkOfPa; omega
  · rw [hm]; unfold stkOfPa; omega

theorem bytes_of_mem {s t : State} (h : t.mem = s.mem) : ∀ a, t.byte a = s.byte a := fun a => by simp [State.byte, h]

/-- The pieces of a put packet's four bytes at 0x4000_1000, behind its check. -/
def tOrdered (seq : Nat) (relaxed : Bool) : RPkt := { tPack 1 seq 0x40001000 [1, 2, 3, 4] with relaxed := relaxed }
def tArrived (seq : Nat) (relaxed : Bool) (now : Nat) : State := tChannel [0] [tOrdered seq relaxed] [] [] now
def tPut : List Piece × State :=
  tPieces (((tArrived 5 true 0).useChan 0 0).enginePieces 0 ((tArrived 5 true 0).chanNum 0 0 0 2) none true 0x40001000 4 0)

theorem put_mem : (tPut.2.engineWrite 0 tPut.1 [1, 2, 3, 4]).mem = ((tArrived 5 true 0).setBytes 0x40001000 [1, 2, 3, 4]).mem := by decide +kernel

theorem put_byte {a : Nat} (hw : SMap.wf (tArrived 5 true 0).mem = true) (ha : ¬(0x40001000 ≤ a ∧ a < 0x40001004)) :
    (tPut.2.engineWrite 0 tPut.1 [1, 2, 3, 4]).byte a = (tArrived 5 true 0).byte a := by
  rw [State.byte, put_mem]
  exact (State.byte_setBytes (s := tArrived 5 true 0) hw).trans (if_neg ha)

theorem arrived_of {s : State} {kind : Nat} {p : RPkt} (h : s.arrivedOf 0 0 kind = some p ∧ s.chanKnows 0 p = true ∧ p.chan ∈ (s.stack 0).chans) :
    Arrived s 0 0 kind p := h

theorem test_meets_PutPacketsPerform (h : PutPacketsPerform) :
    (∃ t, exec (.putDataPacket 0 0) (tJammed 1 (tArrived 5 true 0)) = .next t) ∧ (∃ t, exec (.putDataPacket 0 0) (tArrived 5 true 20000001) = .next t)
      ∧ (∃ t, exec (.putDataPacket 0 0) (tArrived 4 true 0) = .next t) ∧ (∃ t, exec (.putDataPacket 0 0) (tArrived 65541 true 0) = .next t)
      ∧ (∃ t, exec (.putDataPacket 0 0) (tArrived 6 false 0) = .next t) ∧ ∃ t, exec (.putDataPacket 0 0) (tArrived 5 true 0) = .next t := by
  have run (seq : Nat) (rx : Bool) (now : Nat) (ha : Arrived (tArrived seq rx now) 0 0 1 (tOrdered seq rx))
      (hp : (tArrived seq rx now).sendReady 0 0 5 = true) :=
    (h (tArrived seq rx now) (.putDataPacket 0 0) 0 0 1 (tOrdered seq rx) rfl (by decide) ha).2 hp
  have z := (h (tJammed 1 (tArrived 5 true 0)) (.putDataPacket 0 0) 0 0 1 (tOrdered 5 true) rfl (by decide) (arrived_of (by decide +kernel))).1
    (by decide +kernel)
  have hw : SMap.wf (tArrived 5 true 0).mem = true := by decide +kernel
  have hr : (tArrived 5 true 0).chanRec 0 0 = 0x41000000 := by rfl
  have hm : (tArrived 5 true 0).chanMap 0 0 = 0x42000000 := by rfl
  obtain ⟨t, he, _⟩ := (run 5 true 0 (arrived_of (by decide +kernel)) (by decide +kernel)).2.2.2.2.1 tPut.1 tPut.2 (by decide +kernel)
    (eng_ok (by decide +kernel)) (by decide +kernel) (fun a ha => put_byte hw fun hx => ha (by
      show (a < (tArrived 5 true 0).chanRec 0 0 ∨ _) ∧ (a < (tArrived 5 true 0).chanMap 0 0 ∨ _)
      rw [hr, hm]; exact ⟨.inl (by omega), .inl (by omega)⟩)) (channel_home (by decide +kernel))
  exact ⟨z.imp fun _ h => h.1,
    ((run 5 true 20000001 (arrived_of (by decide +kernel)) (by decide +kernel)).1 (by decide +kernel)).imp fun _ h => h.1,
    ((run 4 true 0 (arrived_of (by decide +kernel)) (by decide +kernel)).2.1 (by decide +kernel)).imp fun _ h => h.1,
    ((run 65541 true 0 (arrived_of (by decide +kernel)) (by decide +kernel)).2.2.1 (by decide +kernel)).imp fun _ h => h.1,
    ((run 6 false 0 (arrived_of (by decide +kernel)) (by decide +kernel)).2.2.2.1 (by decide +kernel)).imp fun _ h => h.1, ⟨t, he⟩⟩

/-- A transfer of slot 0 on a channel that has sent some packets, and those packets. -/
def tXfer (chan len next : Nat) (sent : List XPkt) : Xfer :=
  { ep := 0, dike := 1, desc := 0, isGet := false, loc := 0x40001000, remote := 0x40002000, len := len, chan := chan, tag := 5, flags := 0, key := 0,
    final := 0, finalAddr := 0, bar := 0, pc := 8, img := 0, after := 0, next := next, first := some 5, finalSent := false, sent := sent, done := 0,
    stop := none }
def tSentPkt (seq : Nat) : XPkt := { pkt := tPack 1 seq 0x40002000 [1, 2, 3, 4], len := 4, off := 0, last := 0, backoff := 8000, epoch := none }

/-- A packet whose target does not translate, and its transfer in stack 1. -/
def tRefused : State :=
  (tChannel [0] [tPack 1 5 0x80000000 [1, 2, 3, 4]] [] [] 0).modStack 1 fun k => { k with xfers := [tXfer 3 8 8 [tSentPkt 5, tSentPkt 6]] }
def tHalt : Eng × State := (tRefused.useChan 0 0).enginePieces 0 (tRefused.chanNum 0 0 0 2) none true 0x80000000 4 0
def tHaltOf : Nat × Nat × Nat × Nat × Nat := match tHalt with | (.stop c a ua f g, _) => (c, a, ua, f, g) | _ => (0, 0, 0, 0, 0)

theorem test_meets_PutPacketsPerform_stops (h : PutPacketsPerform) : ∃ t, exec (.putDataPacket 0 0) tRefused = .next t := by
  obtain ⟨t, _, _, he, _⟩ := (((h tRefused (.putDataPacket 0 0) 0 0 1 (tPack 1 5 0x80000000 [1, 2, 3, 4]) rfl (by decide)
    (arrived_of (by decide +kernel))).2 (by decide +kernel)).2.2.2.2.2 tHaltOf.1 tHaltOf.2.1 tHaltOf.2.2.1 tHaltOf.2.2.2.1 tHaltOf.2.2.2.2 tHalt.2
    (by decide +kernel) (pair (by decide +kernel))).2 0 (tXfer 3 8 8 [tSentPkt 5, tSentPkt 6]) (tSentPkt 5) (tSentPkt 6) rfl (by decide +kernel)
    rfl (List.mem_cons_of_mem _ (List.mem_cons_self ..)) (by decide)
  exact ⟨t, he⟩

/-- A get request, and the bytes of one that has been answered. -/
def tGet (seq : Nat) : State := tChannel [0] [tPack 3 seq 0x40001000 []] [] [] 0
def tGetPieces (seq : Nat) : List Piece × State :=
  tPieces (((tGet seq).useChan 0 0).enginePieces 0 ((tGet seq).chanNum 0 0 0 2) none false 0x40001000 4 0)
def tGetRead (seq : Nat) : Got × State :=
  (tGetPieces seq).2.readPieces 0 0 none (tGetPieces seq).1 false 3 ((tGetPieces seq).2.hostFor 0 (tGetPieces seq).1 [])
def tGot4 (xfers : List Xfer) : State := tChannel [0] [tPack 4 5 0 [1, 2, 3, 4]] [] xfers 0
def tGetXfer : Xfer := { tXfer 0 8 8 [tSentPkt 5, tSentPkt 6] with isGet := true }
def tBack : State := tGot4 [tGetXfer]
def tBackPieces : List Piece × State := tPieces ((tBack.useChan 0 0).enginePieces 0 1 (some 0) true ((0x40001000 + 0) % 2 ^ 64) 4 0)

theorem get_serves (h : GetsReadAndFill) (seq : Nat) (ha : Arrived (tGet seq) 0 0 3 (tPack 3 seq 0x40001000 []))
    (hr : (tGet seq).sendReady 0 0 4 = true)
    (hc : ((tGet seq).useChan 0 0).checkPkt 0 (tPack 3 seq 0x40001000 []) ≠ .old ∧ ((tGet seq).useChan 0 0).checkPkt 0 (tPack 3 seq 0x40001000 []) ≠ .far)
    (he : engOk (((tGet seq).useChan 0 0).enginePieces 0 ((tGet seq).chanNum 0 0 0 2) none false 0x40001000 4 0) = true)
    (hx : ((tGetPieces seq).2.memoryHeld (tGetPieces seq).1 || (tGetPieces seq).2.cutOff 0 (tGetPieces seq).1) = false)
    (hg : (tGetRead seq).1.bad = [] ∧ (tGetRead seq).1.data.length ≤ 256) (hm : (tGetRead seq).2.mem = (tGet seq).mem)
    (hh : tHomely (tGetRead seq).2 = true) : ∃ t, exec (.getRequestPacket 0 0 [] false) (tGet seq) = .next t :=
  (((h.1 (tGet seq) 0 0 [] false (tPack 3 seq 0x40001000 []) ha).2 hr).2.2 (tGetPieces seq).2 (tGetRead seq).2 (tGetPieces seq).1 (tGetRead seq).1
    hc.1 hc.2 (eng_ok he) hx (Prod.eta _).symm hg.1 hg.2 rfl (bytes_of_mem hm) (channel_home hh)).imp fun _ h => h.1

/-- A request that comes for the first time, one that comes again and one beyond the window. -/
theorem test_meets_GetsReadAndFill_request (h : GetsReadAndFill) :
    (∃ t, exec (.getRequestPacket 0 0 [] false) (tGet 5) = .next t) ∧ (∃ t, exec (.getRequestPacket 0 0 [] false) (tGet 4) = .next t)
      ∧ ∃ t, exec (.getRequestPacket 0 0 [] false) (tGet 65541) = .next t := by
  refine ⟨get_serves h 5 (arrived_of ?_) ?_ ?_ ?_ ?_ ?_ ?_ ?_, get_serves h 4 (arrived_of ?_) ?_ ?_ ?_ ?_ ?_ ?_ ?_,
    (((h.1 (tGet 65541) 0 0 [] false (tPack 3 65541 0x40001000 []) (arrived_of ?_)).2 ?_).2.1 ?_).imp fun _ h => h.1⟩ <;> decide +kernel

/-- Bytes that no transfer and that one waits for. -/
theorem test_meets_GetsReadAndFill_data (h : GetsReadAndFill) :
    (∃ t, exec (.getDataPacket 0 ⟨0, false⟩) (tGot4 []) = .next t) ∧ ∃ t, exec (.getDataPacket 0 ⟨0, false⟩) tBack = .next t := by
  have b := (h.2 (tGot4 []) 0 0 false (tPack 4 5 0 [1, 2, 3, 4]) (arrived_of (by decide +kernel))).1 (by decide +kernel)
  obtain ⟨t, c, _⟩ := ((h.2 tBack 0 0 false (tPack 4 5 0 [1, 2, 3, 4]) (arrived_of (by decide +kernel))).2 0 tGetXfer (tSentPkt 5)
    (by decide +kernel)).2 tBackPieces.1 tBackPieces.2 (tSentPkt 6) rfl rfl rfl (eng_ok (by decide +kernel)) (by decide +kernel) (by decide +kernel)
    (List.mem_cons_of_mem _ (List.mem_cons_self ..)) (by decide) (channel_home (by decide +kernel)) rfl
  exact ⟨b.imp fun _ h => h.1, t, c⟩

theorem test_meets_PacketsAreAnswered_arrive (h : PacketsAreAnswered) :
    (∃ t, exec (.notReadyReply 0 0) (tChannel [0] [tPack 6 5 0 []] [] [] 0) = .next t)
      ∧ (∃ t, exec (.notReadyReply 0 0) (tChannel [0] [tPack 6 5 0 []] [] [tXfer 0 8 8 [tSentPkt 5]] 0) = .next t)
      ∧ (∃ t, exec (.remoteAck 0 0) (tChannel [0] [tPack 5 5 0 []] [] [tGetXfer] 0) = .next t)
      ∧ (∃ t, exec (.remoteAck 0 0) (tChannel [0] [tPack 5 5 0 []] [] [tXfer 0 8 8 [tSentPkt 5, tSentPkt 6]] 0) = .next t)
      ∧ ∃ t, exec (.remoteAck 0 0) (tChannel [0] [tPack 5 5 0 []] [] [tXfer 0 8 8 [tSentPkt 5]] 0) = .next t := by
  have run (ev : Instr) (kind : Nat) (xs : List Xfer) (ht : Takes ev 0 0 kind) (hk : kind = 5 ∨ kind = 6)
      (ha : Arrived (tChannel [0] [tPack kind 5 0 []] [] xs 0) 0 0 kind (tPack kind 5 0 [])) :=
    h.1 (tChannel [0] [tPack kind 5 0 []] [] xs 0) ev 0 0 kind (tPack kind 5 0 []) ht hk ha
  have b := (run (.notReadyReply 0 0) 6 [] rfl (.inr rfl) (arrived_of (by decide +kernel))).1 (by decide +kernel)
  have c := ((run (.notReadyReply 0 0) 6 [tXfer 0 8 8 [tSentPkt 5]] rfl (.inr rfl) (arrived_of (by decide +kernel))).2 0
    (tXfer 0 8 8 [tSentPkt 5]) (tSentPkt 5) (by decide +kernel)).1 rfl
  have a := ((run (.remoteAck 0 0) 5 [tGetXfer] rfl (.inl rfl) (arrived_of (by decide +kernel))).2 0 tGetXfer (tSentPkt 5) (by decide +kernel)).2.1 rfl rfl
  have d := ((run (.remoteAck 0 0) 5 [tXfer 0 8 8 [tSentPkt 5, tSentPkt 6]] rfl (.inl rfl) (arrived_of (by decide +kernel))).2 0
    (tXfer 0 8 8 [tSentPkt 5, tSentPkt 6]) (tSentPkt 5) (by decide +kernel)).2.2.2.1 (tSentPkt 6) rfl rfl (by decide) (channel_home (by decide +kernel))
    (List.mem_cons_of_mem _ (List.mem_cons_self ..)) (by decide)
  have e := ((run (.remoteAck 0 0) 5 [tXfer 0 8 8 [tSentPkt 5]] rfl (.inl rfl) (arrived_of (by decide +kernel))).2 0
    (tXfer 0 8 8 [tSentPkt 5]) (tSentPkt 5) (by decide +kernel)).2.2.2.2 rfl rfl (by decide) (by decide) rfl (by decide) rfl
  exact ⟨b.imp fun _ h => h.1, c.imp fun _ h => h.1, a.imp fun _ h => h.1, d.imp fun _ h => h.1, e.imp fun _ h => h.1⟩

theorem test_meets_PacketsAreAnswered_time (h : PacketsAreAnswered) :
    (∃ t, exec (.resendBackoffExpiry 0 0 0) (tChannel [0] [] [] [tXfer 0 8 8 [tSentPkt 5]] 8000) = .next t)
      ∧ exec (.resendBackoffExpiry 0 0 0) (tChannel [0] [] [] [tXfer 0 8 8 [tSentPkt 5]] 7999)
          = .next (tChannel [0] [] [] [tXfer 0 8 8 [tSentPkt 5]] 7999)
      ∧ (∃ t, exec (.remoteAgeStop 0 0) (tChannel [0] [] [] [tXfer 0 8 8 [tSentPkt 5]] 20000000) = .next t)
      ∧ exec (.remoteAgeStop 0 0) (tChannel [0] [] [] [tXfer 0 8 8 [tSentPkt 5]] 19999999)
          = .next (tChannel [0] [] [] [tXfer 0 8 8 [tSentPkt 5]] 19999999) := by
  have run (time : Nat) := h.2.1 (tChannel [0] [] [] [tXfer 0 8 8 [tSentPkt 5]] time) 0 0 0 (tXfer 0 8 8 [tSentPkt 5]) (tSentPkt 5) (by rfl) (by rfl)
  have age (time : Nat) := h.2.2 (tChannel [0] [] [] [tXfer 0 8 8 [tSentPkt 5]] time) 0 0 (tXfer 0 8 8 [tSentPkt 5]) (by rfl)
  obtain ⟨t, _, h1, _⟩ := (run 8000).1 (by decide +kernel) (by decide +kernel) (by decide +kernel) (by decide)
  exact ⟨⟨t, h1⟩, (run 7999).2 (.inl (by decide +kernel)),
    ((age 20000000).1 ⟨tSentPkt 5, List.mem_cons_self .., by decide +kernel⟩).imp fun _ h => h.1, (age 19999999).2 (by decide +kernel)⟩

/-- A put of 300 bytes with its first 256 behind it, a get of as many, and a put whose final write is left. -/
def tRestOf (x : Xfer) : State := tChannel [0] [] [] [x] 0
def tRestPieces : List Piece × State :=
  tPieces ((tRestOf (tXfer 0 300 256 [])).enginePieces 0 1 (some 0) false ((0x40001000 + 256) % 2 ^ 64) (min 256 (300 - 256)) 0)
def tRestRead : Got × State := tRestPieces.2.readPieces 0 0 none tRestPieces.1 false 3 (tRestPieces.2.hostFor 0 tRestPieces.1 [])
def tFinal : Xfer := { tXfer 0 300 300 [] with flags := 2, final := 1, finalAddr := 0x40003000 }

theorem test_meets_PutsAreSent (h : PutsAreSent) :
    (∃ t, exec (.sliceRequest 0 (.engine 0 false [] false)) (tRestOf (tXfer 0 300 256 [])) = .next t)
      ∧ (∃ t, exec (.sliceRequest 0 (.engine 0 false [] false)) (tRestOf { tXfer 0 300 256 [] with isGet := true }) = .next t)
      ∧ (∃ t, exec (.sliceRequest 0 (.engine 0 false [] false)) (tRestOf tFinal) = .next t)
      ∧ ∃ t, exec (.sliceRequest 0 (.engine 0 false [] false)) (tJammed 0 (tRestOf tFinal)) = .next t := by
  have run (x : Xfer) (hx : x.stop = none ∧ x.allSent = false) (hh : (tRestOf x).handed x.ep x.after = true ∧ (tRestOf x).chanTaken 0 0 x = false
      ∧ (tRestOf x).sendReady 0 x.chan 1 = true) := (h (tRestOf x) 0 0 false false [] x (by rfl) hx.1 hx.2).2 hh.1 hh.2.1 hh.2.2
  obtain ⟨t, _, _, ⟨ha, _⟩, _⟩ := (run (tXfer 0 300 256 []) (by decide) (by decide +kernel)).2.2 tRestPieces.2 tRestRead.2 tRestPieces.1 tRestRead.1
    (by decide) rfl (eng_ok (by decide +kernel)) rfl (by decide +kernel) (Prod.eta _).symm (by decide +kernel) rfl (by decide +kernel)
    (bytes_of_mem (by decide +kernel)) (channel_home (by decide +kernel))
  obtain ⟨u, _, _, ⟨hb, _⟩, _⟩ := (run { tXfer 0 300 256 [] with isGet := true } (by decide) (by decide +kernel)).1 (by decide) rfl
    (channel_home (by decide +kernel))
  obtain ⟨v, _, _, ⟨hc, _⟩, _⟩ := (run tFinal (by decide) (by decide +kernel)).2.1 (by decide) (channel_home (by decide +kernel))
  exact ⟨⟨t, ha⟩, ⟨u, hb⟩, ⟨v, hc⟩, ⟨_, (h (tJammed 0 (tRestOf tFinal)) 0 0 false false [] tFinal (by rfl) rfl rfl).1 (.inr (.inr (by decide +kernel)))⟩⟩

/-! ### Scheduling -/

/-- A data stack 1 of dike 1 whose memory the leaf of the machine names as a migrate page; the thread stands at a plain load of its `s4`
there, in an image that may roam. -/
def tRoamer : Image := { tImage 99 (List.replicate 8 0x60641004) [77] [(8, 8)] with attrs := 17 }
def tRoam (open_ : Nat) : State :=
  let s := (tWith [(4, 0x40000100)]).modPolder 0 fun p =>
    { p with code := [(0, tRoamer), (1, tCallee)],
             tlb := [{ dike := 1, vpn := 1, leaf := { tLeaf with out := 2 ^ 44 + 0x40000000, mig := true }, kept := false }] }
  let s := (s.modMe fun t => { t with wait := .migrate }).setStack 1 { Stack.reset with service := 2, wiping := 0, drec := tDike }
  if open_ = 0 then s else s.modPolder (proxyDev 1 (2 ^ 44 + 0x40000110) * 32) fun p => { p with dike := 1 }

def tAsks (s : State) : State := (State.roamTarget { s with cur := 0 }).2

/-- The guest slot of the reservation, and a thread that holds one, at a stage of its move. -/
def tGuest : Nat := epOf (proxyDev 1 (2 ^ 44 + 0x40000110) * 256) 6
def tOnMove (prog : Prog) (held : Option Nat) (time : Nat) : State :=
  let s := { (tRoam 1).modMe (fun t => { t with prog := prog }) with time := time }
  match held with
  | some thr => s.modSlice (sliceOf tGuest) fun x => { x with guests := [(coreOf tGuest, thr, 5)] }
  | none => s

theorem test_meets_GuestsAreReserved (h : GuestsAreReserved) :
    (∃ t, exec (.guestReservation 0) (tRoam 1) = .next t) ∧ (∃ t, exec (.guestReservation 0) (tRoam 0) = .next t)
      ∧ (∃ t, exec (.reservationReply 0) (tOnMove (Prog.migrate none .replying false) none 0) = .next t)
      ∧ (∃ t, exec (.reservationReply 0) (tOnMove (Prog.migrate (some tGuest) .replying false) none 0) = .next t)
      ∧ (∃ t, exec (.reservationExpiry (coreOf tGuest)) (tOnMove Prog.none (some 0) 40005) = .next t)
      ∧ exec (.reservationExpiry (coreOf tGuest)) (tOnMove Prog.none (some 0) 40004) = .next (tOnMove Prog.none (some 0) 40004) := by
  have run (n : Nat) := h.1 (tRoam n) (tAsks (tRoam n)) 0 (2 ^ 44 + 0x40000110)
  have exp (time : Nat) := h.2.2 (tOnMove Prog.none (some 0) time) (coreOf tGuest) 0 5
  exact ⟨((run 1 (by decide +kernel) (by decide +kernel) (by decide +kernel) (pair (by decide +kernel))).1 (coreOf tGuest) (by decide +kernel)
      (by decide +kernel)).imp fun _ h => h.1,
    ((run 0 (by decide +kernel) (by decide +kernel) (by decide +kernel) (pair (by decide +kernel))).2 (by decide +kernel)
      (by decide +kernel)).imp fun _ h => h.1,
    ((h.2.1 (tOnMove (Prog.migrate none .replying false) none 0) 0 false).1 (by decide +kernel)).imp fun _ h => h.1,
    ((h.2.1 (tOnMove (Prog.migrate (some tGuest) .replying false) none 0) 0 false).2 tGuest (by decide +kernel)).imp fun _ h => h.1,
    ((exp 40005 (by decide +kernel) (by decide +kernel)).1 (by decide +kernel)).imp fun _ h => h.1,
    (exp 40004 (by decide +kernel) (by decide +kernel)).2 (by decide +kernel)⟩

/-- The moving thread with a load that has not filled. -/
def tLoadEnt : LoadEnt :=
  { seq := 1, kind := .plain, dest := .scalar 3 .w, pieces := [], phase := .queued, data := [], mark := none, vas := [], pc := 8, img := 0,
    epoch := false, hepoch := false, held := false, level := 0, got := [] }
def tOlder : State := (tOnMove (Prog.migrate (some tGuest) .draining false) (some 0) 0).modMe fun t => { t with loadq := [tLoadEnt] }

/-- The thread whose slice's router has no room, and one whose context packet stands at the guest slot's slice. -/
def tDraining (held : Option Nat) (full : Nat) : State :=
  (tOnMove (Prog.migrate (some tGuest) .draining false) held 0).setInput 0 4 3 (List.replicate full (linkPacket 3 0 0 []))
def tSent (held : Option Nat) (there : Bool) : State :=
  let s := tOnMove (Prog.migrate (some tGuest) .sent false) held 0
  s.modSlice (sliceOf tGuest) fun x => { x with ctxs := if there then [s.contextPacket 0 tGuest] else [] }
def tCtxOf (s : State) : Option (List Byte) :=
  (s.slice (sliceOf tGuest)).ctxs.find? fun bs => leAt bs 60 4 == 0 && leAt bs 64 8 == (s.thread (thrOf 0)).roamTime

theorem test_meets_ThreadsMigrate_leave (h : ThreadsMigrate) :
    exec (.migrationDrainDone 0) tOlder = .next tOlder ∧ exec (.migrationDrainDone 0) (tDraining (some 0) (classRoom 3)) = .next (tDraining (some 0) (classRoom 3))
      ∧ (∃ t, exec (.migrationDrainDone 0) (tDraining (some 0) 0) = .next t) ∧ ∃ t, exec (.migrationDrainDone 0) (tDraining none 0) = .next t := by
  have drain (held : Option Nat) (full : Nat) (hp : ((tDraining held full).thread (thrOf 0)).prog = .migrate (some tGuest) .draining false)
      (hq : ((tDraining held full).thread (thrOf 0)).loadq = [] ∧ ((tDraining held full).thread (thrOf 0)).fills = []
        ∧ ((tDraining held full).thread (thrOf 0)).late = none)
      (hs : ∀ e ∈ ((tDraining held full).core (coreOf 0)).sb, e.slot = slotNo 0 → e.phase = .performed) :=
    ((h (tDraining held full) 0 tGuest false).1 hp).2.2 hq.1 hq.2.1 hq.2.2 hs
  refine ⟨((h tOlder 0 tGuest false).1 ?_).1 ?_, (drain (some 0) (classRoom 3) ?_ ?_ ?_).1 ?_ ?_,
    ((drain (some 0) 0 ?_ ?_ ?_).2.1 ?_ ?_ ?_).imp fun _ h => h.1, ((drain none 0 ?_ ?_ ?_).2.2 ?_).imp fun _ h => h.1⟩ <;> decide +kernel

theorem test_meets_ThreadsMigrate_arrive (h : ThreadsMigrate) :
    (∃ t, exec (.contextPacketArrival 0) (tSent (some 0) true) = .next t) ∧ (∃ t, exec (.contextPacketArrival 0) (tSent (some 0) false) = .next t)
      ∧ ∃ t, exec (.contextPacketArrival 0) (tSent none true) = .next t := by
  have sent (held : Option Nat) (there : Bool) := (h (tSent held there) 0 tGuest false).2
  refine ⟨((sent (some 0) true ?_).1 ((tCtxOf (tSent (some 0) true)).getD []) 8 ?_ ?_ ?_ ?_).imp fun _ h => h.1,
    ((sent (some 0) false ?_).2.1 ?_ ?_).imp fun _ h => h.1, ((sent none true ?_).2.2 ?_).imp fun _ h => h.1⟩ <;> decide +kernel

/-- A task that waits in the ready queue of stack 0, where the dike has stack regions from 0x4002_0000. -/
def tReadyEnt (task : Nat) (saved : Bool) (attrs : Option Nat) : ReadyEnt :=
  { task := task, dike := 1, prio := 0, release := 0, index := 0, attrs := attrs, polder := none, since := 0, wide := false, saved := saved,
    ordered := false }
def tReady (e : List ReadyEnt) : State :=
  { (tTask.modStack 0 fun k => { (k.setDike 1 64 (leBytes 8 0x40020000 ++ leBytes 1 12 ++ [0, 0, 0] ++ leBytes 4 4)) with ready := e }) with
    launches := [(3, tLaunch)], members := [(memberKey 1 0x40008000, 3), (memberKey 1 0x40008040, 3)] }
def tStarts : State := tReady [tReadyEnt 0x40008040 false (some 0)]
def tResumes : State := (tReady [tReadyEnt 0 true none]).modPolder 0 fun p => { p with tcache := [tSavedCtx] }
def tDropped (s : State) (e : ReadyEnt) : State := s.dropEntry (stkOf 2) (polOf 2) e
def tUncancelled (s : State) (e : ReadyEnt) : State := ((tDropped s e).entCancelled (stkOf 2) e).2

theorem test_meets_SlotsDispatch (h : SlotsDispatch) :
    exec (.slotDispatch 0 0) (tReady []) = .next (tReady [])
      ∧ exec (.slotDispatch 12 0) (tReady []) = .next (tReady [])
      ∧ (∃ t, exec (.slotDispatch 2 0) tStarts = .next t) ∧ ∃ t, exec (.slotDispatch 2 0) tResumes = .next t := by
  have start := ((h tStarts 2 0).2.2 (tReadyEnt 0x40008040 false (some 0)) (tUncancelled tStarts (tReadyEnt 0x40008040 false (some 0)))
    (by decide +kernel) (by decide +kernel) (pair (by decide +kernel))).1
  have resume := ((h tResumes 2 0).2.2 (tReadyEnt 0 true none) (tUncancelled tResumes (tReadyEnt 0 true none))
    (by decide +kernel) (by decide +kernel) (pair (by decide +kernel))).2
  exact ⟨(h (tReady []) 0 0).1 (by decide +kernel), (h (tReady []) 12 0).2.1 (by decide +kernel) (by decide +kernel) (by decide +kernel),
    (start 0 (by decide +kernel) (by decide +kernel)).imp fun _ h => h.1,
    (resume tSavedCtx ((tUncancelled tResumes (tReadyEnt 0 true none)).modPolder 0 fun p => { p with tcache := [] }) (by decide +kernel)
      (by decide +kernel) (by decide +kernel)).imp fun _ h => h.1⟩

/-- An entry stands in the deque of the second core; the first core waits to retry. -/
def tPlace : DequeEnt := { live := true, slot := 0, recVa := 0x40004100 }
def tStealing : State := (tState.modCore 1 fun c => { c with deque := [tPlace] }).modCore 0 fun c => { c with retry := true }
def tStolen : Except (Nat × Nat) (List Byte) × State := tStealing.sysRead 0 1 ((0x40004100 + 2 ^ 64 - 128) % 2 ^ 64) 192
def tWorkless : State := tState.modCore 0 fun c => { c with retry := true }

/-- The thread runs a ranged task of a hundred iterations, whose upper half a thief may take. -/
def tRanged : State :=
  let s := tBytes [(0x4000803B, [0x20]), (0x40008018, leBytes 8 0x40010020), (0x40010020, rangeBytes 0 100 10 0)] (tReady [])
  (s.modStack 0 fun k => k.setDike 1 88 (leBytes 8 0x40010000 ++ leBytes 4 4)).modCore 0 fun c => { c with retry := true }
def tSplitEnt : ReadyEnt × State := (tRanged.splitOf 0 0).getD (tReadyEnt 0 false none, State.reset)
def tSplitSure : State := ((tSplitEnt.2.modCore 0 fun c => { c with retry := false }).entCancelled 0 tSplitEnt.1).2

theorem some_pair {α β : Type} {o : Option (α × β)} {d : α × β} (h : o.isSome = true) : o = some ((o.getD d).1, (o.getD d).2) := by
  cases o <;> first | rfl | cases h

theorem test_meets_SlotsSteal (h : SlotsSteal) :
    ∀ ev ∈ [Instr.slotDispatch 2 0, .stealRequest 2 0, .stealRetryTimer 0 0],
      (∃ t, exec ev tStealing = .next t) ∧ (∃ t, exec ev tRanged = .next t) ∧ ∃ t, exec ev tWorkless = .next t := by
  intro ev hev
  have which (s : State) (hr : (s.core 0).retry = true) (h0 : s.takesWork 0 = false) : ev = .slotDispatch 2 0 ∨ ev = .stealRequest 2 0
      ∨ (ev = .stealRetryTimer (coreOf 2) 0 ∧ (s.core (coreOf 2)).retry = true ∧ epOf (coreOf 2) (slotNo 2) = 2
        ∧ ∀ i < slotNo 2, s.takesWork (epOf (coreOf 2) i) = false) := by
    simp only [List.mem_cons, List.not_mem_nil, or_false] at hev
    refine hev.imp id (Or.imp id fun h => ⟨h, hr, by decide, fun i hi => ?_⟩)
    have : i = 0 := by have : slotNo 2 = 1 := by decide
                       omega
    subst this; exact h0
  have none_below {p : Nat → Prop} : ∀ l < 0, p l := fun l hl => absurd hl (Nat.not_lt_zero l)
  have run (s : State) (hr : (s.core 0).retry = true) (h0 : s.takesWork 0 = false) (h2 : s.takesWork 2 = true) (hn : s.nextEntry 2 = none) :=
    h s ev 2 0 (which s hr h0) h2 (by decide) hn
  have steal := ((run tStealing (by decide +kernel) (by decide +kernel) (by decide +kernel) (by decide +kernel)).1 0 (by decide) none_below).1
    1 [] 0 tPlace (tStolen.1.toOption.getD []) tStolen.2
  have split := ((run tRanged (by decide +kernel) (by decide +kernel) (by decide +kernel) (by decide +kernel)).1 0 (by decide) none_below).2
    0 [] tSplitEnt.1 tSplitEnt.2 tSplitSure 0
  have idle := (run tWorkless (by decide +kernel) (by decide +kernel) (by decide +kernel) (by decide +kernel)).2
  refine ⟨(steal ?_ ?_ (pairOk ?_) ?_ ?_).imp fun _ h => h.1, (split ?_ ?_ (some_pair ?_) (pair ?_) ?_ ?_).imp fun _ h => h.1,
    (idle ?_).imp fun _ h => h.1⟩ <;> decide +kernel

/-- Two tasks wait in stack 0, and package 1, which asked for one, belongs to the dike too. -/
def tTwo : State :=
  { ((tReady [tReadyEnt 0x40008040 false none, tReadyEnt 0x40008080 false none]).setPolder (2 ^ 15) { Polder.reset with dike := 1 }) with
    tokens := [(1, { pkg := 0, seen := false, reqs := [(1, 1)] })] }

theorem test_meets_TokensCirculate (h : TokensCirculate) :
    (∃ t, exec (.loadTokenVisit 1) tWorkless = .next t) ∧ (∃ t, exec (.loadTokenVisit 1) tTwo = .next t)
      ∧ exec (.tokenHoldExpiry 9) tTwo = .next tTwo ∧ (∃ t, exec (.tokenHoldExpiry 1) tTwo = .next t)
      ∧ ∃ t, exec (.tokenHoldExpiry 1) tWorkless = .next t := by
  obtain ⟨t, r, h2, _⟩ := (h.1 tTwo 1 (by decide +kernel) (by decide +kernel)).2 1 1 (by decide +kernel) (by decide +kernel) (by decide +kernel)
  exact ⟨((h.1 tWorkless 1 (by decide +kernel) (by decide +kernel)).1 (by decide +kernel)).imp fun _ h => h.1, ⟨t, h2⟩,
    (h.2 tTwo 9).1 (by decide +kernel),
    ((h.2 tTwo 1).2 1 (by decide +kernel) (.inl (by decide +kernel)) (by decide +kernel)).imp fun _ h => h.1,
    ((h.2 tWorkless 1).2 0 (by decide +kernel) (.inr (by decide +kernel)) (by decide +kernel)).imp fun _ h => h.1⟩

/-- The entry image of a waiting task, by its digest; and a gang task. -/
def tEntryImage (digest : Nat) : State := tBytes [(0x40008120, leBytes 32 digest)] (tReady [tReadyEnt 0x40008040 false none])
def tEntryAsk (digest : Nat) : Nat × State := (tEntryImage digest).sysNum 0 1 ((tEntryImage digest).tcbDigest 0 1 0x40008040) 32
def tGangTask : State := tReady [tReadyEnt 0x40008040 false (some 4)]
def tChoices : SMap Nat := tGangTask.drainChoices 0 (tReadyEnt 0x40008040 false (some 4)) (gangWidth 4)
def tReleases : State := tState.modSlice 0 fun x => { x with rel := [(1, 0, 5)] }

theorem test_meets_TasksAreReleasedAndLookedUp (h : TasksAreReleasedAndLookedUp) :
    (∃ t, exec (.releaseUnitWalk 0) tReleases = .next t)
      ∧ (∃ t, exec (.entryAttributeLookup 0 1 0x40008040) (tEntryImage 99) = .next t)
      ∧ (∃ t, exec (.entryAttributeLookup 0 1 0x40008040) (tEntryImage 98) = .next t)
      ∧ ∃ t, exec (.entryAttributeLookup 0 1 0x40008040) tGangTask = .next t := by
  have look (d : Nat) := h.2.1 (tEntryImage d) (tEntryAsk d).2 0 1 0x40008040 d (tReadyEnt 0x40008040 false none)
  obtain ⟨t, f, h98, _⟩ := (look 98 (by decide +kernel) (by decide +kernel) (by decide +kernel) (pair (by decide +kernel))).2 0 (by decide +kernel)
    (by decide +kernel) (by decide +kernel) (by decide +kernel)
  obtain ⟨t4, d, hg, _⟩ := h.2.2 tGangTask 0 1 0x40008040 4 (tChoices.headD (0, 0)).2 (tChoices.headD (0, 0)).1
    (tReadyEnt 0x40008040 false (some 4)) tChoices.tail (by decide +kernel) (by decide +kernel)
    (by decide +kernel) (by decide +kernel) (by decide +kernel) (by decide +kernel)
  exact ⟨(h.1 tReleases 0 1 0 5 [] (by decide +kernel)).imp fun _ h => h.1,
    ((look 99 (by decide +kernel) (by decide +kernel) (by decide +kernel) (pair (by decide +kernel))).1 16 (.inl (by decide +kernel))
      (by decide +kernel)).imp fun _ h => h.1, ⟨t, h98⟩, ⟨t4, hg⟩⟩

/-- A drain of two cores for a waiting task, its donor busy or empty. -/
def tDrain : Drain := { task := 0x40008040, leader := 2, width := 1, start := 0, forced := false }
def tDrains (s : State) (busy : Bool) (time : Nat) : State :=
  let s := { s.modPolder 0 (fun p => { p with drain := some tDrain }) with time := time }
  if busy then s.setThread ((donorsOf 2 1).headD 0 * 8) { Thread.none with live := true } else s
def tGangRun (busy : Bool) : State := tDrains tGangTask busy 0
def tGangSure (busy : Bool) : State := ((tGangRun busy).entCancelled 0 (tReadyEnt 0x40008040 false (some 4))).2

theorem test_meets_GangsDrain (h : GangsDrain) :
    exec (.gangDrainTimeout 0) (tDrains tState true 79999) = .next (tDrains tState true 79999)
      ∧ (∃ t, exec (.gangDrainTimeout 0) (tDrains tState true 80000) = .next t)
      ∧ (∃ t, exec (.gangDrainDone 0) (tDrains tState false 0) = .next t) ∧ (∃ t, exec (.gangDrainDone 0) (tGangRun true) = .next t)
      ∧ ∃ t, exec (.gangDrainDone 0) (tGangRun false) = .next t := by
  have time (n : Nat) := h (tDrains tState true n) 0 tDrain
  have done (busy : Bool) := h (tGangRun busy) 0 tDrain
  refine ⟨(time 79999 (by decide +kernel)).1 (by decide +kernel),
    ((time 80000 (by decide +kernel)).2.1 (by decide +kernel) (by decide +kernel)).imp fun _ h => h.1,
    ((h (tDrains tState false 0) 0 tDrain (by decide +kernel)).2.2.1 (by decide +kernel)).imp fun _ h => h.1, ?_, ?_⟩
  · exact (((done true (by decide +kernel)).2.2.2 (tReadyEnt 0x40008040 false (some 4)) (tGangSure true) 0 0 (by decide +kernel)
      (pair (by decide +kernel)) (by decide +kernel)).1 (by decide +kernel)).imp fun _ h => h.1
  · exact (((done false (by decide +kernel)).2.2.2 (tReadyEnt 0x40008040 false (some 4)) (tGangSure false) 0 0 (by decide +kernel)
      (pair (by decide +kernel)) (by decide +kernel)).2 (by decide +kernel) (by decide +kernel) (by decide +kernel) (by decide +kernel)
      (by decide +kernel) (by decide +kernel)).imp fun _ h => h.1

/-- A polder whose job is leaving, its threads still there or gone. -/
def tLeaving (quiet : Bool) : State :=
  let s := tState.modPolder 0 fun p => { p with stopped := true }
  if quiet then s.setThread 0 Thread.none else s

/-- The dike reaches memory through windows alone, and has left a core's state at an address. -/
def tKept (va : Nat) : SavedCore := { area := va, copies := [], putStops := [], gang := Core.reset.gang, gangs := [] }
def tAreaed (va : Nat) : State :=
  { tState.modStack 0 fun k => (k.setDike 1 8 (leBytes 8 0)).setDike 1 112 (leBytes 8 0x5000) with jobs := [(savedCoreKey 1 0, tKept va)] }
def tRestored : Except (Nat × Nat) (List Byte) × State := (tAreaed 0x5000).sysRead 0 1 0x5000 8576

def readOk (p : Except (Nat × Nat) (List Byte) × State) : Bool := match p.1 with | .ok _ => true | .error _ => false
theorem read_ok {p : Except (Nat × Nat) (List Byte) × State} (h : readOk p = true) : p = (.ok (p.1.toOption.getD []), p.2) := by
  obtain ⟨e, s⟩ := p
  cases e <;> first | rfl | cases h

theorem test_meets_CoresAreKept (h : CoresAreKept) :
    (((tAreaed 0).saveCore 0).stack 0).areas.getD (areaKey 1 0x5000) 0 = ((tAreaed 0).core 0).saveBytes.getD 0 0
      ∧ (tState.restoreCore 0 1).core 0 = (tState.core 0).fresh
      ∧ ((tAreaed 0x5000).restoreCore 0 1).core 0 = { (tRestored.2.core 0).fresh.fromBytes (tRestored.1.toOption.getD []) with
          copies := [], putStops := [], gang := Core.reset.gang }
      ∧ (((tAreaed 0xFFFFFFFFF8000000).restoreCore 0 1).stack 0).dikeStopped.has 1 = true
      ∧ ((tState.core 0).fromBytes (tState.core 1).saveBytes).ctx.mode = (tState.core 1).ctx.mode := by
  have win : (tAreaed 0xFFFFFFFFF8000000).sysRead 0 1 0xFFFFFFFFF8000000 8576 = (.error (5, 0xFFFFFFFFF8000000), tAreaed 0xFFFFFFFFF8000000) :=
    if_pos (.inl (by decide +kernel))
  have keep := (h.1 (tAreaed 0) 0).2.2 (by decide +kernel) ⟨by decide +kernel, by decide +kernel⟩ (by decide +kernel) 0 (by decide)
  refine ⟨keep, ((h.2.1 tState 0 1).1 (by decide +kernel)), (h.2.1 (tAreaed 0x5000) 0 1).2.1 (tKept 0x5000) _ tRestored.2 (by decide +kernel)
    (read_ok (by decide +kernel)), ((h.2.1 (tAreaed 0xFFFFFFFFF8000000) 0 1).2.2 (tKept 0xFFFFFFFFF8000000) 5 0xFFFFFFFFF8000000 _
      (by decide +kernel) win).2, ?_⟩
  have k := h.2.2 (tState.core 1) (tState.core 0)
  exact k.2.2.2.2.2.2.2.2.2.2.2.2 (by decide +kernel)

/-- A polder that enters a job which has left the state of its first core. -/
def tEnters : State :=
  { (tLeaving true).modStack 0 fun k => (k.setDike 2 0 (leBytes 2 1)).setDike 2 8 (leBytes 8 0) with jobs := [(savedCoreKey 2 0, tKept 0x5000)] }

theorem test_meets_JobsSwitch (h : JobsSwitch) :
    (∃ t, exec (.jobSwitch 0 2 []) tState = .next t) ∧ exec (.jobSwitch 0 2 []) (tLeaving false) = .next (tLeaving false)
      ∧ (∃ t, exec (.jobSwitch 0 2 []) (tLeaving true) = .next t) ∧ ∃ t, exec (.jobSwitch 0 2 []) tEnters = .next t := by
  refine ⟨((h tState 0 2).1 (by decide +kernel) []).imp fun _ h => h.1,
    (h (tLeaving false) 0 2).2.1 (by decide +kernel) (by decide +kernel) [],
    ((h (tLeaving true) 0 2).2.2 (by decide +kernel) (by decide +kernel) (by decide +kernel)
      (fun c _ x hx => by rw [show (tLeaving true).jobs = [] by decide +kernel] at hx; cases hx) (by decide +kernel)
      (by decide +kernel)).imp fun _ h => h.1,
    ((h tEnters 0 2).2.2 (by decide +kernel) (by decide +kernel) (by decide +kernel) (fun c _ x hx => ?_) (by decide +kernel)
      (by decide +kernel)).imp fun _ h => h.1⟩
  have hm := find_mem hx
  rw [show tEnters.jobs = [(savedCoreKey 2 0, tKept 0x5000)] from rfl, List.mem_singleton] at hm
  have hx : x = tKept 0x5000 := (Prod.ext_iff.mp hm).2
  rw [hx]; rfl

/-! ### The machine as a whole -/

/-- It is the first slot's turn, in an image of one word repeated; and a privileged word of job code. -/
def tTurn (word : Nat) (turn : Turn) : State :=
  { tState.modPolder 0 fun p => { p with code := [(0, { tRunning with code := List.replicate 8 (BitVec.ofNat 32 word) }), (1, tCallee)] }
    with agenda := [turn] }
def tWordImage (word : Nat) : Image := { tRunning with code := List.replicate 8 (BitVec.ofNat 32 word) }

theorem turn_from {word : Nat} {turn : Turn}
    (h : ({ tTurn word turn with cur := 0 } : State).issues 0 = true ∧ targetOk (tWordImage word).code 8 = true) :
    IssuesFrom (tTurn word turn) 0 (tWordImage word) :=
  { issues := h.1, stays := rfl, late := rfl, entry := rfl, moving := rfl, found := ⟨nofun, nofun, nofun, nofun⟩, image := rfl, digest := rfl,
    tag := rfl, target := h.2 }

theorem test_meets_StepRunsTheDecodedInstruction (h : Obligations.StepRunsTheDecodedInstruction) :
    (∃ t, step (tTurn 0x08630005 (.issue 0)) = .next t) ∧ (∃ t, step (tTurn 0 (.issue 0)) = .next t)
      ∧ ∃ t, step (tTurn 0 (.event (.slotDispatch 0 0))) = .next t :=
  ⟨⟨_, h.1 _ (tNext (exec (.addi 3 3 5) { tTurn 0x08630005 (.issue 0) with agenda := [], cur := 0 })) 0 (tWordImage 0x08630005) [] (.addi 3 3 5) rfl
     (turn_from (by decide +kernel)) (isOk (by decide +kernel)) (.inr (by decide +kernel)) rfl rfl⟩,
   ⟨_, h.2.1 (tTurn 0 (.issue 0)) 0 (tWordImage 0) [] .unassignedMajor rfl (turn_from (by decide +kernel))
     (isError (by decide +kernel)) rfl⟩,
   ⟨_, h.2.2.1 (tTurn 0 (.event (.slotDispatch 0 0))) (tNext (exec (.slotDispatch 0 0) { tTurn 0 (.event (.slotDispatch 0 0)) with agenda := [] })) []
     (.slotDispatch 0 0) rfl rfl rfl⟩⟩

theorem test_meets_PrivilegeBelongsToTheSlot (h : Obligations.PrivilegeBelongsToTheSlot) :
    decodeFor false 0xF00000E0 0 = .error .privileged ∧ decodeFor false 0x08630005 0 = .ok (.addi 3 3 5)
      ∧ ∃ t, step (tTurn 0xF00000E0 (.issue 0)) = .next t :=
  ⟨(h.2.1 0xF00000E0 0 .halt (isOk (by decide +kernel))).1 trivial, (h.2.1 0x08630005 0 (.addi 3 3 5) (isOk (by decide +kernel))).2 id,
   ⟨_, h.2.2 (tTurn 0xF00000E0 (.issue 0)) 0 (tWordImage 0xF00000E0) [] .halt rfl (turn_from (by decide +kernel)) (isOk (by decide +kernel)) trivial
     (by decide) rfl⟩⟩

theorem test_meets_MemoryKeepsItsForm (h : Obligations.MemoryKeepsItsForm) :
    Memory.wf (tNext (step (tTurn 0x08630005 (.issue 0)))).mem = true :=
  h (tTurn 0x08630005 (.issue 0)) _ (by decide +kernel) rfl

theorem test_meets_EncodingsDecodeBack (h : Obligations.EncodingsDecodeBack) :
    decodeBytes (encodeBytes (.addi 3 3 5)) = .ok (.addi 3 3 5) ∧ decodeBytes (encodeBytes (.limm 5 0x12345678)) = .ok (.limm 5 0x12345678) :=
  ⟨h _ (by decide +kernel) (by decide +kernel), h _ (by decide +kernel) (by decide +kernel)⟩

theorem test_meets_DecodingDropsNoBit (h : Obligations.DecodingDropsNoBit) : encode (.addi 3 3 5) = [0x08630005] :=
  (h 0x08630005 0 (.addi 3 3 5) (by decide) (by decide) (isOk (by decide +kernel))).2.2

theorem test_meets_FieldCodesDecode (h : Obligations.FieldCodesDecode) :
    (decodeWords (packM 0x18 31 31 3 6 2047) 0).isOk = true ∧ illegal (packM 0x18 0 0 2 0 0) 0 ∧ (decodeWords (packM 0x19 31 31 3 3 0) 0).isOk = true
      ∧ illegal (packM 0x19 0 0 2 0 0) 0 ∧ illegal (packM 0x19 0 0 0 7 0) 0
      ∧ decodeWords (packS 0x35 26 31 31 0 0) (65535 * 2 ^ 16 + 4 * 2 ^ 4 + 6) = .ok (.sol 26 31 31 65535 .pod .count)
      ∧ illegal (packS 0x35 1 0 0 0 0) (0 * 2 ^ 16 + 1 * 2 ^ 4 + 7) := by
  have ord := h.1 31 31 6 2047 (by decide) (by decide) (by decide) (by decide)
  have ord0 := h.1 0 0 0 0 (by decide) (by decide) (by decide) (by decide)
  have st := h.1 31 31 3 0 (by decide) (by decide) (by decide) (by decide)
  have st7 := h.1 0 0 7 0 (by decide) (by decide) (by decide) (by decide)
  have sol (d a b imp scope sc : Nat) (hr : 1 ≤ d ∧ d ≤ 26 ∧ a < 32 ∧ b < 32 ∧ a ≠ 29 ∧ b ≠ 29) (hw : imp < 65536 ∧ 1 ≤ scope ∧ scope ≤ 4 ∧ sc < 16) :=
    h.2.1.1 d a b imp scope sc hr.1 hr.2.1 hr.2.2.1 hr.2.2.2.1 hr.2.2.2.2.1 hr.2.2.2.2.2 hw.1 hw.2.1 hw.2.2.1 hw.2.2.2
  have top := sol 26 31 31 65535 4 6 (by decide) (by decide) .pod (by decide)
  have low := sol 1 0 0 0 1 7 (by decide) (by decide) .polder (by decide)
  refine ⟨?_, ((ord0.1 .b (by decide) (by decide) (by decide)).2.2.2 (by decide)).1, ?_,
    ((ord0.2.1 .b (by decide) (by decide) (by decide)).2.2.2 (by decide)).1, st7.2.2 0 (by decide) (by decide) (by decide),
    top.2.2.2.2.2.2.1 rfl, low.2.2.2.2.2.2.2 (by decide)⟩
  · rw [((ord.1 .ws (by decide) (by decide) (by decide)).2.2.1 (by decide)).2]; rfl
  · rw [((st.2.1 .d (by decide) (by decide) (by decide)).2.2.1 (by decide)).2]; rfl

theorem test_meets_FieldCodesDecode_layouts (h : Obligations.FieldCodesDecode) :
    (∃ w, decodeWords w 0 = .ok (.rpt 16 31 15)) ∧ (∃ w, illegal w 0 ∧ w < 2 ^ 32) ∧ (∃ w, decodeWords w 0 = .ok (.vmaxx 15 15))
      ∧ (∃ w, decodeWords w 0 = .ok (.dcomp 0 1 2 7)) ∧ decodeWords (packB 0x10 5 31 31 4095) 0 = .ok (.br .geu 31 31 4095)
      ∧ illegal (packB 0x10 6 0 1 0) 0 ∧ illegal (packB 0x10 8 0 0 0) 0 := by
  have rpt := h.2.2.1 15 31 15 0 (by decide) (by decide) (by decide) (by decide)
  have bad := h.2.2.1 0 29 0 8191 (by decide) (by decide) (by decide) (by decide)
  have vq := h.2.2.2.1 15 15 0 0 0 1 (by decide) (by decide) (by decide) (by decide) (by decide) (by decide)
  have dc := h.2.2.2.1 0 1 2 0 7 3 (by decide) (by decide) (by decide) (by decide) (by decide) (by decide)
  have cc (n b d : Nat) (hn : n < 16) (hb : b < 32) (h29 : b ≠ 29) (hd : d < 4096) := h.2.2.2.2 n b b d hn hb hb h29 h29 hd
  have c6 := h.2.2.2.2 6 0 1 0 (by decide) (by decide) (by decide) (by decide) (by decide) (by decide)
  exact ⟨⟨_, (rpt.1 rfl (by decide)).1⟩, ⟨_, bad.2 (.inl (by decide)), by decide⟩, ⟨_, ((vq.2.1 rfl rfl rfl).1 rfl).1⟩, ⟨_, dc.2.2.2.1 rfl rfl⟩,
    (cc 5 31 4095 (by decide) (by decide) (by decide) (by decide)).1 .geu (by decide) (by decide),
    (c6.2.1 .full (by decide) (by decide)).2 (by decide),
    (cc 8 0 0 (by decide) (by decide) (by decide) (by decide)).2.2 (by decide)⟩

theorem test_meets_ParityTurn (h : ParityTurn) : ∃ t, step (tTurn 0x08630005 (.parity 0)) = .next t := by
  obtain ⟨t, _, ht, _⟩ := h (tTurn 0x08630005 (.parity 0)) 0 (tWordImage 0x08630005) [] rfl (turn_from (by decide +kernel)) (by decide +kernel)
    (by decide +kernel)
  exact ⟨t, ht⟩
end

/-! What decoding says that more than one statement uses: the fields of a packed word (R222), which words are privileged (R241), what a refused
decoding raises (R243), and a turn up to its fetch (R188, R219). Then the statements of chapter 09 about privilege and about field codes. -/

namespace Sys2Proof.Decoding

open Sys2Proof.Machine Sys2Proof.Claims

/-! ## Fields of packed words (R222) -/

theorem packM_fields {op d a ord sz off : Nat} (hop : op < 64) (hd : d < 32) (ha : a < 32) (hord : ord < 4) (hsz : sz < 8) (hoff : off < 2048) :
    fld 26 6 (packM op d a ord sz off) = op ∧ fld 21 5 (packM op d a ord sz off) = d ∧ fld 16 5 (packM op d a ord sz off) = a
      ∧ fld 14 2 (packM op d a ord sz off) = ord ∧ fld 11 3 (packM op d a ord sz off) = sz ∧ fld 0 11 (packM op d a ord sz off) = off := by
  unfold fld packM
  refine ⟨?_, ?_, ?_, ?_, ?_, ?_⟩ <;> omega

theorem packS_fields {op d a b fn imm : Nat} (hop : op < 64) (hd : d < 32) (ha : a < 32) (hb : b < 32) (hfn : fn < 64) (himm : imm < 32) :
    fld 26 6 (packS op d a b fn imm) = op ∧ fld 21 5 (packS op d a b fn imm) = d ∧ fld 16 5 (packS op d a b fn imm) = a
      ∧ fld 11 5 (packS op d a b fn imm) = b ∧ fld 5 6 (packS op d a b fn imm) = fn ∧ fld 0 5 (packS op d a b fn imm) = imm := by
  unfold fld packS
  refine ⟨?_, ?_, ?_, ?_, ?_, ?_⟩ <;> omega

theorem packR_fields {op len a str z : Nat} (hop : op < 64) (hlen : len < 16) (ha : a < 32) (hstr : str < 16) (hz : z < 8192) :
    fld 26 6 (packR op len a str z) = op ∧ fld 22 4 (packR op len a str z) = len ∧ fld 17 5 (packR op len a str z) = a
      ∧ fld 13 4 (packR op len a str z) = str ∧ fld 0 13 (packR op len a str z) = z := by
  unfold fld packR
  refine ⟨?_, ?_, ?_, ?_, ?_⟩ <;> omega

theorem packV_fields {op vd va vb vc pr fn : Nat} (hop : op < 64) (hvd : vd < 16) (hva : va < 16) (hvb : vb < 16) (hvc : vc < 16) (hpr : pr < 8)
    (hfn : fn < 128) :
    fld 26 6 (packV op vd va vb vc pr fn) = op ∧ fld 22 4 (packV op vd va vb vc pr fn) = vd ∧ fld 18 4 (packV op vd va vb vc pr fn) = va
      ∧ fld 14 4 (packV op vd va vb vc pr fn) = vb ∧ fld 10 4 (packV op vd va vb vc pr fn) = vc ∧ fld 7 3 (packV op vd va vb vc pr fn) = pr
      ∧ fld 0 7 (packV op vd va vb vc pr fn) = fn := by
  unfold fld packV
  refine ⟨?_, ?_, ?_, ?_, ?_, ?_, ?_⟩ <;> omega

theorem packB_fields {op cc a b disp : Nat} (hop : op < 64) (hcc : cc < 16) (ha : a < 32) (hb : b < 32) (hdisp : disp < 4096) :
    fld 26 6 (packB op cc a b disp) = op ∧ fld 22 4 (packB op cc a b disp) = cc ∧ fld 17 5 (packB op cc a b disp) = a
      ∧ fld 12 5 (packB op cc a b disp) = b ∧ fld 0 12 (packB op cc a b disp) = disp := by
  unfold fld packB
  refine ⟨?_, ?_, ?_, ?_, ?_⟩ <;> omega

theorem fld_lt (lo len w : Nat) : fld lo len w < 2 ^ len := Nat.mod_lt _ (Nat.two_pow_pos len)

/-! ## Privileged words (R239 to R241) -/

/-- A decoder's answer fits a word that is privileged or not (R241): an instruction is privileged with the word, and privilege is no reason of the
decoder's own to refuse (step 2 of R243 stands outside the decoders). -/
def PrivilegedIff (p : Bool) : Except DecodeError Instr → Prop
  | .ok i => privileged i ↔ p = true
  | .error e => e ≠ .privileged

@[simp] theorem privilegedIff_ok {p : Bool} {i : Instr} : PrivilegedIff p (.ok i) ↔ (privileged i ↔ p = true) := Iff.rfl

@[simp] theorem privilegedIff_error {p : Bool} {e : DecodeError} : PrivilegedIff p (.error e) ↔ e ≠ .privileged := Iff.rfl

@[simp] theorem privilegedIff_need {p c : Bool} {r : Except DecodeError Instr} :
    PrivilegedIff p (need c r) ↔ (c = true → PrivilegedIff p r) := by
  cases c <;> simp [need]

@[simp] theorem privilegedIff_code {α : Type} {p : Bool} {c : Option α} {k : α → Except DecodeError Instr} :
    PrivilegedIff p (code c k) ↔ ∀ x, c = some x → PrivilegedIff p (k x) := by
  cases c <;> simp [code]

/-! No decoder but that of `sys` names a privileged instruction (R239, R240): one lemma per function table. -/

@[simp] theorem decInt_unprivileged (w : Nat) : PrivilegedIff false (decInt w) := by unfold decInt; split <;> simp [privileged]
@[simp] theorem decCtl_unprivileged (w : Nat) : PrivilegedIff false (decCtl w) := by unfold decCtl; split <;> simp [privileged]
@[simp] theorem decLd_unprivileged (w : Nat) : PrivilegedIff false (decLd w) := by unfold decLd; split <;> simp [privileged]
@[simp] theorem decSt_unprivileged (w : Nat) : PrivilegedIff false (decSt w) := by unfold decSt; split <;> simp [privileged]
@[simp] theorem decVld_unprivileged (w : Nat) : PrivilegedIff false (decVld w) := by unfold decVld; split <;> simp [privileged]
@[simp] theorem decVgs_unprivileged (w : Nat) : PrivilegedIff false (decVgs w) := by unfold decVgs; split <;> simp [privileged]
@[simp] theorem decAmo_unprivileged (w : Nat) : PrivilegedIff false (decAmo w) := by unfold decAmo; split <;> simp [privileged]
@[simp] theorem decMem_unprivileged (w : Nat) : PrivilegedIff false (decMem w) := by unfold decMem; split <;> simp [privileged]
@[simp] theorem decMsg_unprivileged (w : Nat) : PrivilegedIff false (decMsg w) := by unfold decMsg; split <;> simp [privileged]
@[simp] theorem decVf32_unprivileged (w : Nat) : PrivilegedIff false (decVf32 w) := by unfold decVf32; split <;> simp [privileged]
@[simp] theorem decVbf16_unprivileged (w : Nat) : PrivilegedIff false (decVbf16 w) := by unfold decVbf16; split <;> simp [privileged]
@[simp] theorem decVf16_unprivileged (w : Nat) : PrivilegedIff false (decVf16 w) := by unfold decVf16; split <;> simp [privileged]
@[simp] theorem decVint_unprivileged (w : Nat) : PrivilegedIff false (decVint w) := by unfold decVint; split <;> simp [privileged]
@[simp] theorem decVperm_unprivileged (w : Nat) : PrivilegedIff false (decVperm w) := by unfold decVperm; split <;> simp [privileged]
@[simp] theorem decVred_unprivileged (w : Nat) : PrivilegedIff false (decVred w) := by unfold decVred; split <;> simp [privileged]
@[simp] theorem decVcvt_unprivileged (w w2 : Nat) : PrivilegedIff false (decVcvt w w2) := by unfold decVcvt; split <;> simp [privileged]
@[simp] theorem decVq_unprivileged (w : Nat) : PrivilegedIff false (decVq w) := by unfold decVq; split <;> simp [privileged]
@[simp] theorem decVpred_unprivileged (w : Nat) : PrivilegedIff false (decVpred w) := by unfold decVpred; split <;> simp [privileged]
@[simp] theorem decVmode_unprivileged (w : Nat) : PrivilegedIff false (decVmode w) := by
  unfold decVmode
  split
  case h_1 => split <;> simp [privileged]
  all_goals simp [privileged]
@[simp] theorem decMcfg_unprivileged (w : Nat) : PrivilegedIff false (decMcfg w) := by unfold decMcfg; split <;> simp [privileged]
@[simp] theorem decMop_unprivileged (w : Nat) : PrivilegedIff false (decMop w) := by unfold decMop; split <;> simp [privileged]
@[simp] theorem decTask_unprivileged (w w2 : Nat) : PrivilegedIff false (decTask w w2) := by unfold decTask; split <;> simp [privileged]
@[simp] theorem decSol_unprivileged (w w2 : Nat) : PrivilegedIff false (decSol w w2) := by unfold decSol; split <;> simp [privileged]
@[simp] theorem decBar_unprivileged (w : Nat) : PrivilegedIff false (decBar w) := by unfold decBar; split <;> simp [privileged]
@[simp] theorem decCpy_unprivileged (w w2 : Nat) : PrivilegedIff false (decCpy w w2) := by unfold decCpy; split <;> simp [privileged]
@[simp] theorem decNet_unprivileged (w : Nat) : PrivilegedIff false (decNet w) := by unfold decNet; split <;> simp [privileged]
@[simp] theorem decTag_unprivileged (w : Nat) : PrivilegedIff false (decTag w) := by unfold decTag; split <;> simp [privileged]
@[simp] theorem decLong_unprivileged (w w2 : Nat) : PrivilegedIff false (decLong w w2) := by unfold decLong; split <;> simp [privileged]

theorem privilegedWord_of_major_ne {w : Nat} (h : fld 26 6 w ≠ 0x3C) : privilegedWord w = false := by simp [privilegedWord, h]

theorem privilegedWord_of_major {w : Nat} (h : fld 26 6 w = 0x3C) :
    privilegedWord w = true ↔ 5 ≤ fld 5 6 w ∧ fld 5 6 w ≤ 11 ∨ (fld 5 6 w ≤ 1 ∧ fld 11 5 w = 8) ∧ fld 0 5 w ≤ 2 := by
  simp [privilegedWord, h]

/-- The number of a control register in two fields is one of the three that belong to slot 7 (R240). -/
theorem controlNumber_privileged {hi lo : Nat} (h : lo < 32) :
    hi * 32 + lo = 0x100 ∨ hi * 32 + lo = 0x101 ∨ hi * 32 + lo = 0x102 ↔ hi = 8 ∧ lo ≤ 2 := by
  omega

/-- Functions 5 to 11 of `sys` are the privileged ones, and a `getc` or `setc` is privileged by its register (R239 to R241). -/
theorem decSys_privilegedIff {w : Nat} (h : fld 26 6 w = 0x3C) : PrivilegedIff (privilegedWord w) (decSys w) := by
  unfold decSys
  split
  case h_1 | h_2 =>
    rename_i hfn
    simp [privilegedWord_of_major h, privileged, hfn, controlNumber_privileged (fld_lt 0 5 w)]
  all_goals
    rename_i hfn
    simp [privilegedWord_of_major h, privileged, hfn]

/-- What a decoder names is privileged exactly when the word is (R241). -/
theorem decodeRaw_privilegedIff (w w2 : Nat) : PrivilegedIff (privilegedWord w) (decodeRaw w w2) := by
  by_cases h : fld 26 6 w = 0x3C
  · simpa only [decodeRaw, h] using decSys_privilegedIff h
  · rw [privilegedWord_of_major_ne h]
    unfold decodeRaw
    split
    case h_45 => contradiction
    all_goals
      simp [privileged, decAddi, decAndi, decOri, decXori, decSlti, decSltiu, decShi, decLih, decAddih, decMuli, decBr, decJmp, decCall, decTail,
        decRpt, decTrap, decVst]

theorem decodeRaw_ne_privileged (w w2 : Nat) : decodeRaw w w2 ≠ .error .privileged := fun h => by
  simpa [h] using decodeRaw_privilegedIff w w2

theorem privileged_iff_of_decodeRaw {w w2 : Nat} {i : Instr} (h : decodeRaw w w2 = .ok i) : privileged i ↔ privilegedWord w = true := by
  simpa [h] using decodeRaw_privilegedIff w w2

/-! ## Refused decodings (R243) -/

theorem decodeFor_of_ok {w w2 : Nat} {i : Instr} (slot7 : Bool) (h : decodeRaw w w2 = .ok i) :
    decodeFor slot7 w w2 =
      if privilegedWord w && !slot7 then .error .privileged else if i.wf then .ok i else .error .operandLimit := by
  simp [decodeFor, h]

theorem decodeFor_true_of_error {w w2 : Nat} {e : DecodeError} (h : decodeRaw w w2 = .error e) : decodeFor true w w2 = .error e := by
  cases e <;> simp [decodeFor, h]

theorem decodeFor_true_eq_ok_iff {w w2 : Nat} {i : Instr} :
    decodeFor true w w2 = .ok i ↔ decodeRaw w w2 = .ok i ∧ i.wf = true := by
  cases h : decodeRaw w w2 with
  | error e => simp [decodeFor_true_of_error h]
  | ok j =>
    rw [decodeFor_of_ok true h]
    cases hj : j.wf <;> simp
    all_goals
      rintro rfl
      exact hj

theorem decodeFor_true_ne_privileged (w w2 : Nat) : decodeFor true w w2 ≠ .error .privileged := by
  cases h : decodeRaw w w2 with
  | error e => rw [decodeFor_true_of_error h, ← h]; exact decodeRaw_ne_privileged w w2
  | ok i => rw [decodeFor_of_ok true h]; cases hwf : i.wf <;> simp

/-- A slot of job code decodes what slot 7 decodes, but for privilege (R241). -/
theorem decodeFor_false_of_true {w w2 : Nat} {i : Instr} (h : decodeFor true w w2 = .ok i) :
    decodeFor false w w2 = if privilegedWord w then .error .privileged else .ok i := by
  obtain ⟨hraw, hwf⟩ := decodeFor_true_eq_ok_iff.mp h
  simp [decodeFor_of_ok false hraw, hwf]

theorem privileged_iff_of_decodeFor_true {w w2 : Nat} {i : Instr} (h : decodeFor true w w2 = .ok i) : privileged i ↔ privilegedWord w = true :=
  privileged_iff_of_decodeRaw (decodeFor_true_eq_ok_iff.mp h).1

theorem twoWords_of_privilegedWord {w : Nat} (h : privilegedWord w = true) : twoWords w = false := by
  have hop : fld 26 6 w = 0x3C := Decidable.byContradiction fun hne => by
    rw [privilegedWord_of_major_ne hne] at h
    cases h
  simp [twoWords, hop]

theorem decodeTrap_privileged {w : Nat} (w2 : Nat) (h : privilegedWord w = true) : decodeTrap .privileged w w2 = (0x02, w) := by
  simp [decodeTrap, twoWords_of_privilegedWord h]

theorem decodeTrap_cause_illegal {e : DecodeError} (w w2 : Nat) (h : e ≠ .privileged) : (decodeTrap e w w2).1 = 0x01 := by
  unfold decodeTrap
  split
  · contradiction
  · rfl

theorem decodeWords_of_raw {w w2 : Nat} {i : Instr} (h : decodeRaw w w2 = .ok i) (hwf : i.wf = true) : decodeWords w w2 = .ok i :=
  decodeFor_true_eq_ok_iff.mpr ⟨h, hwf⟩

theorem illegal_of_error {w w2 : Nat} {e : DecodeError} (h : decodeRaw w w2 = .error e) : illegal w w2 :=
  ⟨e, decodeFor_true_of_error h, decodeTrap_cause_illegal w w2 fun he => decodeRaw_ne_privileged w w2 (he ▸ h)⟩

theorem illegal_of_operandLimit {w w2 : Nat} {i : Instr} (h : decodeRaw w w2 = .ok i) (hwf : i.wf = false) : illegal w w2 :=
  ⟨.operandLimit, by simp [decodeWords, decodeFor_of_ok true h, hwf], rfl⟩

/-- Where a word names an instruction, the operand limits alone decide whether it is that instruction or illegal (step 3 of R243). -/
theorem decodeWords_or_illegal {w w2 : Nat} {i : Instr} {limits : Prop} (h : decodeRaw w w2 = .ok i) (hwf : i.wf = true ↔ limits) :
    (limits → decodeWords w w2 = .ok i) ∧ (¬limits → illegal w w2) :=
  ⟨fun hl => decodeWords_of_raw h (hwf.mpr hl), fun hl => illegal_of_operandLimit h (Bool.eq_false_iff.mpr (mt hwf.mp hl))⟩

/-! ## A turn that fetches (R188, R219, R243) -/

theorem runningImage_of_entry {s : State} {im : Image} (hguest : ∀ p, s.me.prog ≠ .guest p) (hstart : s.me.prog ≠ .start)
    (hstolen : ∀ r a b c, s.me.prog ≠ .stolen r a b c) (himg : (s.polder (polOf s.cur)).code.find? s.me.img = some im)
    (hdig : im.digest = s.me.digest) (htag : im.tag = s.me.tag) : s.runningImage = .ok (im, s) := by
  unfold State.runningImage
  dsimp only
  split
  · exact absurd ‹_› (hguest _)
  · exact absurd ‹_› hstart
  · exact absurd ‹_› (hstolen _ _ _ _)
  · simp [himg, hdig, htag]

theorem me_withCur (s : State) (ep : Nat) : ({ s with cur := ep } : State).me = s.thread (thrOf ep) := rfl

theorem fetchImage_of_issuesFrom {s : State} {ep : Nat} {im : Image} (h : IssuesFrom s ep im) :
    s.fetchImage ep = .ok (im, { s with cur := ep }) := by
  obtain ⟨issues, stays, late, entry, moving, ⟨hguest, hstart, hstolen, hscatter⟩, himg, hdig, htag, target⟩ := h
  have run : ({ s with cur := ep } : State).runningImage = .ok (im, { s with cur := ep }) :=
    runningImage_of_entry hguest hstart hstolen himg hdig htag
  unfold State.fetchImage
  simp only [me_withCur, stays, issues, late, entry, moving, run, target]
  split
  · simp_all
  · simp

theorem fetch_of_decode_error {s : State} {ep : Nat} {im : Image} {e : DecodeError} (h : IssuesFrom s ep im)
    (hdec : decodeFor (slotNo ep == 7) (wordAt s ep im 0) (wordAt s ep im 1) = .error e) :
    s.fetch ep = .error (({ s with cur := ep } : State).trap (decodeTrap e (wordAt s ep im 0) (wordAt s ep im 1)).1
      (decodeTrap e (wordAt s ep im 0) (wordAt s ep im 1)).2) := by
  simp only [wordAt, Nat.add_zero] at hdec ⊢
  simp only [State.fetch, fetchImage_of_issuesFrom h, me_withCur, hdec]

theorem issuesFrom_withAgenda {s : State} {ep : Nat} {im : Image} (rest : List Turn) (h : IssuesFrom s ep im) :
    IssuesFrom { s with agenda := rest } ep im :=
  { issues := h.issues, stays := h.stays, late := h.late, entry := h.entry, moving := h.moving, found := h.found, image := h.image,
    digest := h.digest, tag := h.tag, target := h.target }

/-- A turn whose fetch ends it is that end, and then time goes on. -/
theorem step_of_fetch_error {s t : State} {ep : Nat} {rest : List Turn} (hag : s.agenda = .issue ep :: rest)
    (htwin : (s.thread (thrOf ep)).twin = false) (hf : ({ s with agenda := rest } : State).fetch ep = .error t) : step s = .next t.tick := by
  have hthr : ({ s with agenda := rest } : State).thread (thrOf ep) = s.thread (thrOf ep) := rfl
  simp [step, hag, turn, issue, hf, hthr, htwin, afterTurn]

theorem step_of_decode_error {s : State} {ep : Nat} {im : Image} {rest : List Turn} {e : DecodeError} (hag : s.agenda = .issue ep :: rest)
    (hfrom : IssuesFrom s ep im) (htwin : (s.thread (thrOf ep)).twin = false)
    (hdec : decodeFor (slotNo ep == 7) (wordAt s ep im 0) (wordAt s ep im 1) = .error e) :
    step s = .next (({ s with agenda := rest, cur := ep } : State).trap (decodeTrap e (wordAt s ep im 0) (wordAt s ep im 1)).1
      (decodeTrap e (wordAt s ep im 0) (wordAt s ep im 1)).2).tick := by
  exact step_of_fetch_error hag htwin (fetch_of_decode_error (issuesFrom_withAgenda rest hfrom) hdec)

/-! ## Privilege belongs to the slot (R241) -/

/-- Settles O57: what the decoders name is privileged with its word, and the turn of such a word in another slot takes its trap. -/
theorem privilegeBelongsToTheSlot : Obligations.PrivilegeBelongsToTheSlot := by
  refine ⟨decodeFor_true_ne_privileged, fun w w2 i h => ?_, fun s ep im rest i hag hfrom hdec hpriv hslot htwin => ?_⟩
  · rw [privileged_iff_of_decodeFor_true h, decodeFor_false_of_true h]
    exact ⟨fun hw => if_pos hw, fun hw => if_neg hw⟩
  · have hw := (privileged_iff_of_decodeFor_true hdec).mp hpriv
    have hfalse : decodeFor (slotNo ep == 7) (wordAt s ep im 0) (wordAt s ep im 1) = .error .privileged := by
      rw [beq_false_of_ne hslot, decodeFor_false_of_true hdec, if_pos hw]
    rw [step_of_decode_error hag hfrom htwin hfalse, decodeTrap_privileged _ hw]

/-! ## Codes and registers (R213, R224 to R229) -/

theorem Sz.lt_of_ofCode {c : Nat} {z : Sz} (h : Sz.ofCode c = some z) : c < 7 := by
  unfold Sz.ofCode at h
  split at h
  case h_8 => cases h
  all_goals omega

theorem Sz.isUnsigned_iff_of_ofCode {c : Nat} {z : Sz} (h : Sz.ofCode c = some z) : isUnsigned z = true ↔ c < 4 := by
  unfold Sz.ofCode at h
  split at h
  all_goals cases h
  all_goals decide

theorem isWord_iff {z : Sz} : isWord z = true ↔ z = .w ∨ z = .ws ∨ z = .d := by
  cases z <;> simp [isWord]

theorem isWD_iff {z : Sz} : isWD z = true ↔ z = .w ∨ z = .d := by
  cases z <;> simp [isWD]

theorem isUnsigned_of_isWD {z : Sz} (h : isWD z = true) : isUnsigned z = true := by
  cases z <;> simp_all [isWD, isUnsigned]

theorem Cc.ofCode_eq_none {c : Nat} (h : 8 ≤ c) : Cc.ofCode c = none := by
  unfold Cc.ofCode
  split
  case h_9 => rfl
  all_goals omega

theorem Cc.testsState_iff_of_ofCode {n : Nat} {c : Cc} (h : Cc.ofCode n = some c) : c = .full ∨ c = .empty ↔ 6 ≤ n := by
  unfold Cc.ofCode at h
  split at h
  all_goals cases h
  all_goals decide

theorem Comb.ofCode_eq_none {c : Nat} (h : 7 ≤ c) : Comb.ofCode c = none := by
  unfold Comb.ofCode
  split
  case h_8 => rfl
  all_goals omega

theorem Scope.ne_core_host_of_ofCode {c : Nat} {z : Scope} (h : Scope.ofCode c = some z) (hlo : 1 ≤ c) (hhi : c ≤ 4) :
    z ≠ .core ∧ z ≠ .host := by
  unfold Scope.ofCode at h
  split at h
  case h_1 | h_6 => omega
  all_goals cases h
  all_goals decide

theorem srcS_of_ne {r : Nat} (h : r < 32) (hne : r ≠ 29) : srcS r = true := by simp [srcS, h, hne]

theorem dstN_of_ne {r : Nat} (h : r < 32) (hne : r ≠ 28) (hne' : r ≠ 29) : dstN r = true := by simp [dstN, h, hne, hne']

/-! ## Loads and stores (R224, R225) -/

/-- The load that a code of `ord` selects (R225). -/
def loadForm (ord d a : Nat) (z : Sz) (off : BitVec 11) : Instr :=
  match ord with
  | 0 => .ld d a z off
  | 1 => .ldAcq d a z off
  | 2 => .ldSync d a z off
  | _ => .ldTake d a z off

/-- The store that a code of `ord` selects (R225). -/
def storeForm (ord d a : Nat) (z : Sz) (off : BitVec 11) : Instr :=
  match ord with
  | 0 => .st d a z off
  | 1 => .stRel d a z off
  | 2 => .stFill d a z off
  | _ => .stRelfill d a z off

theorem loadForm_wf {d a : Nat} (ord : Nat) (z : Sz) (off : BitVec 11) (hd : dstN d = true) (ha : srcS a = true) :
    (loadForm ord d a z off).wf = true ↔ ord < 2 ∨ z = .w ∨ z = .ws ∨ z = .d := by
  have hwf : (loadForm ord d a z off).wf = (dstN d && srcS a && (decide (ord < 2) || isWord z)) :=
    match ord with
    | 0 | 1 => (Bool.and_true _).symm
    | 2 | _ + 3 => rfl
  simp [hwf, hd, ha, isWord_iff]

theorem storeForm_wf {d a : Nat} (ord : Nat) (z : Sz) (off : BitVec 11) :
    (storeForm ord d a z off).wf = true ↔ (srcS d = true ∧ srcS a = true) ∧ isUnsigned z = true ∧ (ord < 2 ∨ z = .w ∨ z = .d) := by
  have hwf : (storeForm ord d a z off).wf = (srcS d && srcS a && if ord < 2 then isUnsigned z else isWD z) :=
    match ord with
    | 0 | 1 | 2 | _ + 3 => rfl
  rw [hwf, ← isWD_iff]
  by_cases hord : ord < 2
  · simp [hord]
  · simp [hord, and_iff_right_of_imp isUnsigned_of_isWD]

theorem decLd_eq (w : Nat) :
    decLd w = code (Sz.ofCode (fld 11 3 w)) fun z => .ok (loadForm (fld 14 2 w) (fld 21 5 w) (fld 16 5 w) z (BitVec.ofNat 11 (fld 0 11 w))) := by
  unfold decLd loadForm
  split <;> simp_all

theorem decSt_eq (w : Nat) :
    decSt w = code (Sz.ofCode (fld 11 3 w)) fun z => .ok (storeForm (fld 14 2 w) (fld 21 5 w) (fld 16 5 w) z (BitVec.ofNat 11 (fld 0 11 w))) := by
  unfold decSt storeForm
  split <;> simp_all

section
variable {d a ord sz off : Nat} (hd : d < 32) (ha : a < 32) (hord : ord < 4) (hsz : sz < 8) (hoff : off < 2048)
include hd ha hord hsz hoff

theorem decodeRaw_load (w2 : Nat) : decodeRaw (packM 0x18 d a ord sz off) w2
    = code (Sz.ofCode sz) fun z => .ok (loadForm ord d a z (BitVec.ofNat 11 off)) := by
  obtain ⟨hop, fd, fa, ford, fsz, foff⟩ := packM_fields (op := 0x18) (by decide) hd ha hord hsz hoff
  simp only [decodeRaw, hop, decLd_eq, fd, fa, ford, fsz, foff]

theorem decodeRaw_store (w2 : Nat) : decodeRaw (packM 0x19 d a ord sz off) w2
    = code (Sz.ofCode sz) fun z => .ok (storeForm ord d a z (BitVec.ofNat 11 off)) := by
  obtain ⟨hop, fd, fa, ford, fsz, foff⟩ := packM_fields (op := 0x19) (by decide) hd ha hord hsz hoff
  simp only [decodeRaw, hop, decSt_eq, fd, fa, ford, fsz, foff]

end

theorem ordCodes : OrdCodes := by
  intro d a sz off hd ha ha29 hoff
  refine ⟨fun z hd28 hd29 hz => ?load, fun z hd29 hsz hz => ?store, fun ord hord hlo hhi => ?storeSigned⟩
  case load =>
    have form (ord : Nat) (hord : ord < 4) := decodeWords_or_illegal
      ((decodeRaw_load hd ha hord (Nat.lt_succ_of_lt (Sz.lt_of_ofCode hz)) hoff 0).trans (by rw [hz]; rfl))
      (loadForm_wf ord z (BitVec.ofNat 11 off) (dstN_of_ne hd hd28 hd29) (srcS_of_ne ha ha29))
    exact ⟨(form 0 (by decide)).1 (.inl (by decide)), (form 1 (by decide)).1 (.inl (by decide)),
      fun hz => ⟨(form 2 (by decide)).1 (.inr hz), (form 3 (by decide)).1 (.inr hz)⟩,
      fun hz => ⟨(form 2 (by decide)).2 (by simpa using hz), (form 3 (by decide)).2 (by simpa using hz)⟩⟩
  case store =>
    have form (ord : Nat) (hord : ord < 4) := decodeWords_or_illegal
      ((decodeRaw_store hd ha hord (Nat.lt_succ_of_lt (Sz.lt_of_ofCode hz)) hoff 0).trans (by rw [hz]; rfl))
      ((storeForm_wf ord z (BitVec.ofNat 11 off)).trans (and_iff_right ⟨srcS_of_ne hd hd29, srcS_of_ne ha ha29⟩)
        |>.trans (and_iff_right ((Sz.isUnsigned_iff_of_ofCode hz).mpr hsz)))
    exact ⟨(form 0 (by decide)).1 (.inl (by decide)), (form 1 (by decide)).1 (.inl (by decide)),
      fun hz => ⟨(form 2 (by decide)).1 (.inr hz), (form 3 (by decide)).1 (.inr hz)⟩,
      fun hz => ⟨(form 2 (by decide)).2 (by simpa using hz), (form 3 (by decide)).2 (by simpa using hz)⟩⟩
  case storeSigned =>
    have raw := decodeRaw_store hd ha hord hhi hoff 0
    cases hz : Sz.ofCode sz with
    | none => exact illegal_of_error (raw.trans (by rw [hz]; rfl))
    | some z =>
      have form := decodeWords_or_illegal (raw.trans (by rw [hz]; rfl)) (storeForm_wf (d := d) (a := a) ord z (BitVec.ofNat 11 off))
      exact form.2 fun hwf => absurd ((Sz.isUnsigned_iff_of_ofCode hz).mp hwf.2.1) (Nat.not_lt_of_le hlo)

/-! ## Solicits and merges (R101, R229) -/

theorem solWord_fields {imp scope sc : Nat} (himp : imp < 65536) (hscope : scope < 8) (hsc : sc < 16) :
    fld 16 16 (imp * 2 ^ 16 + scope * 2 ^ 4 + sc) = imp ∧ fld 7 9 (imp * 2 ^ 16 + scope * 2 ^ 4 + sc) = 0
      ∧ fld 4 3 (imp * 2 ^ 16 + scope * 2 ^ 4 + sc) = scope ∧ fld 0 4 (imp * 2 ^ 16 + scope * 2 ^ 4 + sc) = sc := by
  unfold fld
  refine ⟨?_, ?_, ?_, ?_⟩ <;> omega

theorem decodeRaw_sol {d a b imp scope sc : Nat} (hd : d < 32) (ha : a < 32) (hb : b < 32) (himp : imp < 65536) (hscope : scope < 8)
    (hsc : sc < 16) : decodeRaw (packS 0x35 d a b 0 0) (imp * 2 ^ 16 + scope * 2 ^ 4 + sc)
      = code (Scope.ofCode scope) fun z => code (Comb.ofCode sc) fun c => .ok (.sol d a b imp z c) := by
  obtain ⟨hop, fd, fa, fb, hfn, himm⟩ := packS_fields (op := 0x35) (fn := 0) (imm := 0) (by decide) hd ha hb (by decide) (by decide)
  obtain ⟨fimp, hzero, fscope, fsc⟩ := solWord_fields himp hscope hsc
  simp only [decodeRaw, hop, decSol, hfn, himm, hzero, fscope, fsc, fd, fa, fb, fimp]
  rfl

theorem sol_wf {d a b imp : Nat} {z : Scope} (c : Comb) (hlo : 1 ≤ d) (hhi : d ≤ 26) (ha : srcS a = true) (hb : srcS b = true)
    (himp : imp < 65536) (hz : z ≠ .core ∧ z ≠ .host) : (Instr.sol d a b imp z c).wf = true := by
  cases z with
  | core => exact absurd rfl hz.1
  | host => exact absurd rfl hz.2
  | polder | stack | package | pod =>
    change (pairReg d && srcS a && srcS b && decide (imp < 65536) && true) = true
    simp [pairReg, hlo, hhi, ha, hb, himp]

theorem combine_maxI64 (a b : W64) : (combine .maxI64 a b).toInt = max a.toInt b.toInt := by
  simp only [combine, BitVec.sle_iff_toInt_le]
  split
  · exact (Int.max_eq_right ‹_›).symm
  · exact (Int.max_eq_left (by omega)).symm

theorem combine_minI64 (a b : W64) : (combine .minI64 a b).toInt = min a.toInt b.toInt := by
  simp only [combine, BitVec.sle_iff_toInt_le]
  split
  · exact (Int.min_eq_left ‹_›).symm
  · exact (Int.min_eq_right (by omega)).symm

theorem combineCodes : CombineCodes := by
  refine ⟨fun d a b imp scope sc hd1 hd26 ha hb ha29 hb29 himp hs1 hs4 hsc z hz => ?_,
    fun a b => ⟨rfl, combine_maxI64 a b, combine_minI64 a b, rfl, rfl, rfl, rfl⟩⟩
  have raw := decodeRaw_sol (d := d) (by omega) ha hb himp (scope := scope) (by omega) hsc
  have decodes (c : Comb) (hc : Comb.ofCode sc = some c) :
      decodeWords (packS 0x35 d a b 0 0) (imp * 2 ^ 16 + scope * 2 ^ 4 + sc) = .ok (.sol d a b imp z c) :=
    decodeWords_of_raw (raw.trans (by rw [hz, hc]; rfl))
      (sol_wf c hd1 hd26 (srcS_of_ne ha ha29) (srcS_of_ne hb hb29) himp (Scope.ne_core_host_of_ofCode hz hs1 hs4))
  refine ⟨fun h => decodes _ (h ▸ rfl), fun h => decodes _ (h ▸ rfl), fun h => decodes _ (h ▸ rfl), fun h => decodes _ (h ▸ rfl),
    fun h => decodes _ (h ▸ rfl), fun h => decodes _ (h ▸ rfl), fun h => decodes _ (h ▸ rfl), fun h => ?_⟩
  exact illegal_of_error (raw.trans (by rw [hz, Comb.ofCode_eq_none h]; rfl))

/-! ## `rpt` (R234, R298) -/

theorem decodeRaw_rpt {len a str z : Nat} (hlen : len < 16) (ha : a < 32) (hstr : str < 16) (hz : z < 8192) (w2 : Nat) :
    decodeRaw (packR 0x15 len a str z) w2 = need (z == 0) (.ok (.rpt (len + 1) a str)) := by
  obtain ⟨hop, flen, fa, fstr, fz⟩ := packR_fields (op := 0x15) (by decide) hlen ha hstr hz
  simp only [decodeRaw, hop, decRpt, flen, fa, fstr, fz]

theorem rpt_wf {len a str : Nat} (hlen : len < 16) (ha : a < 32) (hstr : str < 16) : (Instr.rpt (len + 1) a str).wf = true ↔ a ≠ 29 := by
  change (decide (1 ≤ len + 1) && decide (len + 1 ≤ 16) && srcS a && decide (str < 16)) = true ↔ a ≠ 29
  simp [srcS, ha, hstr, Nat.succ_le_of_lt hlen]

theorem rptLayout : RptLayout := by
  intro len a str z hlen ha hstr hz w
  have raw : decodeRaw w 0 = need (z == 0) (.ok (.rpt (len + 1) a str)) := decodeRaw_rpt hlen ha hstr hz 0
  by_cases hz0 : z = 0
  · subst hz0
    have form := decodeWords_or_illegal raw (rpt_wf hlen ha hstr)
    exact ⟨fun _ ha29 => ⟨form.1 ha29, rfl⟩, fun hbad => form.2 (by simpa using hbad)⟩
  · exact ⟨fun h => absurd h hz0, fun _ => illegal_of_error (raw.trans (by rw [beq_false_of_ne hz0]; rfl))⟩

/-! ## Branches (R226) -/

theorem decodeRaw_br {cc a b disp : Nat} (hcc : cc < 16) (ha : a < 32) (hb : b < 32) (hdisp : disp < 4096) (w2 : Nat) :
    decodeRaw (packB 0x10 cc a b disp) w2 = code (Cc.ofCode cc) fun c => .ok (.br c a b (BitVec.ofNat 12 disp)) := by
  obtain ⟨hop, fcc, fa, fb, fdisp⟩ := packB_fields (op := 0x10) (by decide) hcc ha hb hdisp
  simp only [decodeRaw, hop, decBr, fcc, fa, fb, fdisp]

theorem br_wf {a b cc : Nat} {c : Cc} (disp : BitVec 12) (ha : srcS a = true) (hb : srcS b = true) (hc : Cc.ofCode cc = some c) :
    (Instr.br c a b disp).wf = true ↔ cc < 6 ∨ b = 0 := by
  have hwf : (Instr.br c a b disp).wf = (srcS a && if c = .full ∨ c = .empty then b == 0 else srcS b) := by
    cases c <;> rfl
  simp only [hwf, Cc.testsState_iff_of_ofCode hc]
  by_cases hlt : cc < 6
  · simp [ha, hb, hlt, Nat.not_le_of_lt hlt]
  · simp [ha, hlt, Nat.le_of_not_lt hlt]

theorem ccCodes : CcCodes := by
  intro cc a b disp hcc ha hb ha29 hb29 hdisp
  have raw := decodeRaw_br hcc ha hb hdisp 0
  have form {c : Cc} (hc : Cc.ofCode cc = some c) := decodeWords_or_illegal (raw.trans (by rw [hc]; rfl))
    (br_wf (BitVec.ofNat 12 disp) (srcS_of_ne ha ha29) (srcS_of_ne hb hb29) hc)
  refine ⟨fun c hc hlt => (form hc).1 (.inl hlt), fun c hc hge => ⟨fun hb0 => (form hc).1 (.inr hb0), fun hb0 => (form hc).2 ?_⟩, fun hge => ?_⟩
  · exact not_or.mpr ⟨Nat.not_lt_of_le hge, hb0⟩
  · exact illegal_of_error (raw.trans (by rw [Cc.ofCode_eq_none hge]; rfl))

/-! ## The functions of `vq` (R236, R339) -/

theorem decVq_eq_error {w : Nat} (h : 4 ≤ fld 0 7 w) : decVq w = .error .unassignedFunction := by
  unfold decVq
  split
  case h_5 => rfl
  all_goals omega

theorem decVq_unused_vc {w : Nat} (hfn : fld 0 7 w < 4) (h : fld 10 4 w ≠ 0) : decVq w = .error .unusedField := by
  unfold decVq
  split
  case h_5 => grind
  all_goals simp [need, h]

theorem decVq_unused_vb {w : Nat} (hfn : fld 0 7 w < 2) (h : fld 14 4 w ≠ 0) : decVq w = .error .unusedField := by
  unfold decVq
  split
  case h_1 | h_2 => simp [need, h]
  case h_3 | h_4 => omega
  case h_5 => grind

theorem vqFunctions : VqFunctions := by
  intro vd va vb vc pr fn hvd hva hvb hvc hpr hfn w
  obtain ⟨hop, fvd, fva, fvb, fvc, fpr, ffn⟩ : fld 26 6 w = 0x27 ∧ fld 22 4 w = vd ∧ fld 18 4 w = va ∧ fld 14 4 w = vb ∧ fld 10 4 w = vc
      ∧ fld 7 3 w = pr ∧ fld 0 7 w = fn := packV_fields (by decide) hvd hva hvb hvc hpr hfn
  have raw : decodeRaw w 0 = decVq w := by simp only [decodeRaw, hop]
  have hunary : (vreg vd && vreg va) = true := by simp [vreg, hvd, hva]
  have hbinary : (vreg vd && vreg va && vreg vb) = true := by simp [vreg, hvd, hva, hvb]
  have hpred : preg pr = true := by simp [preg, hpr]
  refine ⟨fun h hb hc => ?vscl, fun h hb hc => ⟨fun hp => ?vmaxx, fun hp => ?vmaxxPredicate⟩, fun h hc => ?comp, fun h hc => ?dcomp,
    fun h => illegal_of_error (raw.trans (decVq_eq_error (ffn ▸ h))),
    fun h hc => illegal_of_error (raw.trans (decVq_unused_vc (ffn ▸ h) (fvc ▸ hc))),
    fun h hb => illegal_of_error (raw.trans (decVq_unused_vb (ffn ▸ h) (fvb ▸ hb)))⟩
  all_goals simp only [decVq, fvd, fva, fvb, fvc, fpr, ffn, h] at raw
  case vscl => exact decodeWords_of_raw (raw.trans (by simp [need, hb, hc])) (Bool.and_eq_true_iff.mpr ⟨hunary, hpred⟩)
  case vmaxx => exact ⟨decodeWords_of_raw (raw.trans (by simp [need, hb, hc, hp])) hunary, by simp [unportable, hop, ffn, h]⟩
  case vmaxxPredicate => exact illegal_of_error (e := .unusedField) (raw.trans (by simp [need, hp]))
  case comp | dcomp => exact decodeWords_of_raw (raw.trans (by simp [need, hc])) (Bool.and_eq_true_iff.mpr ⟨hbinary, hpred⟩)

/-! ## The field codes (R225, R226, R229, R298, R339) -/

/-- Settles O54: each field is read back from its word, and a code that names nothing, or a size or register that the form refuses, is illegal. -/
theorem fieldCodesDecode : Obligations.FieldCodesDecode :=
  ⟨ordCodes, combineCodes, rptLayout, vqFunctions, ccCodes⟩

end Sys2Proof.Decoding

/-! Memory operations by the agents of a stack (R50 to R61, R69 to R78, R170 to R177): what they leave as it was, and that none of them looks at
which tasks have ended, which the end of a task needs because it notes the task before it reads the TCB (R368, R404). -/

namespace Sys2Proof.MemorySteps

open Sys2Proof.Machine

/-! ## Runs that stay beside each other -/

/-- Between two states only what memory operations touch has changed: memory with its poison and full bits, the stacks' records, what was
sent out, and the slices but for the census packets at their routers. -/
structure MemoryStep (s t : State) : Prop where
  rest : t = { s with out := t.out, slices := t.slices, stackRecs := t.stackRecs, mem := t.mem, poison := t.poison, empties := t.empties }
  cin : ∀ k, (t.slice k).cin = (s.slice k).cin

namespace MemoryStep

variable {s t u : State}

theorem refl (s : State) : MemoryStep s s := ⟨rfl, fun _ => rfl⟩

theorem trans (h : MemoryStep s t) (k : MemoryStep t u) : MemoryStep s u :=
  ⟨by rw [k.rest, h.rest], fun n => (k.cin n).trans (h.cin n)⟩

theorem cur (h : MemoryStep s t) : t.cur = s.cur := by rw [h.rest]
theorem threads (h : MemoryStep s t) : t.threads = s.threads := by rw [h.rest]
theorem polders (h : MemoryStep s t) : t.polders = s.polders := by rw [h.rest]
theorem census (h : MemoryStep s t) : t.census = s.census := by rw [h.rest]
theorem ended (h : MemoryStep s t) : t.ended = s.ended := by rw [h.rest]

/-! What the issuing slot reads alike. -/

theorem thread (h : MemoryStep s t) (k : Nat) : t.thread k = s.thread k := by rw [h.rest]; rfl
theorem me (h : MemoryStep s t) : t.me = s.me := by rw [h.rest]; rfl
theorem thr (h : MemoryStep s t) : t.thr = s.thr := by rw [h.rest]; rfl
theorem myPolder (h : MemoryStep s t) : t.myPolder = s.myPolder := by rw [h.rest]; rfl
theorem jobOf (h : MemoryStep s t) (ep : Nat) : t.jobOf ep = s.jobOf ep := by rw [h.rest]; rfl
theorem sval (h : MemoryStep s t) (n : Nat) : t.sval n = s.sval n := by rw [h.rest]; rfl
theorem timeAt (h : MemoryStep s t) (ep : Nat) : t.timeAt ep = s.timeAt ep := by rw [h.rest]; rfl
theorem storesDone (h : MemoryStep s t) : t.storesDone = s.storesDone := by rw [h.rest]; rfl

end MemoryStep

/-- Two states of runs that began in `s0` and in the same state with the ended tasks `e`: memory operations have taken both equally far. -/
structure Parallel (s0 : State) (e : NSet) (s t : State) : Prop where
  since : MemoryStep s0 s
  twin : t = { s with ended := e }

/-- Two runs answer alike and stay beside each other. -/
def Alike {α : Type} (s0 : State) (e : NSet) (x y : α × State) : Prop :=
  ∃ a s t, x = (a, s) ∧ y = (a, t) ∧ Parallel s0 e s t

section
variable {s0 s t : State} {e : NSet} {α β : Type}

theorem Parallel.start (s : State) (e : NSet) : Parallel s e s { s with ended := e } := ⟨.refl s, rfl⟩

/-- A run beside itself. -/
theorem Parallel.self (s : State) : Parallel s s.ended s s := ⟨.refl s, rfl⟩

theorem Parallel.alike (h : Parallel s0 e s t) (a : α) : Alike s0 e (a, s) (a, t) := ⟨a, s, t, rfl, rfl, h⟩

theorem Parallel.ite {c : Prop} [Decidable c] {s' t' : State} (h : Parallel s0 e s t) (h' : Parallel s0 e s' t') :
    Parallel s0 e (if c then s else s') (if c then t else t') := by
  split
  · exact h
  · exact h'

theorem Alike.ite {c : Prop} [Decidable c] {x y x' y' : α × State} (h : Alike s0 e x y) (h' : Alike s0 e x' y') :
    Alike s0 e (if c then x else x') (if c then y else y') := by
  split
  · exact h
  · exact h'

theorem Parallel.foldl {f : State → α → State} (hf : ∀ s t x, Parallel s0 e s t → Parallel s0 e (f s x) (f t x)) (l : List α) :
    ∀ {s t : State}, Parallel s0 e s t → Parallel s0 e (l.foldl f s) (l.foldl f t) := by
  induction l with
  | nil => exact id
  | cons x l ih => exact fun h => ih (hf _ _ x h)

theorem Alike.foldl {f : β × State → α → β × State}
    (hf : ∀ b s t x, Parallel s0 e s t → Alike s0 e (f (b, s) x) (f (b, t) x)) (l : List α) :
    ∀ {x y : β × State}, Alike s0 e x y → Alike s0 e (l.foldl f x) (l.foldl f y) := by
  induction l with
  | nil => exact id
  | cons x l ih =>
    rintro _ _ ⟨b, s, t, rfl, rfl, h⟩
    exact ih (hf b s t x h)

/-! What both runs read alike. -/

theorem Parallel.seq (h : Parallel s0 e s t) : t.seq = s.seq := by rw [h.twin]
theorem Parallel.poison (h : Parallel s0 e s t) : t.poison = s.poison := by rw [h.twin]
theorem Parallel.slice (h : Parallel s0 e s t) (k : Nat) : t.slice k = s.slice k := by rw [h.twin]; rfl
theorem Parallel.stack (h : Parallel s0 e s t) (k : Nat) : t.stack k = s.stack k := by rw [h.twin]; rfl
theorem Parallel.podTime (h : Parallel s0 e s t) (k : Nat) : t.podTime k = s.podTime k := by rw [h.twin]; rfl
theorem Parallel.line? (h : Parallel s0 e s t) (sl line : Nat) : t.line? sl line = s.line? sl line := by rw [h.twin]; rfl
theorem Parallel.homeLine? (h : Parallel s0 e s t) (pa : Nat) : t.homeLine? pa = s.homeLine? pa := by rw [h.twin]; rfl
theorem Parallel.noRoom (h : Parallel s0 e s t) (sl line : Nat) : t.noRoom sl line = s.noRoom sl line := by rw [h.twin]; rfl
theorem Parallel.waysOf (h : Parallel s0 e s t) (sl line : Nat) : t.waysOf sl line = s.waysOf sl line := by rw [h.twin]; rfl
theorem Parallel.newHome (h : Parallel s0 e s t) (pa : Nat) : t.newHome pa = s.newHome pa := by rw [h.twin]; rfl
theorem Parallel.newFar (h : Parallel s0 e s t) (stk pa : Nat) : t.newFar stk pa = s.newFar stk pa := by rw [h.twin]; rfl
theorem Parallel.poisoned (h : Parallel s0 e s t) (pa : Nat) : t.poisoned pa = s.poisoned pa := by rw [h.twin]; rfl
theorem Parallel.byte (h : Parallel s0 e s t) (pa : Nat) : t.byte pa = s.byte pa := by rw [h.twin]; rfl
theorem Parallel.bytes (h : Parallel s0 e s t) (pa n : Nat) : t.bytes pa n = s.bytes pa n := by rw [h.twin]; rfl
theorem Parallel.num (h : Parallel s0 e s t) (pa n : Nat) : t.num pa n = s.num pa n := by rw [h.twin]; rfl

/-! One update of either run. -/

theorem Parallel.modSlice (h : Parallel s0 e s t) (k : Nat) {f : Slice → Slice} (hf : ∀ x, (f x).cin = x.cin) :
    Parallel s0 e (s.modSlice k f) (t.modSlice k f) := by
  refine ⟨h.since.trans ⟨rfl, fun n => ?_⟩, by rw [h.twin]; rfl⟩
  by_cases hn : n = k
  · subst hn; rw [State.modSlice_slice_self, hf]
  · rw [State.modSlice_slice_ne _ _ _ _ hn]

theorem Parallel.modStack (h : Parallel s0 e s t) (k : Nat) (f : Stack → Stack) : Parallel s0 e (s.modStack k f) (t.modStack k f) :=
  ⟨h.since.trans ⟨rfl, fun _ => rfl⟩, by rw [h.twin]; rfl⟩

theorem Parallel.emit (h : Parallel s0 e s t) (o : Out) : Parallel s0 e (s.emit o) (t.emit o) :=
  ⟨h.since.trans ⟨rfl, fun _ => rfl⟩, by rw [h.twin]; rfl⟩

theorem Parallel.setPattern (h : Parallel s0 e s t) (g : Nat) (b : Bool) : Parallel s0 e (s.setPattern g b) (t.setPattern g b) :=
  ⟨h.since.trans ⟨rfl, fun _ => rfl⟩, by rw [h.twin]; rfl⟩

theorem Parallel.setFull (h : Parallel s0 e s t) (pa : Nat) : Parallel s0 e (s.setFull pa) (t.setFull pa) :=
  ⟨h.since.trans ⟨rfl, fun _ => rfl⟩, by rw [h.twin]; rfl⟩

theorem Parallel.setByte (h : Parallel s0 e s t) (pa : Nat) (b : Byte) : Parallel s0 e (s.setByte pa b) (t.setByte pa b) :=
  ⟨h.since.trans ⟨rfl, fun _ => rfl⟩, by rw [h.twin]; rfl⟩

theorem Parallel.setBytes (bs : List Byte) :
    ∀ {s t : State}, Parallel s0 e s t → ∀ pa, Parallel s0 e (s.setBytes pa bs) (t.setBytes pa bs) := by
  induction bs with
  | nil => exact fun h _ => h
  | cons b bs ih => exact fun h pa => ih (h.setByte pa b) _

theorem Parallel.setLine (h : Parallel s0 e s t) (sl line : Nat) (l : Line) : Parallel s0 e (s.setLine sl line l) (t.setLine sl line l) :=
  h.modSlice sl fun _ => rfl

theorem Parallel.dropLine (h : Parallel s0 e s t) (sl line : Nat) : Parallel s0 e (s.dropLine sl line) (t.dropLine sl line) :=
  h.modSlice sl fun _ => rfl

theorem Parallel.setHomeLine (h : Parallel s0 e s t) (pa : Nat) (l : Line) : Parallel s0 e (s.setHomeLine pa l) (t.setHomeLine pa l) :=
  h.setLine _ _ l

theorem Parallel.accumulate (h : Parallel s0 e s t) (stk addr : Nat) : Parallel s0 e (s.accumulate stk addr) (t.accumulate stk addr) :=
  h.modStack _ _

theorem Parallel.mark (h : Parallel s0 e s t) (pa : Nat) (b : Bool) : Parallel s0 e (s.mark pa b) (t.mark pa b) := by
  unfold State.mark
  rw [h.homeLine?]
  cases (if region pa = .dram then s.homeLine? pa else none) with
  | none => exact h.setPattern _ _
  | some l => exact h.setHomeLine _ _

/-! ## Errors that a read meets (R170, R176, R177) -/

theorem Parallel.logSignal (h : Parallel s0 e s t) (stk kind : Nat) : Parallel s0 e (s.logSignal stk kind) (t.logSignal stk kind) := by
  unfold State.logSignal
  exact (h.emit _).ite h

theorem Parallel.logError (h : Parallel s0 e s t) (stk addr kind agent sym attempts flags ep : Nat) :
    Parallel s0 e (s.logError stk addr kind agent sym attempts flags ep) (t.logError stk addr kind agent sym attempts flags ep) := by
  unfold State.logError
  simp only [h.podTime]
  split
  · exact (h.modStack _ _).logSignal _ _
  · refine (h.modSlice _ fun x => ?_).logSignal _ _
    split <;> rfl

theorem Parallel.takeUpsets (h : Parallel s0 e s t) (array fresh : Bool) (pa n : Nat) :
    Alike s0 e (s.takeUpsets array fresh pa n) (t.takeUpsets array fresh pa n) := by
  unfold State.takeUpsets
  simp only [h.stack]
  exact (h.alike _).ite ((h.modStack _ _).alike _)

theorem Parallel.passTransfer (h : Parallel s0 e s t) (sl : Nat) : Parallel s0 e (s.passTransfer sl) (t.passTransfer sl) := by
  unfold State.passTransfer
  rw [h.slice]
  exact h.ite (h.modSlice _ fun _ => rfl)

theorem Parallel.arrayUpset (h : Parallel s0 e s t) (g agent ep : Nat) (u : Upset) :
    Alike s0 e (s.arrayUpset g agent ep u) (t.arrayUpset g agent ep u) := by
  unfold State.arrayUpset
  dsimp only
  split
  case h_3 => exact h.alike _
  all_goals exact (h.logError ..).alike _

theorem Parallel.arraySector (h : Parallel s0 e s t) (g agent ep : Nat) :
    Alike s0 e (s.arraySector g agent ep) (t.arraySector g agent ep) := by
  unfold State.arraySector
  simp only [h.slice]
  split
  · exact h.alike _
  · obtain ⟨l, s, t, hs, ht, h⟩ := (h.passTransfer (proxyDev (stkOfPa g) g)).takeUpsets true false g 32
    simp only [hs, ht, h.poison]
    generalize hx : List.foldl _ (false, s) _ = x
    generalize hy : List.foldl _ (false, t) _ = y
    obtain ⟨bad, s, t, rfl, rfl, h⟩ : Alike s0 e x y := by
      rw [← hx, ← hy]
      refine Alike.foldl (fun b s t u h => ?_) _ (h.alike false)
      obtain ⟨b', s, t, hs, ht, h⟩ := h.arrayUpset g agent ep u
      simp only [hs, ht]
      exact h.alike _
    exact ((h.logError ..).alike _).ite (h.alike _)

theorem Parallel.sramRead (h : Parallel s0 e s t) (pa n : Nat) (fresh : Bool) (agent ep : Nat) :
    Parallel s0 e (s.sramRead pa n fresh agent ep) (t.sramRead pa n fresh agent ep) := by
  unfold State.sramRead
  obtain ⟨l, s, t, hs, ht, h⟩ := h.takeUpsets false fresh pa n
  simp only [hs, ht]
  refine h.foldl (fun s t u h => ?_) l
  exact ((h.mark ..).logError ..).ite (h.logError ..)

/-! ## Home lines, replicas and far lines (R58 to R61, R69) -/

theorem Parallel.freeSig (h : Parallel s0 e s t) (sl line : Nat) : Parallel s0 e (s.freeSig sl line) (t.freeSig sl line) := by
  unfold State.freeSig
  rw [h.line?]
  cases s.line? sl line with
  | none => exact h
  | some l =>
    dsimp only
    split
    · refine (h.modSlice sl ?_).setLine ..
      exact fun _ => rfl
    · exact h

theorem Parallel.invalidateReplicas (h : Parallel s0 e s t) (stk pa : Nat) :
    Parallel s0 e (s.invalidateReplicas stk pa) (t.invalidateReplicas stk pa) := by
  unfold State.invalidateReplicas
  simp only [h.line?]
  cases s.line? (proxyDev stk pa) (devLine pa) with
  | none => exact h
  | some l =>
    dsimp only
    refine h.ite (Parallel.setLine (h.foldl (fun s t n h => ?_) _) ..)
    exact (h.dropLine ..).ite h

theorem Parallel.fillHome (h : Parallel s0 e s t) (pa agent ep : Nat) : Parallel s0 e (s.fillHome pa agent ep) (t.fillHome pa agent ep) := by
  unfold State.fillHome
  dsimp only
  generalize hx : List.foldl _ s _ = x
  generalize hy : List.foldl _ t _ = y
  have h : Parallel s0 e x y := by
    rw [← hx, ← hy]
    refine h.foldl (fun s t j h => ?_) _
    obtain ⟨bad, s, t, hs, ht, h⟩ := h.arraySector (pa / 64 * 64 + 32 * j) agent ep
    simp only [hs, ht, h.homeLine?]
    cases s.homeLine? pa with
    | none => exact h
    | some l => exact (h.setHomeLine ..).ite h
  simp only [h.homeLine?]
  cases x.homeLine? pa with
  | none => exact h.sramRead ..
  | some l => exact (h.setHomeLine ..).sramRead ..

theorem Parallel.homePut (h : Parallel s0 e s t) (pa : Nat) (bs : List Byte) (agent ep : Nat) :
    Parallel s0 e (s.homePut pa bs agent ep) (t.homePut pa bs agent ep) := by
  unfold State.homePut
  dsimp only
  have h := ((h.invalidateReplicas (stkOfPa pa) pa).freeSig (proxyDev (stkOfPa pa) pa) (devLine pa)).accumulate (stkOfPa pa) pa
  revert h
  generalize State.accumulate _ _ _ = x
  generalize State.accumulate _ _ _ = y
  intro h
  simp only [h.homeLine?]
  cases x.homeLine? pa with
  | none =>
    dsimp only
    generalize hx : List.foldl _ x _ = u
    generalize hy : List.foldl _ y _ = v
    have h : Parallel s0 e u v := by
      rw [← hx, ← hy]
      refine h.foldl (fun s t g h => ?_) _
      split
      · exact h
      · obtain ⟨bad, s, t, hs, ht, h⟩ := h.arraySector g agent ep
        simp only [hs, ht, h.slice]
        exact (h.setPattern ..).ite h
    simp only [h.slice]
    exact h.ite ((h.passTransfer _).setBytes ..)
  | some l =>
    dsimp only
    have h := (h.ite (h.fillHome pa 1 ep) (c := l.wv &&& partMask pa bs.length = partMask pa bs.length)).setBytes bs pa
    simp only [h.homeLine?, h.seq]
    split
    · exact h.setHomeLine ..
    · exact h

theorem Parallel.writebackLine (h : Parallel s0 e s t) (stk line : Nat) :
    Parallel s0 e (s.writebackLine stk line) (t.writebackLine stk line) := by
  unfold State.writebackLine
  simp only [h.line?]
  cases s.line? (proxyOf stk line) line with
  | none => exact h
  | some l =>
    dsimp only
    refine Parallel.ite ?_ h
    refine Parallel.setLine (Parallel.accumulate ?_ _ _) _ _ _
    generalize hx : List.foldl _ s _ = x
    generalize hy : List.foldl _ t _ = y
    have h : Parallel s0 e x y := by
      rw [← hx, ← hy]
      refine h.foldl (fun s t w h => ?_) _
      exact (h.homePut ..).ite (h.emit _)
    refine (h.foldl (fun s t j h => ?_) _).ite h
    exact h.ite ((h.mark ..).ite ((h.mark ..).ite h))

theorem Parallel.dropFar (h : Parallel s0 e s t) (stk line : Nat) : Parallel s0 e (s.dropFar stk line) (t.dropFar stk line) := by
  unfold State.dropFar
  simp only [h.line?]
  cases s.line? (proxyOf stk line) line with
  | none => exact h
  | some l =>
    dsimp only
    exact ((h.writebackLine ..).dropLine ..).ite h

theorem Parallel.writebackHome (h : Parallel s0 e s t) (pa : Nat) : Parallel s0 e (s.writebackHome pa) (t.writebackHome pa) := by
  unfold State.writebackHome
  simp only [h.homeLine?]
  cases s.homeLine? pa with
  | none => exact h
  | some l =>
    refine (h.foldl (fun s t j h => ?_) _).setHomeLine ..
    simp only [h.slice]
    split
    · exact h
    · by_cases hw : l.whole j = true
      · simp only [hw, if_true]
        exact (h.passTransfer _).setPattern ..
      · simp only [hw]
        obtain ⟨bad, s, t, hs, ht, h⟩ := h.arraySector (pa / 64 * 64 + 32 * j) 7 0
        simp only [hs, ht]
        exact h.setPattern ..

theorem Parallel.evict (h : Parallel s0 e s t) (sl line : Nat) : Parallel s0 e (s.evict sl line) (t.evict sl line) := by
  unfold State.evict
  simp only [h.line?]
  cases s.line? sl line with
  | none => exact h
  | some l =>
    dsimp only
    split
    · exact (h.writebackLine ..).dropLine ..
    · split
      · exact (h.setLine ..).dropLine ..
      · exact h.dropLine ..
    · exact (((h.invalidateReplicas ..).freeSig ..).writebackHome _).dropLine ..

theorem Parallel.makeRoom (h : Parallel s0 e s t) (sl line : Nat) : Parallel s0 e (s.makeRoom sl line) (t.makeRoom sl line) := by
  unfold State.makeRoom
  simp only [h.line?, h.waysOf]
  split
  · exact h
  · split
    · exact h.evict ..
    · exact h

/-! ## Device memory as an agent of a stack reads and writes it (R50, R58 to R60, R69) -/

theorem Parallel.homeFetch (h : Parallel s0 e s t) (pa n : Nat) (cached : Bool) (agent ep : Nat) :
    Alike s0 e (s.homeFetch pa n cached agent ep) (t.homeFetch pa n cached agent ep) := by
  unfold State.homeFetch
  extract_lets home line held
  have answers : ∀ {s t}, Parallel s0 e s t → Alike s0 e (held s) (held t) := by
    intro s t h
    simp only [held, h.homeLine?, h.seq]
    split
    · exact (h.setHomeLine ..).alike _
    · exact h.alike _
  simp only [h.homeLine?, h.noRoom]
  split
  · split
    · exact answers (h.sramRead ..)
    · exact answers (h.fillHome ..)
  · split
    · have h := h.makeRoom home line
      rw [h.newHome]
      exact answers ((h.setHomeLine ..).fillHome ..)
    · refine Alike.foldl (fun m s t g h => ?_) _ (h.alike _)
      obtain ⟨bad, s, t, hs, ht, h⟩ := h.arraySector g agent ep
      simp only [hs, ht]
      exact h.alike _

theorem Parallel.replica? (h : Parallel s0 e s t) (sl : Option Nat) (pa n : Nat) : t.replica? sl pa n = s.replica? sl pa n := by
  rw [h.twin]; rfl

theorem Parallel.installReplica (h : Parallel s0 e s t) (own pa : Nat) : Parallel s0 e (s.installReplica own pa) (t.installReplica own pa) := by
  unfold State.installReplica
  simp only [h.noRoom]
  split
  · exact h
  · have h := h.makeRoom own (devLine pa)
    simp only [h.homeLine?, h.seq]
    split
    · exact (h.setHomeLine ..).setLine ..
    · exact h

theorem Parallel.replicaRead (h : Parallel s0 e s t) (own : Nat) (l : Line) (pa n agent ep : Nat) :
    Alike s0 e (s.replicaRead own l pa n agent ep) (t.replicaRead own l pa n agent ep) := by
  unfold State.replicaRead
  have h' := h.sramRead pa n false agent ep
  simp only [h.homeLine?, h'.homeLine?]
  exact (h'.alike _).ite ((h'.setLine ..).alike _)

theorem Parallel.fillFar (h : Parallel s0 e s t) (line : Nat) (l : Line) (agent ep : Nat) :
    Alike s0 e (s.fillFar line l agent ep) (t.fillFar line l agent ep) := by
  unfold State.fillFar
  obtain ⟨bad, s, t, hs, ht, h⟩ := h.homeFetch (line * 64) 64 true agent ep
  simp only [hs, ht, h.byte]
  exact h.alike _

theorem Parallel.readDev (h : Parallel s0 e s t) (stk : Nat) (sl : Option Nat) (pa n : Nat) (cached bypass : Bool) (agent ep : Nat) :
    Alike s0 e (s.readDev stk sl pa n cached bypass agent ep) (t.readDev stk sl pa n cached bypass agent ep) := by
  unfold State.readDev
  refine Alike.ite ?sram (Alike.ite ?far ?home)
  case sram =>
    have h := h.sramRead pa n false agent ep
    simp only [h.bytes, h.poisoned]
    exact h.alike _
  case far =>
    extract_lets p line use
    have used : ∀ {s t} l, Parallel s0 e s t → Alike s0 e (use l s) (use l t) := by
      intro s t l h
      simp only [use, h.seq]
      exact (h.setLine ..).alike _
    rw [h.line?, h.noRoom]
    split
    · rename_i l _
      refine (used l h).ite ?_
      obtain ⟨l, s, t, hs, ht, h⟩ := h.fillFar line l 1 ep
      rw [hs, ht]
      exact used l h
    · refine Alike.ite ?_ ?_
      · obtain ⟨bad, s, t, hs, ht, h⟩ := h.homeFetch pa n cached agent ep
        simp only [hs, ht, h.bytes]
        exact h.alike _
      · rw [h.podTime]
        obtain ⟨l, s, t, hs, ht, h⟩ := (h.makeRoom p line).fillFar line
          { Line.blank .far with stamp := stampOf (s.podTime (stkOfPa pa / 4)) } agent ep
        rw [hs, ht]
        exact used l h
  case home =>
    rw [h.replica?]
    split
    · rename_i l _
      obtain ⟨l, s, t, hs, ht, h⟩ := h.replicaRead (sl.getD 0) l pa n agent ep
      simp only [hs, ht, h.bytes]
      exact h.alike _
    · obtain ⟨bad, s, t, hs, ht, h⟩ := h.homeFetch pa n cached agent ep
      simp only [hs, ht]
      split
      · rename_i own _
        simp only [(h.installReplica own pa).bytes]
        exact (h.installReplica own pa).alike _
      · simp only [h.bytes]
        exact h.alike _

theorem Parallel.writeOwn (h : Parallel s0 e s t) (pa : Nat) (bs : List Byte) (cached : Bool) (ep : Nat) :
    Parallel s0 e (s.writeOwn pa bs cached ep) (t.writeOwn pa bs cached ep) := by
  unfold State.writeOwn
  refine (h.setBytes ..).ite (Parallel.homePut ?_ ..)
  rw [h.homeLine?, h.noRoom]
  refine Parallel.ite ?_ h
  dsimp only
  have h := h.makeRoom (proxyDev (stkOfPa pa) pa) (devLine pa)
  rw [h.newHome]
  exact h.setHomeLine ..

theorem Parallel.writeDev (h : Parallel s0 e s t) (stk pa : Nat) (bs : List Byte) (cached bypass : Bool) (ep : Nat) :
    Parallel s0 e (s.writeDev stk pa bs cached bypass ep) (t.writeDev stk pa bs cached bypass ep) := by
  unfold State.writeDev
  dsimp only
  rw [h.noRoom]
  refine (h.writeOwn ..).ite ?_
  have h := h.makeRoom (proxyDev stk pa) (devLine pa)
  rw [h.line?, h.newFar]
  generalize Option.getD _ _ = l
  by_cases hm : l.wv &&& partMask pa bs.length = partMask pa bs.length
  · simp only [hm, if_true, h.seq]
    exact h.setLine ..
  · simp only [hm, if_false]
    obtain ⟨l, s, t, hs, ht, h⟩ := h.fillFar (devLine pa) l 1 ep
    rw [hs, ht, h.seq]
    exact h.setLine ..

theorem Parallel.readRun (h : Parallel s0 e s t) (stk : Nat) (sl : Option Nat) (pa n : Nat) (cached bypass : Bool) (agent ep : Nat) :
    Alike s0 e (s.readRun stk sl pa n cached bypass agent ep) (t.readRun stk sl pa n cached bypass agent ep) := by
  unfold State.readRun
  refine Alike.foldl (fun g s t c h => ?_) _ (h.alike _)
  obtain ⟨g', s, t, hs, ht, h⟩ := h.readDev stk sl c.1 c.2.1 cached bypass agent ep
  simp only [hs, ht]
  exact h.alike _

theorem Parallel.writeRun (h : Parallel s0 e s t) (stk pa : Nat) (bs : List Byte) (cached bypass : Bool) (ep : Nat) :
    Parallel s0 e (s.writeRun stk pa bs cached bypass ep) (t.writeRun stk pa bs cached bypass ep) := by
  unfold State.writeRun
  refine h.foldl (fun s t c h => ?_) _
  exact h.writeDev ..

theorem Parallel.clearAt (h : Parallel s0 e s t) (stk : Nat) (g : Target) (bypass : Bool) :
    Parallel s0 e (s.clearAt stk g bypass) (t.clearAt stk g bypass) := by
  unfold State.clearAt
  simp only [h.line?]
  cases g with
  | dev pa cached m =>
    refine (h.mark ..).ite ?_
    cases s.line? (proxyOf stk (devLine pa)) (devLine pa) with
    | some l => exact h.setLine ..
    | none => exact h
  | host ha cached a =>
    refine Parallel.ite ?_ h
    cases s.line? (proxyOf stk (hostLine ha)) (hostLine ha) with
    | some l => exact h.setLine ..
    | none => exact h
  | kdir off => exact h
  | census off => exact h

theorem Parallel.writeHost (h : Parallel s0 e s t) (stk ha : Nat) (bs : List Byte) (cached bypass : Bool) (attr : HostAttr) :
    Parallel s0 e (s.writeHost stk ha bs cached bypass attr) (t.writeHost stk ha bs cached bypass attr) := by
  unfold State.writeHost
  dsimp only
  rw [h.line?, h.podTime, h.noRoom, h.seq]
  exact ((h.makeRoom ..).setLine ..).ite ((h.dropFar ..).emit _)

theorem Parallel.writePieces (h : Parallel s0 e s t) (stk : Nat) (ps : List Piece) (data : List Byte) (fill bypass : Bool) (ep : Nat) :
    Parallel s0 e (s.writePieces stk ps data fill bypass ep) (t.writePieces stk ps data fill bypass ep) := by
  unfold State.writePieces
  dsimp only
  generalize hx : List.foldl _ s _ = x
  generalize hy : List.foldl _ t _ = y
  have h : Parallel s0 e x y := by
    rw [← hx, ← hy]
    refine h.foldl (fun s t p h => ?_) _
    split
    · refine Parallel.ite ?_ (h.writeRun ..)
      refine (h.writeRun ..).foldl (fun s t i h => ?_) _
      exact h.setFull _
    · refine h.foldl (fun s t c h => ?_) _
      exact h.writeHost ..
    · exact h
  refine h.foldl (fun s t g h => ?_) _
  exact h.clearAt ..

theorem Parallel.readHost (h : Parallel s0 e s t) (stk ha n : Nat) : t.readHost stk ha n = s.readHost stk ha n := by
  rw [h.twin]; rfl

theorem Parallel.readPieces (h : Parallel s0 e s t) (stk ep : Nat) (sl : Option Nat) (ps : List Piece) (bypass : Bool) (agent : Nat)
    (host : List (Nat × List Byte)) :
    Alike s0 e (s.readPieces stk ep sl ps bypass agent host) (t.readPieces stk ep sl ps bypass agent host) := by
  unfold State.readPieces
  refine Alike.foldl (fun g s t p h => ?_) _ (h.alike _)
  dsimp only
  split
  · rename_i pa cached _ _
    obtain ⟨g', s, t, hs, ht, h⟩ := h.readRun stk sl pa p.1.len cached bypass agent ep
    simp only [hs, ht]
    exact h.alike _
  · rw [h.readHost]
    split
    · exact h.alike _
    · exact h.alike _
  · rw [show t.kdirBytes = s.kdirBytes by rw [h.twin]; rfl]
    exact h.alike _
  · rw [show t.censusBytes = s.censusBytes by rw [h.twin]; rfl, show t.jobOf = s.jobOf by rw [h.twin]; rfl]
    exact h.alike _

/-! ## Walks and translations of an agent (R21 to R28, R34 to R36) -/

/-- Two walks end alike and have seen the same tables. -/
def WalkAlike (s0 : State) (e : NSet) (x y : WalkEnd × Seen × State) : Prop :=
  ∃ w seen s t, x = (w, seen, s) ∧ y = (w, seen, t) ∧ Parallel s0 e s t

theorem Parallel.walkAlike (h : Parallel s0 e s t) (w : WalkEnd) (seen : Seen) : WalkAlike s0 e (w, seen, s) (w, seen, t) :=
  ⟨w, seen, s, t, rfl, rfl, h⟩

theorem Parallel.walkDown (l : Nat) : ∀ {s t : State}, Parallel s0 e s t → ∀ (va table : Nat) (seen : Seen),
    WalkAlike s0 e (s.walkDown va l table seen) (t.walkDown va l table seen) := by
  induction l using Nat.strongRecOn with
  | ind l ih =>
    intro s t h va table seen
    unfold State.walkDown
    extract_lets pte
    obtain ⟨⟨data, bad⟩, s, t, hs, ht, h⟩ := h.readDev (stkOfPa pte) none pte 8 true true 5 0
    rw [hs, ht]
    cases bad with
    | cons b bs => exact h.walkAlike ..
    | nil =>
      dsimp only
      split
      case h_1 | h_4 => exact h.walkAlike ..
      case h_2 =>
        split
        · exact h.walkAlike ..
        · exact h.walkAlike ..
      case h_3 =>
        cases l with
        | zero => exact h.walkAlike ..
        | succ l =>
          dsimp only
          split
          · exact ih l (Nat.lt_succ_self l) h ..
          · exact h.walkAlike ..

theorem Parallel.walkNow (h : Parallel s0 e s t) (stk dike va : Nat) : Alike s0 e (s.walkNow stk dike va) (t.walkNow stk dike va) := by
  unfold State.walkNow
  simp only [h.stack]
  refine (h.alike _).ite ?_
  generalize Option.getD _ _ = top
  obtain ⟨w, seen, s, t, hs, ht, h⟩ := h.walkDown top.1 va top.2 []
  simp only [hs, ht]
  cases w with
  | leaf lf pte =>
    have h := h.modStack stk fun k => { k with wcache := (seen.map (fun e => (dike, e.1, e.2.1, e.2.2)) ++ k.wcache).take 256 }
    simp only [h.num]
    exact (h.ite (h.writeOwn ..)).alike _
  | fault c err =>
    cases err with
    | none => exact h.alike _
    | some a => exact (h.modStack ..).alike _

theorem Parallel.useLeaf (h : Parallel s0 e s t) (stk dike va : Nat) (wr : Bool) (lf : Leaf) :
    Alike s0 e (s.useLeaf stk dike va wr lf) (t.useLeaf stk dike va wr lf) := by
  unfold State.useLeaf
  dsimp only
  simp only [h.stack]
  refine (h.alike _).ite ((h.alike _).ite (Alike.ite ((h.alike _).ite ?_) (h.alike _)))
  split
  · exact (h.modStack ..).alike _
  · exact h.alike _

theorem Parallel.xlateAgent (h : Parallel s0 e s t) (stk dike va : Nat) (wr : Bool) :
    Alike s0 e (s.xlateAgent stk dike none va wr) (t.xlateAgent stk dike none va wr) := by
  unfold State.xlateAgent
  refine (h.alike _).ite (Alike.ite ?_ ?_)
  · exact h.alike _
  · obtain ⟨w, s, t, hs, ht, h⟩ := h.walkNow stk dike va
    rw [hs, ht]
    cases w with
    | leaf lf pte => exact h.useLeaf ..
    | fault c err => exact h.alike _

theorem Parallel.agentPieces (stk dike : Nat) (wr : Bool) (fuel : Nat) : ∀ {s t : State}, Parallel s0 e s t →
    ∀ va n lo, Alike s0 e (s.agentPieces stk dike none wr fuel va n lo) (t.agentPieces stk dike none wr fuel va n lo) := by
  induction fuel with
  | zero => exact fun h _ _ _ => h.alike _
  | succ fuel ih =>
    intro s t h va n lo
    unfold State.agentPieces
    refine (h.alike _).ite ?_
    extract_lets m
    obtain ⟨x, s, t, hs, ht, h⟩ := h.xlateAgent stk dike va wr
    rw [hs, ht]
    cases x with
    | ok g =>
      obtain ⟨r, s, t, hs, ht, h⟩ := ih h (va + m) (n - m) (lo + m)
      simp only [hs, ht]
      cases r with
      | ok ps => exact h.alike _
      | error x => exact h.alike _
    | fault c => exact h.alike _
    | walk => exact h.alike _
    | host ua => exact h.alike _

/-! ## System areas and their faults (R15, R47 to R49, R406) -/

theorem Parallel.dropLines (h : Parallel s0 e s t) (stk : Nat) (ps : List Piece) : Parallel s0 e (s.dropLines stk ps) (t.dropLines stk ps) := by
  unfold State.dropLines
  refine h.foldl (fun s t p h => ?_) _
  split
  · refine h.foldl (fun s t c h => ?_) _
    exact (h.writebackLine ..).dropFar ..
  · exact h

theorem Parallel.sysRead (h : Parallel s0 e s t) (stk dike va n : Nat) : Alike s0 e (s.sysRead stk dike va n) (t.sysRead stk dike va n) := by
  unfold State.sysRead
  simp only [h.stack]
  refine (h.alike _).ite ((h.alike _).ite ?_)
  obtain ⟨r, s, t, hs, ht, h⟩ := h.agentPieces stk dike false (n / 4096 + 2) va n 0
  rw [hs, ht]
  cases r with
  | error x => exact h.alike _
  | ok ps =>
    refine (h.alike _).ite ?_
    obtain ⟨⟨data, bad⟩, s, t, hs, ht, h⟩ := (h.dropLines stk ps).readPieces stk 0 none ps true 3 []
    simp only [hs, ht]
    cases bad with
    | cons b bs => exact h.alike _
    | nil => exact h.alike _

theorem Parallel.sysWrite (h : Parallel s0 e s t) (stk dike va : Nat) (bs : List Byte) :
    Alike s0 e (s.sysWrite stk dike va bs) (t.sysWrite stk dike va bs) := by
  unfold State.sysWrite
  simp only [h.stack]
  refine (h.alike _).ite (((h.modStack ..).alike _).ite ?_)
  obtain ⟨r, s, t, hs, ht, h⟩ := h.agentPieces stk dike true (bs.length / 4096 + 2) va bs.length 0
  rw [hs, ht]
  cases r with
  | error x => exact h.alike _
  | ok ps => exact (h.alike _).ite (((h.dropLines ..).writePieces ..).alike _)

theorem Parallel.faultQueue (h : Parallel s0 e s t) (stk dike : Nat) (r : List Byte) :
    Parallel s0 e (s.faultQueue stk dike r) (t.faultQueue stk dike r) := by
  unfold State.faultQueue
  simp only [h.stack]
  refine Parallel.ite ?_ (h.modStack ..)
  refine Parallel.ite (Parallel.emit ?_ _) ?_
  · exact (h.writeRun ..).modStack ..
  · exact (h.writeRun ..).modStack ..

theorem Parallel.sysFault (h : Parallel s0 e s t) (stk dike cause va : Nat) :
    Parallel s0 e (s.sysFault stk dike cause va) (t.sysFault stk dike cause va) := by
  unfold State.sysFault
  have h := h.modStack stk fun k => { k with dikeStopped := k.dikeStopped.add dike }
  simp only [h.podTime]
  exact (h.faultQueue ..).emit _

theorem Parallel.sysNum (h : Parallel s0 e s t) (stk dike va n : Nat) : Alike s0 e (s.sysNum stk dike va n) (t.sysNum stk dike va n) := by
  unfold State.sysNum
  obtain ⟨r, s, t, hs, ht, h⟩ := h.sysRead stk dike va n
  rw [hs, ht]
  cases r with
  | ok bs => exact h.alike _
  | error x => exact (h.sysFault ..).alike _

theorem Parallel.sysPut (h : Parallel s0 e s t) (stk dike va : Nat) (bs : List Byte) :
    Parallel s0 e (s.sysPut stk dike va bs) (t.sysPut stk dike va bs) := by
  unfold State.sysPut
  obtain ⟨r, s, t, hs, ht, h⟩ := h.sysWrite stk dike va bs
  rw [hs, ht]
  cases r with
  | ok u => exact h
  | error x => exact h.sysFault ..

end

/-! What follows for one field of a system area. -/

theorem sysNum_memoryStep (s : State) (stk dike va n : Nat) : MemoryStep s (s.sysNum stk dike va n).2 := by
  obtain ⟨a, u, v, hu, -, h⟩ := (Parallel.self s).sysNum stk dike va n
  rw [hu]
  exact h.since

theorem sysPut_memoryStep (s : State) (stk dike va : Nat) (bs : List Byte) : MemoryStep s (s.sysPut stk dike va bs) :=
  ((Parallel.self s).sysPut stk dike va bs).since

/-- Which tasks have ended does not matter to a field of a system area. -/
theorem sysNum_ended {s u : State} {stk dike va n a : Nat} (e : NSet) (h : s.sysNum stk dike va n = (a, u)) :
    State.sysNum { s with ended := e } stk dike va n = (a, { u with ended := e }) := by
  obtain ⟨b, v, w, hv, hw, hp⟩ := (Parallel.start s e).sysNum stk dike va n
  obtain ⟨rfl, rfl⟩ := Prod.mk.inj (h.symm.trans hv)
  rw [hw, hp.twin]

end Sys2Proof.MemorySteps

/-! What the end of a task and of its strand leaves (R161, R216, R368, R408): the other threads, the gang tasks, and the census packets at the
routers. -/

namespace Sys2Proof.TaskEnds

open Sys2Proof.Machine Sys2Proof.MemorySteps

/-- Every thread, the issuing slot, every polder's gang tasks and the census packets at the routers are as they were. -/
structure TaskFrame (s t : State) : Prop where
  cur : t.cur = s.cur
  threads : t.threads = s.threads
  gangs : ∀ k, (t.polder k).gangs = (s.polder k).gangs
  cin : ∀ k, (t.slice k).cin = (s.slice k).cin

theorem TaskFrame.refl (s : State) : TaskFrame s s := ⟨rfl, rfl, fun _ => rfl, fun _ => rfl⟩

section
variable {α : Type} {s t u : State}

theorem TaskFrame.trans (h : TaskFrame s t) (k : TaskFrame t u) : TaskFrame s u :=
  ⟨k.cur.trans h.cur, k.threads.trans h.threads, fun n => (k.gangs n).trans (h.gangs n), fun n => (k.cin n).trans (h.cin n)⟩

theorem TaskFrame.of_memoryStep (h : MemoryStep s t) : TaskFrame s t :=
  ⟨h.cur, h.threads, fun k => by unfold State.polder; rw [h.polders], h.cin⟩

theorem TaskFrame.foldl {f : State → α → State} (hf : ∀ s x, TaskFrame s (f s x)) (l : List α) : ∀ s, TaskFrame s (l.foldl f s) := by
  induction l with
  | nil => exact .refl
  | cons x l ih => exact fun s => (hf s x).trans (ih _)

theorem TaskFrame.ite {c : Prop} [Decidable c] (h : TaskFrame s t) (h' : TaskFrame s u) : TaskFrame s (if c then t else u) := by
  split
  · exact h
  · exact h'

/-! One update more. -/

theorem TaskFrame.modStack (h : TaskFrame s t) (k : Nat) (f : Stack → Stack) : TaskFrame s (t.modStack k f) :=
  h.trans ⟨rfl, rfl, fun _ => rfl, fun _ => rfl⟩

theorem TaskFrame.modCore (h : TaskFrame s t) (k : Nat) (f : Core → Core) : TaskFrame s (t.modCore k f) :=
  h.trans ⟨rfl, rfl, fun _ => rfl, fun _ => rfl⟩

theorem TaskFrame.setLevel (h : TaskFrame s t) (k : Nat) (l : LevelSt) : TaskFrame s (t.setLevel k l) :=
  h.trans ⟨rfl, rfl, fun _ => rfl, fun _ => rfl⟩

theorem TaskFrame.levels (h : TaskFrame s t) (l : SMap LevelSt) : TaskFrame s { t with levels := l } :=
  h.trans ⟨rfl, rfl, fun _ => rfl, fun _ => rfl⟩

theorem TaskFrame.launches (h : TaskFrame s t) (l : SMap Launch) : TaskFrame s { t with launches := l } :=
  h.trans ⟨rfl, rfl, fun _ => rfl, fun _ => rfl⟩

theorem TaskFrame.stackRecs (h : TaskFrame s t) (l : SMap Stack) : TaskFrame s { t with stackRecs := l } :=
  h.trans ⟨rfl, rfl, fun _ => rfl, fun _ => rfl⟩

theorem TaskFrame.modSlice (h : TaskFrame s t) (k : Nat) {f : Slice → Slice} (hf : ∀ x, (f x).cin = x.cin) :
    TaskFrame s (t.modSlice k f) := by
  refine h.trans ⟨rfl, rfl, fun _ => rfl, fun n => ?_⟩
  by_cases hn : n = k
  · subst hn; rw [State.modSlice_slice_self, hf]
  · rw [State.modSlice_slice_ne _ _ _ _ hn]

theorem TaskFrame.modPolder (h : TaskFrame s t) (k : Nat) {f : Polder → Polder} (hf : (f (t.polder k)).gangs = (t.polder k).gangs) :
    TaskFrame s (t.modPolder k f) := by
  refine h.trans ⟨rfl, rfl, fun n => ?_, fun _ => rfl⟩
  by_cases hn : n = k
  · subst hn; rw [State.modPolder_polder_self, hf]
  · rw [State.modPolder_polder_ne _ _ _ _ hn]

theorem TaskFrame.sysNum (h : TaskFrame s t) (stk dike va n : Nat) : TaskFrame s (t.sysNum stk dike va n).2 :=
  h.trans (.of_memoryStep (sysNum_memoryStep ..))

theorem TaskFrame.sysPut (h : TaskFrame s t) (stk dike va : Nat) (bs : List Byte) : TaskFrame s (t.sysPut stk dike va bs) :=
  h.trans (.of_memoryStep (sysPut_memoryStep ..))

end

/-- A map over the entries that keeps their keys and a part of every value keeps that part at every key. -/
theorem getD_map_part {α β : Type} {g : Nat × α → Nat × α} (p : α → β) (hk : ∀ e, (g e).1 = e.1) (hp : ∀ e, p (g e).2 = p e.2)
    (m : SMap α) (a : Nat) (d : α) : p (SMap.getD (m.map g) a d) = p (m.getD a d) := by
  induction m with
  | nil => rfl
  | cons e m ih =>
    obtain ⟨k, v⟩ := e
    simp only [SMap.getD, List.map_cons, SMap.find?, hk] at ih ⊢
    split
    · exact hp (k, v)
    · split
      · rfl
      · exact ih

theorem TaskFrame.mapSlices {s t : State} (h : TaskFrame s t) {g : Nat × Slice → Nat × Slice} (hk : ∀ e, (g e).1 = e.1)
    (hc : ∀ e, (g e).2.cin = e.2.cin) : TaskFrame s { t with slices := t.slices.map g } :=
  h.trans ⟨rfl, rfl, fun _ => rfl, fun k => getD_map_part Slice.cin hk hc _ k _⟩

theorem TaskFrame.mapPolders {s t : State} (h : TaskFrame s t) {g : Nat × Polder → Nat × Polder} (hk : ∀ e, (g e).1 = e.1)
    (hg : ∀ e, (g e).2.gangs = e.2.gangs) : TaskFrame s { t with polders := t.polders.map g } :=
  h.trans ⟨rfl, rfl, fun k => getD_map_part Polder.gangs hk hg _ k _, fun _ => rfl⟩

/-! ### The task -/

section
variable {s t : State}

theorem TaskFrame.graphChildDone (h : TaskFrame s t) (dike phase graph : Nat) : TaskFrame s (t.graphChildDone dike phase graph) := by
  unfold State.graphChildDone State.phaseDone
  refine TaskFrame.ite (TaskFrame.ite (TaskFrame.ite ?_ ?_) ?_) (h.setLevel ..)
  · exact ((((h.setLevel ..).levels _).setLevel ..).levels _).levels _
  · exact ((((h.setLevel ..).levels _).setLevel ..).levels _).setLevel ..
  · exact ((h.setLevel ..).levels _).setLevel ..

theorem TaskFrame.taskEnded (h : TaskFrame s t) (dike lid : Nat) (failed : Bool) (fault : Nat) (ran : Bool) :
    TaskFrame s (t.taskEnded dike lid failed fault ran) := by
  unfold State.taskEnded
  split
  · refine (h.launches _).ite (TaskFrame.graphChildDone ?_ ..)
    exact (h.modStack ..).launches _
  · exact h

theorem TaskFrame.freeRange (h : TaskFrame s t) (stk dike task : Nat) : TaskFrame s (t.freeRange stk dike task) := by
  unfold State.freeRange
  dsimp only
  refine TaskFrame.ite (TaskFrame.stackRecs ?_ _) (h.sysNum ..)
  exact (h.sysNum ..).sysNum ..

/-- What ends a task beside its responder's packet. -/
theorem endTask_taskFrame (s : State) (stk slice dike task status fault : Nat) (ran : Bool) (val : Option W64) (h : task ≠ 0) :
    TaskFrame (s.responderDone stk slice dike task val) (s.endTask stk slice dike task status fault ran val) := by
  unfold State.endTask
  rw [if_neg h]
  dsimp only
  refine TaskFrame.taskEnded ?_ ..
  have faulted := (((TaskFrame.refl (s.responderDone stk slice dike task val)).freeRange stk dike task).sysPut stk dike (task + 3)
    (leBytes 1 status))
  replace faulted := faulted.ite (faulted.sysPut stk dike (task + 62) (leBytes 1 fault)) (c := fault = 0)
  refine faulted.ite (TaskFrame.ite ?_ (TaskFrame.modSlice ?_ _ fun _ => rfl))
  · exact (faulted.sysNum ..).sysPut ..
  · exact (faulted.sysNum ..).sysPut ..

/-! ### The strand -/

theorem TaskFrame.leaveRegion (h : TaskFrame s t) (dike g : Nat) : TaskFrame s (t.leaveRegion dike g) := by
  unfold State.leaveRegion
  exact h.modStack ..

theorem TaskFrame.unpin (h : TaskFrame s t) (stk line : Nat) : TaskFrame s (t.unpin stk line) := by
  unfold State.unpin
  dsimp only
  split
  · exact h.modSlice _ fun _ => rfl
  · exact h

theorem TaskFrame.dropUser (h : TaskFrame s t) (pol slot : Nat) : TaskFrame s (t.dropUser pol slot) := by
  unfold State.dropUser State.modImage
  split
  · exact h.modPolder _ rfl
  · exact h

theorem TaskFrame.turnEnds (h : TaskFrame s t) (core : Nat) : TaskFrame s (t.turnEnds core) := by
  unfold State.turnEnds
  refine TaskFrame.ite (h.modPolder _ ?_) h
  split <;> rfl

theorem TaskFrame.discardSlot (h : TaskFrame s t) (thr : Nat) : TaskFrame s (t.discardSlot thr) := by
  unfold State.discardSlot
  dsimp only
  refine TaskFrame.trans (TaskFrame.dropUser (TaskFrame.turnEnds (TaskFrame.modCore ?_ ..) _) ..) (.foldl (fun s x => ?_) ..)
  · exact h.trans (.foldl (fun s x => (TaskFrame.refl s).unpin ..) ..)
  · exact (TaskFrame.refl s).dropUser ..

theorem TaskFrame.leaveTables (h : TaskFrame s t) (thr : Nat) (loads : Bool) : TaskFrame s (t.leaveTables thr loads) := by
  unfold State.leaveTables
  dsimp only
  refine TaskFrame.mapSlices (((h.modPolder _ ?_).modCore ..).modStack ..) (fun _ => rfl) fun _ => rfl
  rfl

theorem TaskFrame.forget (h : TaskFrame s t) (thr : Nat) : TaskFrame s (t.forget thr) := by
  unfold State.forget
  refine TaskFrame.modStack (TaskFrame.leaveTables (h.modPolder _ ?_) ..) ..
  rfl

/-- A strand that ends frees its slot and touches no other. -/
theorem strandEnds_frees (s : State) (thr : Nat) : ∃ t, TaskFrame s t ∧ s.strandEnds thr = t.setThread thr Thread.none := by
  unfold State.strandEnds State.freeSlot
  refine ⟨_, ?_, rfl⟩
  refine TaskFrame.forget (TaskFrame.discardSlot ?_ _) _
  split
  · exact (TaskFrame.refl s).leaveRegion ..
  · exact .refl s

/-- A task that holds no gang changes none when it ends (R208, R415). -/
theorem TaskFrame.endGang (h : TaskFrame s t) {pol task : Nat} (hg : ∀ g ∈ (t.polder pol).gangs, g.1 ≠ task) :
    TaskFrame s (t.endGang pol task) := by
  have unheld : (t.polder pol).gangs.filter (fun g => g.1 == task) = [] := by
    simpa [List.filter_eq_nil_iff] using hg
  unfold State.endGang State.dropGang
  refine h.ite ?_
  simp only [unheld, List.foldl_nil]
  refine h.modPolder _ (List.filter_eq_self.mpr fun g hx => ?_)
  simpa using hg g hx

end

end Sys2Proof.TaskEnds

/-! A census is asked for by `sol`, and its responders answer with `reply` (R375, R376, R447). -/

namespace Sys2Proof.CensusSlots

open Sys2Proof.Machine Sys2Proof.Claims Sys2Proof.MemorySteps Sys2Proof.TaskEnds

section
variable {s t : State}

theorem isResponder_memoryStep (s : State) : MemoryStep s s.isResponder.2 := by
  unfold State.isResponder
  split
  · exact .refl s
  · exact sysNum_memoryStep ..

/-! ## `reply` (R376) -/

/-- A thread whose task is a responder has a task. -/
theorem task_ne_zero_of_isResponder {s1 : State} (h : s.isResponder = (true, s1)) : s.me.task.toNat ≠ 0 := by
  intro h0
  have hz : s.me.task = 0 := BitVec.eq_of_toNat_eq h0
  rw [State.isResponder, if_pos hz] at h
  cases h

/-- The packet of one responder that is done with a value: its handle names the asker and the census slot (R375, R376). -/
structure ReplyPacket (p : CensusPkt) (dike handle : Nat) (val : Option W64) : Prop where
  dike : p.dike = dike
  slot : p.slot = handle % 64
  asker : p.asker = handle / 2 ^ 32
  val : p.val = val
  done : p.done = 1
  spawned : p.spawned = 0
  reported : p.reported = 0

/-- The end of a responder sends its packet. -/
theorem responderDone_sends {s4 s5 : State} {stk slice dike task b h2 : Nat} (val : Option W64)
    (hb : s.sysNum stk dike (task + 59) 1 = (b, s4)) (hbit : b.testBit 4 = true) (hh : s4.sysNum stk dike (task + 48) 8 = (h2, s5)) :
    ∃ u p, s.responderDone stk slice dike task val = u.censusSend slice p ∧ TaskFrame s u ∧ ReplyPacket p dike h2 val := by
  unfold State.responderDone
  simp only [hb, hbit, hh, if_true]
  refine ⟨_, _, rfl, ?_, ⟨rfl, rfl, rfl, rfl, rfl, rfl, rfl⟩⟩
  have read : TaskFrame s s5 := by
    have read4 := (TaskFrame.refl s).sysNum stk dike (task + 59) 1
    rw [hb] at read4
    have read5 := read4.sysNum stk dike (task + 48) 8
    rwa [hh] at read5
  refine read.mapPolders (fun e => ?_) fun e => ?_
  all_goals split <;> rfl

/-- A responder that had not ended sends its packet when its task ends. -/
theorem endOnce_sends {s4 s5 : State} {stk slice dike task b h2 : Nat} (val : Option W64)
    (hb : s.sysNum stk dike (task + 59) 1 = (b, s4)) (hbit : b.testBit 4 = true) (hh : s4.sysNum stk dike (task + 48) 8 = (h2, s5))
    (ht : task ≠ 0) (he : s.ended.has (memberKey dike task) = false) :
    ∃ u p, TaskFrame s u ∧ ReplyPacket p dike h2 val ∧ TaskFrame (u.censusSend slice p) (s.endOnce stk slice dike task 5 0 val) := by
  obtain ⟨u, p, hp, hu, packet⟩ := responderDone_sends (slice := slice) val (sysNum_ended (s.ended.add (memberKey dike task)) hb) hbit
    (sysNum_ended _ hh)
  refine ⟨u, p, ⟨hu.cur, hu.threads, hu.gangs, hu.cin⟩, packet, ?_⟩
  rw [State.endOnce, he, ← hp]
  exact endTask_taskFrame _ stk slice dike task 5 0 true val ht

/-- A task that ends without a release, with its older stores performed: the task, then its strand, then its gang. -/
theorem finishTask_of_stored {val : Option W64} {w : State} (hs : s.storesDone = true)
    (hw : State.endOnce (s.modMyStack fun k => { k with kept := k.kept.erase (keptKey (s.jobOf s.cur) s.me.task.toNat) }) (stkOf s.cur)
      (sliceOf s.cur) (s.jobOf s.cur) s.me.task.toNat 5 0 val = w) :
    s.finishTask val false = (w.strandEnds w.thr).endGang (polOf w.cur) s.me.task.toNat := by
  unfold State.finishTask State.afterStores
  rw [if_pos hs, ← hw]
  rfl

/-- A responder's task ends with `reply`: its packet joins those of the slice's router, and its slot is free. -/
theorem finishTask_sends {s4 s5 : State} {b h2 : Nat} (val : Option W64) (hs : s.storesDone = true) (ht : s.me.task.toNat ≠ 0)
    (hg : NoGang s) (he : s.ended.has (memberKey (s.jobOf s.cur) s.me.task.toNat) = false)
    (hb : (s.modMyStack fun k => { k with kept := k.kept.erase (keptKey (s.jobOf s.cur) s.me.task.toNat) }).sysNum (stkOf s.cur)
      (s.jobOf s.cur) (s.me.task.toNat + 59) 1 = (b, s4)) (hbit : b.testBit 4 = true)
    (hh : s4.sysNum (stkOf s.cur) (s.jobOf s.cur) (s.me.task.toNat + 48) 8 = (h2, s5)) :
    ∃ p, ReplyPacket p (s.jobOf s.cur) h2 val ∧ (s.finishTask val false).thread s.thr = Thread.none
      ∧ OthersSame s (s.finishTask val false) s.thr
      ∧ ((s.finishTask val false).slice (sliceOf s.cur)).cin = (s.slice (sliceOf s.cur)).cin ++ [p] := by
  obtain ⟨u, p, hu, packet, ends⟩ := endOnce_sends (slice := sliceOf s.cur) val hb hbit hh ht he
  have sent : TaskFrame s u := ((TaskFrame.refl s).modStack ..).trans hu
  generalize hw : State.endOnce _ _ _ _ _ _ _ _ = w at ends
  rw [finishTask_of_stored hs hw]
  have cur : w.cur = s.cur := ends.cur.trans sent.cur
  rw [show w.thr = s.thr from congrArg thrOf cur, cur]
  obtain ⟨x, strand, hx⟩ := strandEnds_frees w s.thr
  rw [hx]
  have free : TaskFrame (x.setThread s.thr Thread.none) ((x.setThread s.thr Thread.none).endGang (polOf s.cur) s.me.task.toNat) := by
    refine (TaskFrame.refl _).endGang fun g hm => hg g ?_
    rwa [State.setThread_polder, strand.gangs, ends.gangs, State.censusSend, State.modSlice_polder, sent.gangs] at hm
  generalize State.endGang _ _ _ = y at free
  have threads : x.threads = s.threads := strand.threads.trans (ends.threads.trans sent.threads)
  refine ⟨p, packet, ?_, fun k hk => ?_, ?_⟩
  · rw [State.thread, free.threads, ← State.thread, State.setThread_thread_self]
  · rw [State.thread, free.threads, ← State.thread, State.setThread_thread_ne _ _ _ _ hk, State.thread, threads, ← State.thread]
  · rw [free.cin, State.setThread_slice, strand.cin, ends.cin, State.censusSend, State.modSlice_slice_self, sent.cin]

/-- The value that a responder's packet carries: by the combine of the census that its handle names, and 0 where there is none (R376). -/
def replyValue (x : Option Census) (val : W64) : W64 :=
  match (match x with | some c => c.comb | none => .count) with
  | .addF32 => (val.setWidth 32).setWidth 64
  | .maxF32 => (val.setWidth 32).setWidth 64
  | .count => 0
  | _ => val

/-- `reply` of a responder ends its task with the value, in the state that reading its TCB leaves. -/
theorem reply_runs {s1 s2 : State} {a h : Nat} (ready : Ready s [.s a] []) (hr : s.isResponder = (true, s1))
    (hh : s1.sysNum (stkOf s.cur) (s.jobOf s.cur) (s.me.task.toNat + 48) 8 = (h, s2)) : MemoryStep s s2
      ∧ exec (.reply a) s
        = .next (s2.finishTask (some (replyValue (s.census.find? (censusKey (s.jobOf s.cur) (h % 64))) (s.sval a))) false) := by
  have step1 : MemoryStep s s1 := by
    have step := isResponder_memoryStep s
    rwa [hr] at step
  have step2 : MemoryStep s s2 := by
    have step := step1.trans (sysNum_memoryStep s1 (stkOf s.cur) (s.jobOf s.cur) (s.me.task.toNat + 48) 8)
    rwa [hh] at step
  refine ⟨step2, ?_⟩
  show execReply a s = _
  rw [execReply, State.withGate_go _ ready, hr]
  simp only [step1.cur, step1.jobOf, step1.me, hh, step2.census, step2.sval]
  rfl

theorem replies : Replies := by
  refine ⟨?responder, ?other⟩
  case other =>
    intro s s1 a ready hr
    show execReply a s = _
    rw [execReply, State.withGate_go _ ready, hr]
  case responder =>
    intro s s1 s2 s4 s5 a h b h2 ready hr hs hg he dike task hh hb hbit hh2
    obtain ⟨step, runs⟩ := reply_runs ready hr hh
    generalize hv : replyValue _ _ = v at runs
    have ends := finishTask_sends (s := s2) (s4 := s4) (s5 := s5) (b := b) (h2 := h2) (some v)
    rw [NoGang, step.storesDone, step.me, step.myPolder, step.ended, step.cur, step.jobOf, step.thr] at ends
    obtain ⟨p, packet, free, others, cin⟩ := ends hs (task_ne_zero_of_isResponder hr) hg he hb hbit hh2
    refine ⟨_, p, runs, free, fun k hk => (others k hk).trans (step.thread k), cin.trans (by rw [step.cin]), packet.dike, packet.slot,
      packet.asker, packet.done, packet.spawned, packet.reported, fun x hx hc => ?_, fun x hx hc => ?_⟩
    · rw [packet.val, ← hv, hx]
      rcases hc with hc | hc <;> simp [replyValue, hc]
    · rw [packet.val, ← hv, hx]
      rcases hc with hc | hc | hc | hc <;> simp [replyValue, hc]

/-! ## `sol` (R375) -/

theorem freeCensus_eq_some {dike c : Nat} (hc : c < 64) (free : s.census.find? (censusKey dike c) = none)
    (taken : ∀ k < c, s.census.find? (censusKey dike k) ≠ none) : s.freeCensus dike = some c := by
  rw [State.freeCensus, List.find?_range_eq_some]
  exact ⟨by simpa using free, by simpa using hc, fun k hk => by simpa [Option.isSome_iff_ne_none] using taken k hk⟩

theorem freeCensus_eq_none {dike : Nat} (taken : ∀ c < 64, s.census.find? (censusKey dike c) ≠ none) : s.freeCensus dike = none := by
  rw [State.freeCensus, List.find?_range_eq_none]
  exact fun c hc => by simpa [Option.isSome_iff_ne_none] using taken c hc

/-! A register that is made owed. No owed cell is what an unlisted register holds, so this needs no order of the bank. -/

theorem setSt_owed_bank (x : Thread) {n : Nat} (w : Due) (hn : n ≠ 0) :
    (x.setSt (.s n) (.owed w)).s = x.s.insert n { x.sreg n with st := .owed w } := by
  have listed : ({ x.sreg n with st := .owed w } : Cell 64) ≠ Cell.zero 64 := fun h => nomatch congrArg Cell.st h
  simp only [Thread.setSt, Thread.setS, hn, if_false, SMap.put, listed]

theorem sreg_setSt_owed (x : Thread) {n : Nat} (m : Nat) (w : Due) (hn : n ≠ 0) :
    (x.setSt (.s n) (.owed w)).sreg m = if m = n then { x.sreg m with st := .owed w } else x.sreg m := by
  by_cases hm : m = 0
  · subst hm; simp [Ne.symm hn]
  · rw [Thread.sreg, if_neg hm, setSt_owed_bank x w hn, SMap.getD_insert]
    split
    · next h => rw [h]
    · rw [Thread.sreg, if_neg hm]

/-- The asker as `sol` leaves it: both registers are owed to the census. -/
def owePair (x : Thread) (d : Nat) : Thread := (x.setSt (.s d) (.owed .census)).setSt (.s (d + 1)) (.owed .census)

theorem owePair_first (x : Thread) {d : Nat} (hd : d ≠ 0) : (owePair x d).stOf (.s d) = .owed .census := by
  simp [owePair, Thread.stOf, sreg_setSt_owed _ _ _ (Nat.succ_ne_zero d), sreg_setSt_owed _ _ _ hd]

theorem owePair_second (x : Thread) (d : Nat) : (owePair x d).stOf (.s (d + 1)) = .owed .census := by
  simp [owePair, Thread.stOf, sreg_setSt_owed _ _ _ (Nat.succ_ne_zero d)]

theorem owePair_scalarsBut (x : Thread) (d : Nat) : ScalarsBut x (owePair x d) [d, d + 1] := by
  intro n hn
  obtain ⟨hd, hd1⟩ : n ≠ d ∧ n ≠ d + 1 := by simpa using hn
  rw [owePair, sreg_setSt_owed _ _ _ (Nat.succ_ne_zero d), if_neg hd1]
  by_cases h0 : d = 0
  · subst h0; rfl
  · rw [sreg_setSt_owed _ _ _ h0, if_neg hd]

@[simp] theorem popIf_threads (s : State) (srcs : List Nat) : (s.popIf srcs).threads = s.threads := by unfold State.popIf; split <;> rfl
@[simp] theorem popIf_census (s : State) (srcs : List Nat) : (s.popIf srcs).census = s.census := by unfold State.popIf; split <;> rfl
@[simp] theorem popIf_cur (s : State) (srcs : List Nat) : (s.popIf srcs).cur = s.cur := by unfold State.popIf; split <;> rfl

@[simp] theorem popIf_thread (s : State) (srcs : List Nat) (k : Nat) : (s.popIf srcs).thread k = s.thread k := by
  rw [State.thread, popIf_threads, State.thread]

/-- A machine with a census entered under a key, and its asker gone on. -/
def enterCensus (s : State) (key : Nat) (x : Census) (d : Nat) (srcs : List Nat) : State :=
  ((State.modMe { s with census := s.census.insert key x } fun t => owePair t d).popIf srcs).advance 8

theorem enterCensus_census (s : State) (key : Nat) (x : Census) (d : Nat) (srcs : List Nat) :
    (enterCensus s key x d srcs).census = s.census.insert key x := popIf_census ..

theorem enterCensus_me (s : State) (key : Nat) (x : Census) (d : Nat) (srcs : List Nat) : (enterCensus s key x d srcs).me
    = { owePair s.me d with pc := (owePair s.me d).pc + 8, wait := .no, prog := .none, xfault := none, hgot := [] } := by
  have owed : ((State.modMe { s with census := s.census.insert key x } fun t => owePair t d).popIf srcs).me = owePair s.me d := by
    rw [State.me, popIf_thread, popIf_cur]
    exact State.modThread_thread_self ..
  rw [enterCensus, State.advance, State.goto_me, owed]

theorem enterCensus_others (s : State) (key : Nat) (x : Census) (d : Nat) (srcs : List Nat) :
    OthersSame s (enterCensus s key x d srcs) s.thr := by
  intro k hk
  have cur : thrOf ((State.modMe { s with census := s.census.insert key x } fun t => owePair t d).popIf srcs).cur = s.thr :=
    congrArg thrOf (popIf_cur ..)
  rw [enterCensus, State.advance, State.goto, State.modMe, cur, State.modThread_thread_ne _ _ _ _ hk, popIf_thread]
  exact State.modThread_thread_ne _ _ _ _ hk

/-- The priority that a census takes from its asker's task, read from its TCB (R375, R404). -/
theorem askerPriority_memoryStep (s : State) (dike : Nat) : ∃ prio u,
    (if s.me.task = 0 then (0, s) else s.sysNum (stkOf s.cur) dike (s.me.task.toNat + 2) 1) = (prio, u) ∧ MemoryStep s u := by
  by_cases h : s.me.task = 0
  · exact ⟨0, s, if_pos h, .refl s⟩
  · exact ⟨_, _, if_neg h, sysNum_memoryStep ..⟩

/-- The census that `sol` enters: open, with nothing reported, asked by the slot that issues (R375). -/
def newCensus (s : State) (im : Image) (d a b imp : Nat) (scope : Scope) (comb : Comb) (prio : Nat) : Census :=
  { state := 1, key := s.sval a, arg := s.sval b, asker := s.cur, scope := scope, comb := comb, digest := im.import? imp, dst := d,
    expected := (s.scopePolders (s.jobOf s.cur) s.cur scope).length, reported := 0, spawned := 0, done := 0, holds := 0, acc := none,
    time := s.timeAt s.cur, task := s.me.task.toNat, prio := prio % 8, pendDirs := s.scopePolders (s.jobOf s.cur) s.cur scope,
    pendAcks := [] }

section
variable {d a b imp : Nat} {scope : Scope} {comb : Comb} {im : Image} (himg : s.myImage = some im) (himp : imp < im.imports.length)
  (ready : Ready s [.s a, .s b] [.s d, .s (d + 1)]) (hs : s.storesDone = true)
include himg himp ready hs

/-- `sol` past its checks enters its census at the free slot, in the state that reading the asker's priority leaves. -/
theorem sol_enters {c : Nat} (hc : s.freeCensus (s.jobOf s.cur) = some c) : ∃ u prio, MemoryStep s u
    ∧ exec (.sol d a b imp scope comb) s
      = .next (enterCensus u (censusKey (s.jobOf s.cur) c) (newCensus s im d a b imp scope comb prio) d [a, b]) := by
  obtain ⟨prio, u, hp, step⟩ := askerPriority_memoryStep s (s.jobOf s.cur)
  refine ⟨u, prio, step, ?_⟩
  show execSol d a b imp scope comb s = _
  rw [execSol, himg]
  dsimp only
  rw [if_neg (Nat.not_le.mpr himp), State.withGate_go _ ready, State.afterStores, if_pos hs, hc]
  dsimp only
  rw [hp]
  change Host.Outcome.next (enterCensus u _ _ d [a, b]) = _
  rw [step.sval, step.sval, step.cur, step.timeAt, step.me]
  rfl

/-- `sol` traps while every slot of the dike holds a census. -/
theorem sol_traps (hc : s.freeCensus (s.jobOf s.cur) = none) : exec (.sol d a b imp scope comb) s = .next (s.trap 0x0E 0) := by
  show execSol d a b imp scope comb s = _
  rw [execSol, himg]
  dsimp only
  rw [if_neg (Nat.not_le.mpr himp), State.withGate_go _ ready, State.afterStores, if_pos hs, hc]

end

end

theorem censusesOpen : CensusesOpen := by
  intro s d a b imp scope comb im himg himp ready hs dike
  refine ⟨fun c hc free taken => ?_, fun taken => sol_traps himg himp ready hs (freeCensus_eq_none taken)⟩
  obtain ⟨u, prio, step, runs⟩ := sol_enters (comb := comb) himg himp ready hs (freeCensus_eq_some hc free taken)
  refine ⟨_, _, runs, by rw [enterCensus_census, SMap.find?_insert_self], rfl, rfl, rfl, rfl, rfl, rfl, rfl, rfl, rfl, rfl, rfl, rfl, rfl,
    rfl, rfl, fun k hk => ?others, fun hd => ?first, ?second, fun n hn => ?scalars, ?pc, fun k hk => ?threads⟩
  case others => rw [enterCensus_census, SMap.find?_insert_ne hk, step.census]
  case threads => exact (enterCensus_others u _ _ _ _ k (by rwa [step.thr])).trans (step.thread k)
  all_goals rw [enterCensus_me, step.me]
  case first => exact owePair_first _ hd
  case second => exact owePair_second _ d
  case scalars => exact owePair_scalarsBut _ d n hn
  case pc => simp [owePair, Thread.setSt]

/-- Settles O32: a census is entered at the lowest free key of its dike and its registers are owed; a responder's packet leaves as its task
ends. -/
theorem censusesAsk : Obligations.CensusesAsk := ⟨censusesOpen, replies⟩

end Sys2Proof.CensusSlots
